-- ==== Sys2Proof/Word.lean ====
section
/-! DEFINITION. The word types of the WZ6410 (R1) and the outcome a word has under the ECC engine. -/

namespace Sys2Proof

/-- A byte of the link or of the array. -/
abbrev Byte := BitVec 8

/-- A word of the array: 8 bytes, byte 0 in the low bits (R1, R189). -/
abbrev Word := BitVec 64

/-- A key: 1 to 32 arbitrary bytes (Conventions, Keys). -/
abbrev Key := List Byte

/-- What the ECC engine says of a word (R1, R109). -/
inductive Ecc
  /-- data and check bits agree -/
  | clean
  /-- one flipped bit, corrected -/
  | corrected
  /-- two flipped bits, detected: no value is given -/
  | uncorrectable
  deriving DecidableEq, Repr, Inhabited

/-- A word of the array as its bits stand: the codeword nearest to them and the ECC outcome (R1). -/
structure RawWord where
  data : Word
  ecc : Ecc
  deriving DecidableEq, Repr, Inhabited

/-- A word whose data bits and check bits are all ones (R1). -/
def blankWord : RawWord := ⟨BitVec.allOnes 64, .clean⟩

end Sys2Proof
end

