-- ==== Sys2Proof/Syntax.lean ====
section
/-! DEFINITION. The commands of the block: one constructor per row of spec/opcode_table.json. -/

namespace Sys2Proof

/-- The request kinds of R184. -/
inductive ReqKind
  | hello | get | stat | list | put | delete | fence | beginGroup | commit | abort
  | space | sectors | tidy | format | reset
  deriving DecidableEq, Repr

/-- The commands. A request row carries the TAG, FLAGS and payload bytes of its frame (R183); a
completion row carries what the array did, which the spec leaves to the array (log 3). -/
inductive Instr
  /-- HELLO [begin a session] (R169, R170) -/
  | hello (tag flags : Byte) (payload : List Byte)
  /-- GET [fetch a value] (R77) -/
  | get (tag flags : Byte) (payload : List Byte)
  /-- STAT [describe a key] (R85) -/
  | stat (tag flags : Byte) (payload : List Byte)
  /-- LIST [enumerate keys] (R86) -/
  | list (tag flags : Byte) (payload : List Byte)
  /-- PUT, lone or group-flagged (R42, R64) -/
  | put (tag flags : Byte) (payload : List Byte)
  /-- DELETE, lone or group-flagged (R43, R65) -/
  | delete (tag flags : Byte) (payload : List Byte)
  /-- FENCE [wait for earlier writes] (R52) -/
  | fence (tag flags : Byte) (payload : List Byte)
  /-- BEGIN [open a group] (R62) -/
  | beginGroup (tag flags : Byte) (payload : List Byte)
  /-- COMMIT [land the group] (R68) -/
  | commit (tag flags : Byte) (payload : List Byte)
  /-- ABORT [discard the open group] (R72) -/
  | abort (tag flags : Byte) (payload : List Byte)
  /-- SPACE [report space and sectors] (R132) -/
  | space (tag flags : Byte) (payload : List Byte)
  /-- SECTORS [read Sector Table rows] (R133) -/
  | sectors (tag flags : Byte) (payload : List Byte)
  /-- TIDY [reclaim sectors over a threshold] (R134) -/
  | tidy (tag flags : Byte) (payload : List Byte)
  /-- FORMAT [erase the store] (R145) -/
  | format (tag flags : Byte) (payload : List Byte)
  /-- RESET [restart the part] (R149) -/
  | reset (tag flags : Byte) (payload : List Byte)
  /-- a good frame whose KIND is no request kind (R186) -/
  | unknownKindFrame (kind : List Byte) (tag flags : Byte) (payload : List Byte)
  /-- a character on RXD, with or without a framing error (R175, R176) -/
  | characterReceived (char : Byte) (framingError : Bool)
  /-- the gap timer expires (R177) -/
  | gapTimerExpiry
  /-- RXD has been low for 1 ms (R178) -/
  | breakRecognised
  /-- the last byte of the head frame is sent (R180) -/
  | frameSent
  /-- a later step of the listing of the LIST with this tag (R87) -/
  | listStep (tag : Byte)
  /-- a GET's read completes; `decayed` are the words (index in the sector) found changed (R80) -/
  | getReadComplete (decayed : List (Nat × RawWord))
  /-- a reclaim read completes (R120) -/
  | reclaimReadComplete (decayed : List (Nat × RawWord))
  /-- a mount read completes (R140) -/
  | mountReadComplete (decayed : List (Nat × RawWord))
  /-- a word program of an open word or record word ends, verified or not (R99, R100) -/
  | wordProgramComplete (verified : Bool)
  /-- a word has not verified within 150 µs (R100) -/
  | wordProgramTimeout
  /-- an erase pulse reaches its suspension point (R111) -/
  | eraseSuspend
  /-- an erase's pulse phase finishes; `stuck` are the words that are not blank after it (R110) -/
  | erasePulseComplete (stuck : List (Nat × RawWord))
  /-- an erase's running time passes 500 ms (R110) -/
  | eraseTimeout
  /-- an erase's blank check ends (R110) -/
  | blankCheckComplete
  /-- the erase word's program ends, verified or not (R129, R130) -/
  | eraseWordProgramComplete (verified : Bool)
  /-- the Erase Batch's window timer expires (R128) -/
  | eraseWindowExpiry
  /-- the supply falls below the hold threshold (R154) -/
  | supplyBelowHold
  /-- the supply rises above the normal threshold (R152) -/
  | supplyAboveNormal
  /-- the supply falls to the normal threshold or below (R152) -/
  | supplyFallInQualification
  /-- the qualification timer expires (R156) -/
  | qualificationTimerExpiry
  /-- the hold timer expires (R158) -/
  | holdTimerExpiry
  /-- the supply falls below the power-on threshold (R153) -/
  | powerOnResetAsserted
  /-- power-on reset is released; `aboveNormal`: the supply is above the normal threshold (R153) -/
  | powerOnRelease (aboveNormal : Bool)
  /-- nRESET has been low for 10 µs (R136) -/
  | nresetLow
  /-- nRESET returns high (R136) -/
  | nresetHigh
  /-- the supply rises above the power-on threshold (R153) -/
  | supplyAbovePowerOnThreshold
  deriving DecidableEq, Repr

end Sys2Proof
end

