-- ==== Sys2Proof/Decode.lean ====
section
/-! DEFINITION. The command a table word spells (no row of the table gives bits) and the KIND codes
that name a request on the link (R184). -/

namespace Sys2Proof

/-- No row of spec/opcode_table.json gives bits, so no word spells a command. -/
def decodeTableWord (_nbits _w : Nat) : Option Instr := none

/-- The four ASCII characters of a request's KIND (R184). -/
def kindCode : ReqKind → List Byte
  | .hello => [0x48, 0x45, 0x4C, 0x4F]       -- HELO
  | .get => [0x47, 0x45, 0x54, 0x56]         -- GETV
  | .stat => [0x53, 0x54, 0x41, 0x54]        -- STAT
  | .list => [0x4C, 0x49, 0x53, 0x54]        -- LIST
  | .put => [0x50, 0x55, 0x54, 0x56]         -- PUTV
  | .delete => [0x44, 0x45, 0x4C, 0x4B]      -- DELK
  | .fence => [0x46, 0x45, 0x4E, 0x43]       -- FENC
  | .beginGroup => [0x42, 0x45, 0x47, 0x4E]  -- BEGN
  | .commit => [0x43, 0x4D, 0x49, 0x54]      -- CMIT
  | .abort => [0x41, 0x42, 0x52, 0x54]       -- ABRT
  | .space => [0x53, 0x50, 0x41, 0x43]       -- SPAC
  | .sectors => [0x53, 0x45, 0x43, 0x54]     -- SECT
  | .tidy => [0x54, 0x49, 0x44, 0x59]        -- TIDY
  | .format => [0x46, 0x52, 0x4D, 0x54]      -- FRMT
  | .reset => [0x52, 0x53, 0x45, 0x54]       -- RSET

/-- Every request kind, in the order of R184. -/
def allKinds : List ReqKind :=
  [.hello, .get, .stat, .list, .put, .delete, .fence, .beginGroup, .commit, .abort,
   .space, .sectors, .tidy, .format, .reset]

/-- The request kind a KIND names, compared byte for byte (R184). -/
def kindOf (code : List Byte) : Option ReqKind := allKinds.find? (fun k => kindCode k = code)

/-- KIND of PENDING and STILL_PENDING (R184): PEND. -/
def kindPend : List Byte := [0x50, 0x45, 0x4E, 0x44]
/-- KIND of a final reply (R184): RPLY. -/
def kindReply : List Byte := [0x52, 0x50, 0x4C, 0x59]
/-- KIND of a notice (R184): NOTE. -/
def kindNote : List Byte := [0x4E, 0x4F, 0x54, 0x45]

end Sys2Proof
end

