-- ==== Sys2Proof/Config.lean ====
section
/-! DEFINITION. The quantities of the part's capacity summary and the free values the spec leaves open. -/

namespace Sys2Proof.Config

/-- Sectors of the array (R1). -/
abbrev sectors : Nat := 128
/-- Words of a sector (R1). -/
abbrev sectorWords : Nat := 4096
/-- Bytes of a sector (R1). -/
abbrev sectorBytes : Nat := 32768
/-- Bytes of a sector's data area (R113). -/
abbrev dataArea : Nat := 32752
/-- Request slots (R160). -/
abbrev maxSlots : Nat := 8
/-- Replay Cache entries (R167). -/
abbrev maxCache : Nat := 8
/-- Transmit Queue frames (R180). -/
abbrev maxTx : Nat := 32
/-- A retry answer joins at this many frames or fewer (R180). -/
abbrev retryTx : Nat := 8
/-- A notice joins at this many frames or fewer (R180, R181). -/
abbrev noticeTx : Nat := 4
/-- Directory entries (R21). -/
abbrev maxEntries : Nat := 3072
/-- Write Queue entries (R45). -/
abbrev maxQueue : Nat := 24
/-- Staging Buffer bytes (R46). -/
abbrev stagingBytes : Nat := 24576
/-- Group members (R61). -/
abbrev maxMembers : Nat := 16
/-- Staged bytes of a group (R61). -/
abbrev maxStaged : Nat := 16384
/-- Key bytes (R42). -/
abbrev maxKey : Nat := 32
/-- Value bytes (R42). -/
abbrev maxValue : Nat := 2000
/-- Largest record (R8). -/
abbrev maxRecord : Nat := 2056
/-- Largest frame payload (R183). -/
abbrev maxPayload : Nat := 2080
/-- Encoded bytes of the items of one LIST reply (R89). -/
abbrev maxItemBytes : Nat := 2048
/-- Saturation of an erase count (R3). -/
abbrev maxEraseCount : Nat := 16777215
/-- Saturation of a corrected-error count (R113). -/
abbrev maxCorrected : Nat := 65535
/-- Erase Batch members (R127). -/
abbrev maxBatch : Nat := 4
/-- Bytes credited to a usable sector (R37). -/
abbrev creditBytes : Nat := 28672
/-- Erase-count spread above which a wear move starts (R131). -/
abbrev wearSpread : Nat := 2000
/-- Usable sectors with which a FORMAT ends ONLINE (R147). -/
abbrev formatUsable : Nat := 8
/-- The rate after a restart or a break, in bit/s (R174). -/
abbrev defaultRate : Nat := 115200
/-- The selectable rates (R174). -/
def rates : List Nat := [115200, 460800, 921600, 2000000]

/-- FREE VALUE (log 4): the bits of word `index` of the array after the `seed`-th program or erase
that was cut short or failed there. The spec calls them indeterminate (R2, R100, R107, R110). -/
opaque indeterminate (seed index : Nat) : RawWord

/-- FREE VALUE (log 9): the controller's revision number, which the spec does not give (R171). -/
opaque revision : Byte

end Sys2Proof.Config
end

