-- ==== Sys2Proof/Machine/State.lean ====
section
/-! DEFINITION. The state of the WZ6410, block by block, and the state right after a restart. -/

namespace Sys2Proof.Machine

/-! ## Stops -/

/-- The model's one fault. -/
inductive Fault
  /-- Raised by an array event whose operation addresses a word outside the 128 × 4096 words of R1.
  No reachable state holds such an operation. Safe: the model stops where nothing is specified. -/
  | addressOutsideArray
  deriving DecidableEq, Repr

/-- Refusals. -/
inductive Refusal
  /-- Reserved for a command without a meaning; every command has one, so nothing raises it. Safe. -/
  | notModelled (mnemonic : String)
  deriving DecidableEq, Repr

/-! ## Names of the spec -/

/-- The statuses of R173, in the order of their values in R187. -/
inductive Status
  | ok | notFound | conflict | noSpace | noEntry | tooLarge | badRequest | tableFull | tagInUse
  | notReady | readOnly | unformatted | corrupt | groupState | groupFull | supplyLow | mediaFault
  | alreadyActive | notIdle | failedBefore | stillPending
  deriving DecidableEq, Repr

/-- The device states of R137. -/
inductive DeviceState
  | mounting | unformatted | formatting | online | readOnly | draining
  deriving DecidableEq, Repr

/-- The states of a Directory entry (R18). -/
inductive EntryState
  | present | tombstone | lost
  deriving DecidableEq, Repr

/-- The record kinds of R7. -/
inductive RecordKind
  | data | tombstone | loss
  deriving DecidableEq, Repr

/-- The sector states of R117; `opened` is OPEN. -/
inductive SectorState
  | erased | opened | full | reclaiming | stale | erasing | retired
  deriving DecidableEq, Repr

/-- The notice kinds of R182, by number. -/
inductive NoticeKind
  | state | supply | sectorRetired | spaceLow | frameDropped | linkReset | wear
  deriving DecidableEq, Repr

/-- The wait reasons of R163. -/
inductive WaitReason
  | admission | durable | fence | commit | tidy | format | drain | flashRead
  deriving DecidableEq, Repr

/-! ## Link Controller -/

/-- The receiver's states (R175). -/
inductive RxState
  | hunt | header | payload | check
  deriving DecidableEq, Repr

/-- The fields of a frame (R183); SYNC, LENGTH and CRC follow from them. -/
structure Frame where
  kind : List Byte
  tag : Byte
  flags : Byte
  payload : List Byte
  deriving DecidableEq, Repr

/-- An entry of the Transmit Queue (R180): the frame, the rate change it carries (R179), and whether
it is the RESET reply whose leaving brings the restart (R151). -/
structure TxFrame where
  frame : Frame
  rateChange : Option Nat
  restarts : Bool
  deriving DecidableEq, Repr

/-- The Link Controller's state (R174, R175, R177, R180, R181). -/
structure Link where
  rx : RxState
  /-- LENGTH, KIND, TAG, FLAGS, payload and CRC bytes of the frame in progress -/
  got : List Byte
  /-- the gap timer runs -/
  gap : Bool
  rate : Nat
  txq : List TxFrame
  /-- the Notice Set, by kind number -/
  notices : List NoticeKind
  deriving DecidableEq, Repr

/-! ## Request Table -/

/-- Whether a slot belongs to the current session (R168). -/
inductive SlotSession
  | current | ended
  deriving DecidableEq, Repr

/-- The request states of R163. FINISHED lasts no longer than the event that decides the reply. -/
inductive SlotState
  | running | waiting | finished
  deriving DecidableEq, Repr

/-- The decoded fields of a PUT or DELETE (R185); a DELETE's value is empty. -/
structure WriteFields where
  durable : Bool
  group : Bool
  key : Key
  value : List Byte
  ifSeq : Option Nat
  deriving DecidableEq, Repr

/-- The RESET modes of R149. -/
inductive ResetMode
  | drain | discard
  deriving DecidableEq, Repr

/-- A decoded request (R185); HELLO takes no slot. -/
inductive Request
  | get (key : Key)
  | stat (key : Key)
  | list (after : Option Key) (max : Nat)
  | put (w : WriteFields)
  | delete (w : WriteFields)
  | fence
  | beginGroup
  | commit
  | abort
  | space
  | sectors (first count : Nat)
  | tidy (threshold : Nat)
  | format
  | reset (mode : ResetMode)
  deriving DecidableEq, Repr

/-- The read descriptor of a GET (R79). -/
structure ReadDescriptor where
  key : Key
  sector : Nat
  offset : Nat
  recLen : Nat
  seq : Nat
  valLen : Nat
  deriving DecidableEq, Repr

/-- An item of a LIST reply (R87). -/
structure ListItem where
  key : Key
  state : EntryState
  valLen : Nat
  seq : Nat
  deriving DecidableEq, Repr

/-- The state of a listing (R86). -/
structure Listing where
  cursor : Option Key
  max : Nat
  items : List ListItem
  bytes : Nat
  deriving DecidableEq, Repr

/-- What a request holds across events beside its fields: a GET its descriptor (R79), a LIST its
listing (R86). -/
inductive Progress
  | idle
  | reading (d : ReadDescriptor)
  | listing (l : Listing)
  deriving DecidableEq, Repr

/-- A slot in use (R160). `request` is absent until the payload is decoded (R161, step 6); `bound` is
the group a member or COMMIT is bound to (R63). -/
structure Slot where
  tag : Byte
  session : SlotSession
  kind : Option ReqKind
  digest : BitVec 16
  request : Option Request
  bound : Option Nat
  state : SlotState
  wait : Option WaitReason
  pendingSent : Bool
  progress : Progress
  deriving DecidableEq, Repr

/-- A Replay Cache entry (R167). -/
structure CacheEntry where
  tag : Byte
  digest : BitVec 16
  frame : Frame
  deriving DecidableEq, Repr

/-- The Request Table (R160): the slots in use, the Replay Cache (oldest first), the session id. -/
structure RequestTable where
  slots : List Slot
  cache : List CacheEntry
  session : Nat
  deriving DecidableEq, Repr

/-! ## Directory -/

/-- The durable part of an entry (R18). -/
structure DurablePart where
  sector : Nat
  offset : Nat
  seq : Nat
  kind : RecordKind
  recLen : Nat
  valLen : Nat
  deriving DecidableEq, Repr

/-- A Directory entry (R18). -/
structure Entry where
  key : Key
  state : EntryState
  newestSeq : Nat
  newestLen : Nat
  queued : Nat
  durable : Option DurablePart
  flashCopies : Nat
  deriving DecidableEq, Repr

/-- A place reserved by a removal, until the erase of the victim whose walk made it starts (R33). -/
structure ReservedPlace where
  key : Key
  victim : Nat
  deriving DecidableEq, Repr

/-- The Directory (R18, R33, R36, R37). -/
structure Directory where
  entries : List Entry
  reserved : List ReservedPlace
  admitted : Nat
  limit : Nat
  deriving DecidableEq, Repr

/-! ## Write Queue and Group Stage -/

/-- The states of a Write Queue entry (R45). -/
inductive QueueState
  | waiting | programming | programmed
  deriving DecidableEq, Repr

/-- A Write Queue entry (R45). `group` holds the group id and the group end of a run's member;
`waiter` is the tag of the slot to answer. -/
structure QueueEntry where
  key : Key
  kind : RecordKind
  seq : Nat
  recLen : Nat
  value : List Byte
  group : Option (Nat × Bool)
  waiter : Option Byte
  state : QueueState
  deriving DecidableEq, Repr

/-- A fence waiter (R52); `failed` is the outcome FAILED_BEFORE. -/
structure FenceWaiter where
  tag : Byte
  mark : Nat
  failed : Bool
  deriving DecidableEq, Repr

/-- The Admission List, the Write Queue and the Staging Buffer's charge (R39, R45, R46, R52, R54,
R56, R59, R60). The Admission List holds the tags of the slots waiting. -/
structure WriteQueue where
  admission : List Byte
  /-- a RESET in DISCARD mode froze the list and stopped the offers (R59) -/
  frozen : Bool
  entries : List QueueEntry
  charged : Nat
  fences : List FenceWaiter
  failureNote : Bool
  fenceBoundary : Nat
  mediaFault : Bool
  /-- the sequence counter; no value until mount completes (R15) -/
  seqCounter : Option Nat
  deriving DecidableEq, Repr

/-- A staged member (R61); its index is its place. -/
structure Member where
  key : Key
  kind : RecordKind
  value : List Byte
  recLen : Nat
  ifSeq : Option Nat
  deriving DecidableEq, Repr

/-- The open group (R61). -/
structure OpenGroup where
  id : Nat
  members : List Member
  bytes : Nat
  deriving DecidableEq, Repr

/-- The Group Stage (R61). -/
structure GroupStage where
  group : Option OpenGroup
  counter : Nat
  deriving DecidableEq, Repr

/-! ## Log Writer -/

/-- The two inputs of the Log Writer (R91). -/
inductive Lane
  | host | relocation
  deriving DecidableEq, Repr

/-- The append point state (R91). OPENING keeps the lane it opens for (none once that lane has been
emptied) and whether the open word has completed (R92). -/
inductive AppendPoint
  | free
  | opening (lane : Option Lane) (wordDone : Bool)
  | host
  | relocation
  deriving DecidableEq, Repr

/-- The open sector and the append offset (R91). -/
structure OpenSector where
  sector : Nat
  offset : Nat
  deriving DecidableEq, Repr

/-- The host lane's offer (R94): the entry at the front of the Write Queue, or the run that starts
there, with the number of its members and its total record bytes. -/
structure HostOffer where
  members : Nat
  total : Nat
  deriving DecidableEq, Repr

/-- A record's content (R6); `group` holds the group id and the group end of a group member. -/
structure Record where
  kind : RecordKind
  key : Key
  value : List Byte
  seq : Nat
  group : Option (Nat × Bool)
  deriving DecidableEq, Repr

/-- The relocation lane's record with its source location (R95). -/
structure RelocRecord where
  record : Record
  sector : Nat
  offset : Nat
  deriving DecidableEq, Repr

/-- The record in progress (R99): its image, the words completed, the words whose program the array
has begun, and its place in the run. -/
structure CurRecord where
  image : List Word
  done : Nat
  begun : Nat
  member : Nat
  deriving DecidableEq, Repr

/-- The Log Writer (R91). -/
structure LogWriter where
  openAt : Option OpenSector
  point : AppendPoint
  hostLane : Option HostOffer
  relocLane : Option RelocRecord
  hostFailures : Nat
  relocFailures : Nat
  placement : List Nat
  cur : Option CurRecord
  /-- the generation counter; no value until mount completes (R16) -/
  genCounter : Option Nat
  deriving DecidableEq, Repr

/-! ## Array and Array Controller -/

/-- What a word is to its sector: the erase word, the open word, or a record's header word A, a word
between, or its trailer (R3, R4, R6, R99). -/
inductive WordRole
  | eraseWord | openWord | firstWord | innerWord | lastWord
  deriving DecidableEq, Repr

/-- A word of the array: as stored; in a sector whose erase was cut short; or left by a program of `data`
that was cut short or that failed. All but the first hold indeterminate bits, named by a free value's seed
(R2, R100, R107, R110). -/
inductive Cell
  | stored (w : RawWord)
  | wrecked (seed : Nat)
  | cut (seed : Nat) (data : Word) (role : WordRole)
  | failed (seed : Nat) (data : Word) (role : WordRole)
  deriving DecidableEq, Repr

/-- The array: words that differ from what an unlisted word reads as, and the sectors whose whole
content is indeterminate. -/
structure Flash where
  cells : List (Nat × Cell)
  wrecks : List (Nat × Nat)
  deriving DecidableEq, Repr

/-- Who asked for a read (R108). -/
inductive Reader
  | get (tag : Byte)
  | reclaim
  | mount
  deriving DecidableEq, Repr

/-- A read of consecutive words of one sector (R108). `discard`: a FORMAT has taken its use (R146). -/
structure ReadReq where
  who : Reader
  sector : Nat
  offset : Nat
  words : Nat
  discard : Bool
  deriving DecidableEq, Repr

/-- A word program (R108). `discard`: the record it belonged to is gone (R106, R146). -/
structure WordReq where
  sector : Nat
  index : Nat
  data : Word
  role : WordRole
  discard : Bool
  deriving DecidableEq, Repr

/-- An erase request: sector, epoch and erase count to be written, and its requester (R110). -/
structure EraseReq where
  sector : Nat
  epoch : BitVec 16
  count : Nat
  forFormat : Bool
  deriving DecidableEq, Repr

/-- The phases of an erase (R110, R111); `checked` is past its blank check with the erase word not
yet begun (R112). -/
inductive ErasePhase
  | pulse | suspended | blankCheck | checked | header
  deriving DecidableEq, Repr

/-- An erase under way (R110). -/
structure EraseRun where
  req : EraseReq
  phase : ErasePhase
  deriving DecidableEq, Repr

/-- A read or word program under way (R108). -/
inductive ArrayOp
  | read (r : ReadReq)
  | word (w : WordReq)
  deriving DecidableEq, Repr

/-- The Array Controller (R108): the read or word program under way, the four classes, the erase
under way. -/
structure ArrayCtl where
  op : Option ArrayOp
  gets : List ReadReq
  walks : List ReadReq
  word : Option WordReq
  eraseReq : Option EraseReq
  erase : Option EraseRun
  deriving DecidableEq, Repr

/-! ## Sector Manager -/

/-- An entry of the Sector Table (R113). -/
structure SectorEntry where
  state : SectorState
  eraseCount : Nat
  openGen : Option Nat
  live : Nat
  dead : Nat
  appendOffset : Option Nat
  readers : Nat
  corrected : Nat
  fault : Bool
  dirty : Bool
  deriving DecidableEq, Repr

/-- The Reclaim Engine's states (R118). -/
inductive EngineState
  | idle | walking | abandoned
  deriving DecidableEq, Repr

/-- What a walk waits for: the header words at the offset, the rest of the record (its header words
kept), an outstanding copy (with the offset to go on at), or a tail sweep's read (R120 to R124). -/
inductive WalkPhase
  | header
  | body (hdr : List RawWord)
  | copying (next : Nat)
  | sweepRead
  deriving DecidableEq, Repr

/-- A victim walk (R118, R120, R124): `sweep` once it has met a damaged tail; `forTidy` when the
victim counts for the TIDY (R119). -/
structure Walk where
  victim : Nat
  offset : Nat
  phase : WalkPhase
  sweep : Bool
  forTidy : Bool
  deriving DecidableEq, Repr

/-- An active TIDY (R134). -/
structure Tidy where
  tag : Byte
  list : List Nat
  drained : Nat
  deriving DecidableEq, Repr

/-- The Erase Batch (R127); `running` is its phase. -/
structure EraseBatch where
  running : Bool
  members : List Nat
  window : Bool
  deriving DecidableEq, Repr

/-- A FORMAT in progress (R146, R147): its slot and the sectors still to erase. -/
structure FormatRun where
  tag : Byte
  list : List Nat
  deriving DecidableEq, Repr

/-- The Sector Manager (R113, R118, R127, R134, R146) and the current format epoch (R17). -/
structure SectorManager where
  /-- the Sector Table; no entry until mount completes (R116) -/
  table : List SectorEntry
  engine : EngineState
  walk : Option Walk
  lowSpace : Bool
  /-- the model's own: the numbers of ERASED, STALE and ERASING sectors for which the latch stands, so that it is
  evaluated after an event that changes one of them (R118, log 33) -/
  latchFor : Nat × Nat × Nat
  hostStall : Bool
  relocStall : Bool
  tidy : Option Tidy
  batch : EraseBatch
  staleOrder : List Nat
  format : Option FormatRun
  epoch : BitVec 16
  /-- the model's mark: the wear check runs at the end of this event (R131, log 7) -/
  wearDue : Bool
  deriving DecidableEq, Repr

/-! ## Mount Engine -/

/-- A record yielded by a mount walk, with its place (R10, R35). -/
structure MountRec where
  sector : Nat
  offset : Nat
  kind : RecordKind
  key : Key
  seq : Nat
  recLen : Nat
  valLen : Nat
  group : Option (Nat × Bool)
  deriving DecidableEq, Repr

/-- How a walk ended (R10). -/
inductive WalkEnd
  | allOnes | areaEnd | damaged
  deriving DecidableEq, Repr

/-- The end of a finished mount walk (R10, R11): where, how, whether the all-ones word it ended at is
blank, and whether an unfinished group member was the last record it yielded. -/
structure MountEnd where
  sector : Nat
  offset : Nat
  how : WalkEnd
  blank : Bool
  torn : Bool
  deriving DecidableEq, Repr

/-- What mount reads next (R139 to R141). -/
inductive MountPhase
  | headers
  | blankCheck
  | walkFirst (sector offset : Nat)
  | walkRest (sector offset : Nat) (first : RawWord)
  | remainder (sector offset : Nat)
  deriving DecidableEq, Repr

/-- The Mount Engine's own memory (R139 to R142). -/
structure Mount where
  phase : MountPhase
  /-- the header words of the sectors read so far, in sector order -/
  heads : List (RawWord × RawWord)
  /-- corrected words met by the header pass, per sector read -/
  table : List SectorEntry
  /-- sectors whose data area is still to be blank-checked -/
  toCheck : List Nat
  /-- sectors still to be walked, in walk order -/
  toWalk : List Nat
  entries : List Entry
  overflow : Bool
  maxSeq : Nat
  maxGen : Nat
  epoch : BitVec 16
  /-- group members of the walk in progress whose run has not ended (R12) -/
  run : List MountRec
  ends : List MountEnd
  deriving DecidableEq, Repr

/-! ## Supply Monitor, device state block, and the whole machine -/

/-- The supply condition (R152). -/
inductive SupplyCondition
  | normal | hold
  deriving DecidableEq, Repr

/-- The Supply Monitor and the pins that hold the controller (R136, R152, R153, R157). -/
structure Supply where
  condition : SupplyCondition
  /-- the qualification timer runs -/
  qualifying : Bool
  /-- the hold timer is RUNNING -/
  holdTimer : Bool
  /-- power-on reset is asserted -/
  powerOnReset : Bool
  /-- the power-on release interval runs -/
  releasing : Bool
  /-- a low pulse on nRESET has been recognised and the pin is still low -/
  nresetLow : Bool
  deriving DecidableEq, Repr

/-- The device state block (R137, R151). -/
structure Device where
  state : DeviceState
  restartLatch : Bool
  /-- the model's mark: this event ends in the restart of R151 (log 7) -/
  restartDue : Bool
  deriving DecidableEq, Repr

/-- The state of the part, block by block, and the queue of commands that wait. -/
structure State where
  link : Link
  req : RequestTable
  dir : Directory
  wq : WriteQueue
  grp : GroupStage
  lw : LogWriter
  arr : ArrayCtl
  flash : Flash
  sm : SectorManager
  mount : Option Mount
  sup : Supply
  dev : Device
  /-- the model's counter of free values (log 4) -/
  seeds : Nat
  /-- the commands that wait, first in first out -/
  pending : List Instr
  deriving DecidableEq, Repr

/-! ## Reset -/

/-- A Sector Table entry before mount has classified its sector: the values every sector starts with
(R139). That it is STALE with erase count 0 until the header pass has classified it is the model's choice (log
31). -/
def SectorEntry.initial : SectorEntry :=
  { state := .stale, eraseCount := 0, openGen := none, live := 0, dead := 0, appendOffset := none,
    readers := 0, corrected := 0, fault := false, dirty := false }

/-- The Mount Engine at the start of mount: the header pass begins at sector 0 (R139). -/
def Mount.start : Mount :=
  { phase := .headers, heads := [], table := List.replicate Config.sectors SectorEntry.initial,
    toCheck := [], toWalk := [], entries := [], overflow := false, maxSeq := 0, maxGen := 0,
    epoch := 0, run := [], ends := [] }

/-- Mount's read of the header words of a sector (R139). -/
def Mount.headerRead (sector : Nat) : ReadReq :=
  { who := .mount, sector := sector, offset := 0, words := 2, discard := false }

/-- The machine right after a restart with nothing on the array: every block at the restart value its
chapter gives (R22, R60, R61, R91, R108, R116, R137, R153, R160, R174, R175, R181). The STATE notice
that the restart marks has joined the empty Transmit Queue in the same event (R137, R181), and mount's
first read has started (R136, R139). -/
def State.reset : State :=
  { link := { rx := .hunt, got := [], gap := false, rate := Config.defaultRate,
              txq := [{ frame := { kind := kindNote, tag := 0, flags := 0, payload := [1, 0] },
                        rateChange := none, restarts := false }],
              notices := [] }
    req := { slots := [], cache := [], session := 0 }
    dir := { entries := [], reserved := [], admitted := 0, limit := 0 }
    wq := { admission := [], frozen := false, entries := [], charged := 0, fences := [],
            failureNote := false, fenceBoundary := 0, mediaFault := false, seqCounter := none }
    grp := { group := none, counter := 1 }
    lw := { openAt := none, point := .free, hostLane := none, relocLane := none, hostFailures := 0,
            relocFailures := 0, placement := [], cur := none, genCounter := none }
    arr := { op := some (.read (Mount.headerRead 0)), gets := [], walks := [], word := none,
             eraseReq := none, erase := none }
    flash := { cells := [], wrecks := [] }
    sm := { table := [], engine := .idle, walk := none, lowSpace := false, latchFor := (0, 0, 0), hostStall := false,
            relocStall := false, tidy := none,
            batch := { running := false, members := [], window := false }, staleOrder := [],
            format := none, epoch := 0, wearDue := false }
    mount := some Mount.start
    sup := { condition := .normal, qualifying := false, holdTimer := false, powerOnReset := false,
             releasing := false, nresetLow := false }
    dev := { state := .mounting, restartLatch := false, restartDue := false }
    seeds := 0
    pending := [] }

end Sys2Proof.Machine
end

