-- ==== Sys2Proof/Machine/Bytes.lean ====
section
/-! DEFINITION. Byte order, the CRCs, the array layouts and the test of a record's validity
(R6 to R9, R184, R189, R190). -/

namespace Sys2Proof.Machine

/-! ## Little-endian integers -/

/-- `n` bytes of `v`, low byte first (chapter 12: integers are little-endian). -/
def le : Nat → Nat → List Byte
  | 0, _ => []
  | n + 1, v => BitVec.ofNat 8 v :: le n (v / 256)

/-- The number that little-endian bytes hold. -/
def fromLe : List Byte → Nat
  | [] => 0
  | b :: rest => b.toNat + 256 * fromLe rest

/-- The bytes of an array word, byte 0 first (R189). -/
def wordBytes (w : Word) : List Byte := le 8 w.toNat

/-- The array word whose bytes, from byte 0, are these. -/
def wordOfBytes (bs : List Byte) : Word := BitVec.ofNat 64 (fromLe bs)

/-- Bytes cut into words of 8. -/
def wordsOfBytes : List Byte → List Word
  | a :: b :: c :: d :: e :: f :: g :: h :: rest => wordOfBytes [a, b, c, d, e, f, g, h] :: wordsOfBytes rest
  | _ => []

/-- The bytes of consecutive words. -/
def bytesOfWords (ws : List Word) : List Byte := ws.flatMap wordBytes

/-! ## CRCs -/

/-- `n` shifts of the frame CRC register, polynomial x^16 + x^12 + x^5 + 1 (R184). -/
def crc16Shift : Nat → BitVec 16 → BitVec 16
  | 0, c => c
  | n + 1, c => crc16Shift n (if c.msb then (c <<< 1) ^^^ 0x1021#16 else c <<< 1)

/-- The frame CRC-16: from 0xFFFF, most significant bit first, no final inversion (R184). -/
def crc16 (bs : List Byte) : BitVec 16 :=
  bs.foldl (fun c b => crc16Shift 8 (c ^^^ ((b.setWidth 16 : BitVec 16) <<< (8 : Nat)))) 0xFFFF#16

/-- `n` shifts of the record CRC register, polynomial 0x04C11DB7 reflected (R190). -/
def crc32Shift : Nat → BitVec 32 → BitVec 32
  | 0, c => c
  | n + 1, c => crc32Shift n (if c.getLsbD 0 then (c >>> 1) ^^^ 0xEDB88320#32 else c >>> 1)

/-- The record CRC-32: from 0xFFFFFFFF, with final complement (R190). -/
def crc32 (bs : List Byte) : BitVec 32 :=
  ~~~ (bs.foldl (fun c b => crc32Shift 8 (c ^^^ (b.setWidth 32 : BitVec 32))) 0xFFFFFFFF#32)

/-- `n` shifts of the erase word check register, polynomial x^8 + x^2 + x + 1 (R190). -/
def crc8Shift : Nat → BitVec 8 → BitVec 8
  | 0, c => c
  | n + 1, c => crc8Shift n (if c.msb then (c <<< 1) ^^^ 0x07#8 else c <<< 1)

/-- The erase word check: from 0x00, most significant bit first (R190). -/
def crc8 (bs : List Byte) : BitVec 8 := bs.foldl (fun c b => crc8Shift 8 (c ^^^ b)) 0x00#8

/-! ## Words as the ECC engine gives them -/

end Sys2Proof.Machine

namespace Sys2Proof

/-- A word read raw is blank when data and check bits are all ones (R1). -/
def RawWord.isBlank (w : RawWord) : Bool := w == blankWord

/-- The value of a word read through the ECC engine; none for an uncorrectable word (R1, R109). -/
def RawWord.value? (w : RawWord) : Option Word :=
  match w.ecc with
  | .clean | .corrected => some w.data
  | .uncorrectable => none

/-- The word reads as all ones, after any correction (R1). -/
def RawWord.allOnes (w : RawWord) : Bool := w.value? == some (BitVec.allOnes 64)

end Sys2Proof

namespace Sys2Proof.Machine

/-- The values of words, none when any is uncorrectable. -/
def values? : List RawWord → Option (List Word)
  | [] => some []
  | w :: rest => match w.value?, values? rest with
    | some v, some vs => some (v :: vs)
    | _, _ => none

/-- Corrected words among those read (R109). -/
def correctedWords (ws : List RawWord) : Nat := ws.countP (fun w => w.ecc == .corrected)

/-! ## Sector header words -/

/-- Magic of an erase word (R189). -/
def eraseMagic : Nat := 0x5C3A

/-- The erase word with this epoch and erase count (R3, R189, R190). -/
def eraseWord (epoch : BitVec 16) (count : Nat) : Word :=
  let body := le 2 eraseMagic ++ le 2 epoch.toNat ++ le 3 count
  wordOfBytes (body ++ [crc8 body])

/-- The epoch and erase count of a valid erase word (R3, R190). -/
def decodeEraseWord (w : Word) : Option (BitVec 16 × Nat) :=
  let bs := wordBytes w
  if fromLe (bs.take 2) = eraseMagic ∧ bs.drop 7 = [crc8 (bs.take 7)] then
    some (BitVec.ofNat 16 (fromLe ((bs.drop 2).take 2)), fromLe ((bs.drop 4).take 3))
  else none

/-- The open word with this generation (R4, R189). -/
def openWord (gen : Nat) : Word :=
  let body := le 4 gen
  wordOfBytes (body ++ body.map (fun b => ~~~ b))

/-- The generation of a valid open word (R4, R190). -/
def decodeOpenWord (w : Word) : Option Nat :=
  let bs := wordBytes w
  if bs.drop 4 = (bs.take 4).map (fun b => ~~~ b) ∧ fromLe (bs.take 4) ≠ 0 then
    some (fromLe (bs.take 4))
  else none

end Sys2Proof.Machine

namespace Sys2Proof

/-- The erase word read through the ECC engine, when it is valid. -/
def RawWord.erase? (w : RawWord) : Option (BitVec 16 × Nat) := w.value?.bind Machine.decodeEraseWord

/-- The open word read through the ECC engine, when it is valid. -/
def RawWord.open? (w : RawWord) : Option Nat := w.value?.bind Machine.decodeOpenWord

/-- A reading that the spec rules out becomes an uncorrectable one (log 4). -/
def RawWord.unless (out : Bool) (w : RawWord) : RawWord := if out then { w with ecc := .uncorrectable } else w

/-- A word that read as a valid erase word reads as uncorrectable instead. -/
def RawWord.withoutEraseWord (w : RawWord) : RawWord := w.unless w.erase?.isSome

/-- The value read has every one bit of the intended word, if a value is read (R2). -/
def RawWord.keepsOnes (data : Word) (w : RawWord) : Bool := w.value?.all (fun v => v &&& data == data)

end Sys2Proof

namespace Sys2Proof.Machine

/-! ## Cells -/

/-- What a word whose program of `data` was cut short never reads as: a value with a zero where `data` has
a one (R2), a valid erase word (R110), or the trailer it was to be, since its record is torn (R50, R107). -/
def WordRole.notCut (role : WordRole) (data : Word) (w : RawWord) : Bool :=
  !w.keepsOnes data || (match role with
    | .eraseWord => w.erase?.isSome
    | .lastWord => w.value? == some data
    | .openWord | .firstWord | .innerWord => false)

/-- What a word whose program of `data` failed never reads as: blank or whole, since some of its zero bits
are programmed and others not (R100); a valid erase word (R110); a valid open word (R101); or, so that a walk
ends at a damaged tail, all ones at header word A and the value intended at the trailer (R101). -/
def WordRole.notFailed (role : WordRole) (data : Word) (w : RawWord) : Bool :=
  w.isBlank || w == { data := data, ecc := .clean } || (match role with
    | .eraseWord => w.erase?.isSome
    | .openWord => w.open?.isSome
    | .firstWord => w.allOnes
    | .lastWord => w.value? == some data
    | .innerWord => false)

/-- The bits of a cell at word `index` of its sector. Indeterminate bits are a free value, limited by
what the spec says of them (log 4): the erase word of a sector whose erase was cut short is not valid (R2),
and a word cut short or failed as `notCut` and `notFailed` say. -/
def Cell.view (c : Cell) (index : Nat) : RawWord :=
  let free := fun seed => Config.indeterminate seed index
  match c with
  | .stored w => w
  | .wrecked seed => if index = 0 then (free seed).withoutEraseWord else free seed
  | .cut seed data role => (free seed).unless (role.notCut data (free seed))
  | .failed seed data role => (free seed).unless (role.notFailed data (free seed))

/-! ## Records -/

/-- Key and value bytes rounded up to a multiple of 8 (R8). -/
def padded (n : Nat) : Nat := (n + 7) / 8 * 8

/-- The record bytes of a record (R8). -/
def recordBytes (keyLen valLen : Nat) : Nat := 16 + padded (keyLen + valLen) + 8

/-- The code of a record kind (R189). -/
def RecordKind.code : RecordKind → Nat
  | .data => 1
  | .tombstone => 2
  | .loss => 3

/-- The record kind of a code (R190). -/
def RecordKind.ofCode : Nat → Option RecordKind
  | 1 => some .data
  | 2 => some .tombstone
  | 3 => some .loss
  | _ => none

/-- The record bytes of a record's content (R8). -/
def Record.bytes (r : Record) : Nat := recordBytes r.key.length r.value.length

/-- Group flags of header word A (R189). -/
def groupFlags : Option (Nat × Bool) → Nat
  | none => 0
  | some (_, false) => 1
  | some (_, true) => 3

/-- Group id of header word B (R6): 0 when group member is clear. -/
def groupId : Option (Nat × Bool) → Nat
  | none => 0
  | some (g, _) => g

/-- Header words A and B of a record (R189). -/
def Record.header (r : Record) : List Byte :=
  le 1 r.kind.code ++ le 1 r.key.length ++ le 2 r.value.length ++ le 1 (groupFlags r.group) ++ [0, 0, 0]
    ++ le 6 r.seq ++ le 2 (groupId r.group)

/-- The whole image of a record, trailer last (R6, R189). -/
def Record.image (r : Record) : List Byte :=
  let body := r.key ++ r.value
  r.header ++ body ++ List.replicate (padded body.length - body.length) 0xFF#8
    ++ le 4 (crc32 (r.header ++ body)).toNat ++ le 4 r.bytes

/-- The image as array words, in program order (R99). -/
def Record.words (r : Record) : List Word := wordsOfBytes r.image

/-- The decoded header words of a record. -/
structure RecordHeader where
  kind : RecordKind
  keyLen : Nat
  valLen : Nat
  member : Bool
  groupEnd : Bool
  seq : Nat
  gid : Nat
  deriving DecidableEq, Repr

/-- Header word A decodes (first test of R9, R190); the fields of word B are still 0. -/
def decodeWordA (a : Word) : Option RecordHeader :=
  let x := wordBytes a
  let keyLen := fromLe ((x.drop 1).take 1)
  let valLen := fromLe ((x.drop 2).take 2)
  let flags := fromLe ((x.drop 4).take 1)
  match RecordKind.ofCode (fromLe (x.take 1)) with
  | none => none
  | some kind =>
    if 1 ≤ keyLen ∧ keyLen ≤ Config.maxKey ∧ valLen ≤ Config.maxValue ∧ (kind = .data ∨ valLen = 0)
        ∧ flags < 4 ∧ x.drop 5 = [0, 0, 0] then
      some { kind := kind, keyLen := keyLen, valLen := valLen, member := flags % 2 = 1,
             groupEnd := flags / 2 = 1, seq := 0, gid := 0 }
    else none

/-- Header words A and B decode (first test of R9, R190). -/
def decodeHeader (a b : Word) : Option RecordHeader :=
  let y := wordBytes b
  let seq := fromLe (y.take 6)
  match decodeWordA a with
  | some h => if seq ≠ 0 then some { h with seq := seq, gid := fromLe (y.drop 6) } else none
  | none => none

/-- The group fields agree with one another (R9, second test). -/
def RecordHeader.groupAgrees (h : RecordHeader) : Bool :=
  if h.member then h.gid != 0 && h.kind != .loss else !h.groupEnd && h.gid == 0

/-- Record bytes computed from the decoded lengths (R8). -/
def RecordHeader.bytes (h : RecordHeader) : Nat := recordBytes h.keyLen h.valLen

/-- The header words read, when both have a value and decode. -/
def headerOf : List RawWord → Option RecordHeader
  | a :: b :: _ => match a.value?, b.value? with
    | some x, some y => decodeHeader x y
    | _, _ => none
  | _ => none

/-- The header words decode and the record lies within the data area (R9, tests 1 and 3; R120). -/
def headerWithin (ws : List RawWord) (offset : Nat) : Option RecordHeader :=
  match headerOf ws with
  | some h => if offset + h.bytes ≤ Config.sectorBytes then some h else none
  | none => none

/-- The trailer word agrees with the decoded lengths and with the CRC-32 of header, key and value as
read (R9, fifth test). `bs` are the bytes of the whole record. -/
def trailerAgrees (h : RecordHeader) (bs : List Byte) : Bool :=
  let trailer := bs.drop (h.bytes - 8)
  fromLe (trailer.drop 4) == h.bytes
    && fromLe (trailer.take 4) == (crc32 (bs.take (16 + h.keyLen + h.valLen))).toNat

/-- The record bytes that a header word A gives, when it decodes and the record lies within the data area
(R9, tests 1 and 3). -/
def extentOf (a : RawWord) (offset : Nat) : Option Nat :=
  match a.value?.bind decodeWordA with
  | some h => if offset + h.bytes ≤ Config.sectorBytes then some h.bytes else none
  | none => none

/-- The record that the bytes of a decoded record hold. -/
def RecordHeader.record (h : RecordHeader) (bs : List Byte) : Record :=
  { kind := h.kind, key := (bs.drop 16).take h.keyLen, value := (bs.drop (16 + h.keyLen)).take h.valLen,
    seq := h.seq, group := if h.member then some (h.gid, h.groupEnd) else none }

/-- The test of R9 on the words read at `offset`: the record when it is valid. The words read are
exactly those of the record, pad included. -/
def validRecord (ws : List RawWord) (offset : Nat) : Option Record :=
  match headerWithin ws offset, values? ws with
  | some h, some vs =>
    let bs := bytesOfWords vs
    if h.groupAgrees ∧ 8 * ws.length = h.bytes ∧ trailerAgrees h bs then some (h.record bs) else none
  | _, _ => none

/-- The checks of R80 on the words a GET read, against its descriptor: the value when all pass. The
group fields are not examined. -/
def getValue (ws : List RawWord) (d : ReadDescriptor) : Option (List Byte) :=
  match headerOf ws, values? ws with
  | some h, some vs =>
    let bs := bytesOfWords vs
    let trailer := bs.drop (d.recLen - 8)
    let r := h.record bs
    if h.kind = .data ∧ h.keyLen = d.key.length ∧ h.valLen = d.valLen ∧ h.seq = d.seq ∧ r.key = d.key
        ∧ fromLe (trailer.drop 4) = d.recLen
        ∧ fromLe (trailer.take 4) = (crc32 (bs.take (16 + h.keyLen + h.valLen))).toNat then
      some r.value
    else none
  | _, _ => none

/-! ## Frames -/

/-- LENGTH, KIND and TAG of a frame (R183). -/
def Frame.start (f : Frame) : List Byte := le 2 f.payload.length ++ f.kind ++ [f.tag]

/-- The request digest: the frame CRC with the FLAGS byte left out (R162, R184). -/
def Frame.digest (f : Frame) : BitVec 16 := crc16 (f.start ++ f.payload)

/-- The frame CRC-16, over LENGTH through the last payload byte (R183, R184). -/
def Frame.crc (f : Frame) : BitVec 16 := crc16 (f.start ++ [f.flags] ++ f.payload)

/-- The bytes of a frame on the line (R183). -/
def Frame.wire (f : Frame) : List Byte :=
  [0x5A] ++ f.start ++ [f.flags] ++ f.payload ++ le 2 f.crc.toNat

/-- The RETRY flag, bit 0 of FLAGS; the other bits are ignored (R183, R184). -/
def Frame.retry (f : Frame) : Bool := f.flags.getLsbD 0

end Sys2Proof.Machine
end

