-- ==== Sys2Proof/Machine/Ops.lean ====
section
/-! DEFINITION. Named operations over the array, the Sector Table and the Directory. -/

namespace Sys2Proof.Machine

/-! ## Rising association lists -/

/-- The value at a key. -/
def assocGet {α : Type} (k : Nat) : List (Nat × α) → Option α
  | [] => none
  | (j, v) :: rest => if j = k then some v else assocGet k rest

/-- Put a value at a key, keeping the keys rising. -/
def assocPut {α : Type} (k : Nat) (v : α) : List (Nat × α) → List (Nat × α)
  | [] => [(k, v)]
  | (j, w) :: rest =>
    if k < j then (k, v) :: (j, w) :: rest
    else if k = j then (k, v) :: rest
    else (j, w) :: assocPut k v rest

/-- Drop a key. -/
def assocDel {α : Type} (k : Nat) (l : List (Nat × α)) : List (Nat × α) := l.filter (fun p => p.1 != k)

/-- The keys rise strictly. -/
def assocRising {α : Type} : List (Nat × α) → Bool
  | [] => true
  | [_] => true
  | (j, _) :: (k, w) :: rest => decide (j < k) && assocRising ((k, w) :: rest)

/-! ## The array (R1, R2) -/

/-- The address of word `index` of a sector. -/
def wordAddr (sector index : Nat) : Nat := sector * Config.sectorWords + index

/-- The word exists (R1). -/
def wordExists (sector index : Nat) : Bool := decide (sector < Config.sectors ∧ index < Config.sectorWords)

/-- A blank cell. -/
def blankCell : Cell := .stored blankWord

/-- What an unlisted word of a sector reads as: indeterminate bits in a sector whose erase was cut
short, and blank elsewhere (R1, R2; first contents: log 5). -/
def Flash.unlisted (f : Flash) (sector : Nat) : Cell :=
  match assocGet sector f.wrecks with
  | some seed => .wrecked seed
  | none => blankCell

/-- The cell at a word. -/
def Flash.cell (f : Flash) (sector index : Nat) : Cell :=
  match assocGet (wordAddr sector index) f.cells with
  | some c => c
  | none => f.unlisted sector

/-- The bits at a word (R1). -/
def Flash.word (f : Flash) (sector index : Nat) : RawWord := (f.cell sector index).view index

/-- Consecutive words of a sector, from word `index`. -/
def Flash.words (f : Flash) (sector index n : Nat) : List RawWord :=
  (List.range n).map (fun i => f.word sector (index + i))

/-- Put a cell at a word that exists, keeping the canonical form. -/
def Flash.put (f : Flash) (sector index : Nat) (c : Cell) : Flash :=
  if wordExists sector index then
    if c = f.unlisted sector then { f with cells := assocDel (wordAddr sector index) f.cells }
    else { f with cells := assocPut (wordAddr sector index) c f.cells }
  else f

/-- The listed words outside a sector. -/
def Flash.outside (f : Flash) (sector : Nat) : List (Nat × Cell) :=
  f.cells.filter (fun p => p.1 / Config.sectorWords != sector)

/-- Every word of the sector returns to all ones (R2). -/
def Flash.clear (f : Flash) (sector : Nat) : Flash :=
  { cells := f.outside sector, wrecks := assocDel sector f.wrecks }

/-- Every word of the sector becomes indeterminate (R2, R110). -/
def Flash.wreck (f : Flash) (sector seed : Nat) : Flash :=
  if sector < Config.sectors then
    { cells := f.outside sector, wrecks := assocPut sector seed f.wrecks }
  else f

/-- Put stored words at word indices of a sector. -/
def Flash.putAll (f : Flash) (sector : Nat) : List (Nat × RawWord) → Flash
  | [] => f
  | (i, w) :: rest => (f.put sector i (.stored w)).putAll sector rest

/-- The canonical form: keys strictly rising and inside the array, no cell equal to what its word
would read as if it were not listed. -/
def Flash.wf (f : Flash) : Bool :=
  assocRising f.cells && assocRising f.wrecks
    && f.cells.all (fun p => decide (p.1 < Config.sectors * Config.sectorWords)
        && decide (p.2 ≠ f.unlisted (p.1 / Config.sectorWords)))
    && f.wrecks.all (fun p => decide (p.1 < Config.sectors))

/-- A fresh seed for indeterminate bits (log 4). -/
def State.nextSeed (s : State) : State := { s with seeds := s.seeds + 1 }

/-- A word is left by a program of `data` that was cut short (R107). -/
def State.cutWord (sector index : Nat) (data : Word) (role : WordRole) (s : State) : State :=
  { s with flash := s.flash.put sector index (.cut s.seeds data role) }.nextSeed

/-- A word is left by a failed program of `data` (R100). -/
def State.failWord (sector index : Nat) (data : Word) (role : WordRole) (s : State) : State :=
  { s with flash := s.flash.put sector index (.failed s.seeds data role) }.nextSeed

/-- A sector is left indeterminate (R2, R110). -/
def State.wreckSector (sector : Nat) (s : State) : State :=
  { s with flash := s.flash.wreck sector s.seeds }.nextSeed

/-! ## The Sector Table (R113, R114) -/

/-- The entry of a sector. -/
def State.sector (s : State) (n : Nat) : SectorEntry := s.sm.table.getD n SectorEntry.initial

/-- Change the entry of a sector. -/
def State.modSector (n : Nat) (f : SectorEntry → SectorEntry) (s : State) : State :=
  { s with sm := { s.sm with table := s.sm.table.modify n f } }

/-- The sector numbers of a table whose entry meets a test, rising. -/
def sectorsWhere (p : SectorEntry → Bool) (table : List SectorEntry) : List Nat :=
  (List.range table.length).filter (fun n => p (table.getD n SectorEntry.initial))

/-- The number of sectors in a state (Conventions). -/
def State.count (s : State) (st : SectorState) : Nat := s.sm.table.countP (fun e => e.state == st)

/-- Usable sectors: 128 less the RETIRED ones (R37). -/
def State.usable (s : State) : Nat := Config.sectors - s.count .retired

/-- A record completes in a sector: its bytes count as dead (R114). -/
def State.addDead (n b : Nat) : State → State := State.modSector n (fun e => { e with dead := e.dead + b })

/-- A record becomes a durable part: its bytes move from dead to live (R114). -/
def State.deadToLive (n b : Nat) : State → State :=
  State.modSector n (fun e => { e with dead := e.dead - b, live := e.live + b })

/-- A durable part is replaced or removed: its bytes move from live to dead (R114). -/
def State.liveToDead (n b : Nat) : State → State :=
  State.modSector n (fun e => { e with live := e.live - b, dead := e.dead + b })

/-- Corrected words read from a sector (R109, R115). -/
def State.addCorrected (n k : Nat) : State → State :=
  State.modSector n (fun e => { e with corrected := min Config.maxCorrected (e.corrected + k) })

/-- The sector is closed: FULL, its append offset absent (R93, R101, R106). -/
def State.closeSector (n : Nat) (fault : Bool) (partialBytes : Nat) : State → State :=
  State.modSector n (fun e => { e with state := .full, appendOffset := none, fault := e.fault || fault,
                                       dead := e.dead + partialBytes })

/-! ## Keys and the Directory (R18 to R21) -/

/-- Key order: byte by byte as unsigned numbers, a proper leading part before its extensions
(Conventions, Keys). -/
def keyLt : Key → Key → Bool
  | [], [] => false
  | [], _ :: _ => true
  | _ :: _, [] => false
  | a :: as, b :: bs => if a = b then keyLt as bs else decide (a.toNat < b.toNat)

/-- The entry of a key (R20). -/
def findEntry (k : Key) (es : List Entry) : Option Entry := es.find? (fun e => e.key == k)

/-- Put an entry in key order, in place of the entry of the same key. -/
def putEntry (e : Entry) : List Entry → List Entry
  | [] => [e]
  | x :: rest =>
    if x.key = e.key then e :: rest
    else if keyLt e.key x.key then e :: x :: rest
    else x :: putEntry e rest

/-- Drop the entry of a key. -/
def dropEntry (k : Key) (es : List Entry) : List Entry := es.filter (fun e => e.key != k)

/-- The durable part names this sector and offset. -/
def Entry.namesPlace (sector offset : Nat) (e : Entry) : Bool :=
  match e.durable with
  | some d => d.sector == sector && d.offset == offset
  | none => false

/-- The entry whose durable part names a sector and offset (R29). -/
def entryAt (sector offset : Nat) (es : List Entry) : Option Entry := es.find? (Entry.namesPlace sector offset)

/-- The entry of a key in the state. -/
def State.entry (s : State) (k : Key) : Option Entry := findEntry k s.dir.entries

/-- Replace the entries. -/
def State.setEntries (es : List Entry) (s : State) : State := { s with dir := { s.dir with entries := es } }

/-- Put an entry into the Directory. -/
def State.putEntry (e : Entry) (s : State) : State := s.setEntries (Machine.putEntry e s.dir.entries)

/-- The first entry whose key orders strictly after a cursor, or the first of all (R20). -/
def entryAfter (cursor : Option Key) (es : List Entry) : Option Entry :=
  match cursor with
  | none => es.head?
  | some k => es.find? (fun e => keyLt k e.key)

/-- A place is reserved for the key (R33). -/
def State.isReserved (s : State) (k : Key) : Bool := s.dir.reserved.any (fun r => r.key == k)

/-- Places in use: the entries and the reserved places (R21). -/
def State.places (s : State) : Nat := s.dir.entries.length + s.dir.reserved.length

/-- The key needs a new place: neither an entry nor a reserved place (R42, R69). -/
def State.needsPlace (s : State) (k : Key) : Bool := (s.entry k).isNone && !s.isReserved k

/-- The check sequence of a key (R19). -/
def State.checkSeq (s : State) (k : Key) : Nat :=
  match s.entry k with
  | some e => match e.state with
    | .present | .lost => e.newestSeq
    | .tombstone => 0
  | none => 0

/-- The key reads as absent: no entry, or an entry in state TOMBSTONE (R19, R43, R68). -/
def State.isAbsent (s : State) (k : Key) : Bool :=
  match s.entry k with
  | some e => e.state == .tombstone
  | none => true

/-- The entry state a record kind gives (R19). -/
def RecordKind.entryState : RecordKind → EntryState
  | .data => .present
  | .tombstone => .tombstone
  | .loss => .lost

/-- The newest view takes the durable values; without a durable part the entry is one without a
version (R19). -/
def Entry.viewFromDurable (e : Entry) : Entry :=
  match e.durable with
  | some d => { e with state := d.kind.entryState, newestSeq := d.seq, newestLen := d.valLen }
  | none => { e with state := .tombstone, newestSeq := 0, newestLen := 0 }

/-- The newest view of an admitted write (R19, R23). -/
def Entry.viewFromWrite (e : Entry) (kind : RecordKind) (seq valLen : Nat) : Entry :=
  { e with state := kind.entryState, newestSeq := seq, newestLen := if kind = .data then valLen else 0 }

end Sys2Proof.Machine
end

