-- ==== Sys2Proof/Machine/Flags.lean ====
section
/-! DEFINITION. Status codes, the Notice Set, the device state, admitted bytes and the admission limit. -/

namespace Sys2Proof.Machine

/-! ## Codes (R182, R187) -/

/-- The value of a status (R187). -/
def Status.code : Status → Nat
  | .ok => 0 | .notFound => 1 | .conflict => 2 | .noSpace => 3 | .noEntry => 4 | .tooLarge => 5
  | .badRequest => 6 | .tableFull => 7 | .tagInUse => 8 | .notReady => 9 | .readOnly => 10
  | .unformatted => 11 | .corrupt => 12 | .groupState => 13 | .groupFull => 14 | .supplyLow => 15
  | .mediaFault => 16 | .alreadyActive => 17 | .notIdle => 18 | .failedBefore => 19 | .stillPending => 20

/-- The code of a device state (R187). -/
def DeviceState.code : DeviceState → Nat
  | .mounting => 0 | .unformatted => 1 | .formatting => 2 | .online => 3 | .readOnly => 4 | .draining => 5

/-- The code of an entry state (R187). -/
def EntryState.code : EntryState → Nat
  | .present => 0 | .tombstone => 1 | .lost => 2

/-- The code of a sector state (R187). -/
def SectorState.code : SectorState → Nat
  | .erased => 0 | .opened => 1 | .full => 2 | .reclaiming => 3 | .stale => 4 | .erasing => 5 | .retired => 6

/-- The code of a supply condition (R187). -/
def SupplyCondition.code : SupplyCondition → Nat
  | .normal => 0 | .hold => 1

/-- The code of a reclaim state (R187). -/
def EngineState.code : EngineState → Nat
  | .idle => 0 | .walking => 1 | .abandoned => 2

/-- The number of a notice kind (R182). -/
def NoticeKind.number : NoticeKind → Nat
  | .state => 1 | .supply => 2 | .sectorRetired => 3 | .spaceLow => 4 | .frameDropped => 5
  | .linkReset => 6 | .wear => 7

/-- A flag as a byte: 1 set, 0 clear. R187 states these values for GET's durable flag and for bit 0 of a presence
byte alone; for the LIST more flag and the SPACE host stall, and for the bits of a presence byte that R187 does not
name, they are the model's reading (log 32). -/
def flagByte (b : Bool) : Byte := if b then 1 else 0

/-! ## The Notice Set (R181) -/

/-- A kind joins the Notice Set, each kind at most once, in number order (R181). -/
def joinNotice (k : NoticeKind) : List NoticeKind → List NoticeKind
  | [] => [k]
  | j :: rest =>
    if k = j then j :: rest
    else if k.number < j.number then k :: j :: rest
    else j :: joinNotice k rest

/-- A notice kind is marked (R181). -/
def State.mark (k : NoticeKind) (s : State) : State :=
  { s with link := { s.link with notices := joinNotice k s.link.notices } }

/-! ## The device state (R137) -/

/-- The device state changes, and every change marks STATE (R137). -/
def State.setDevice (d : DeviceState) (s : State) : State :=
  if s.dev.state = d then s else State.mark .state { s with dev := { s.dev with state := d } }

/-- A relocation media fault, or a retirement that leaves admitted bytes above the limit: READ_ONLY
from ONLINE and DRAINING, no change from the other states (R137). -/
def State.toReadOnly (s : State) : State :=
  match s.dev.state with
  | .online | .draining => s.setDevice .readOnly
  | .mounting | .unformatted | .formatting | .readOnly => s

/-- A host-lane media fault: READ_ONLY from ONLINE only (R137). -/
def State.hostFaultState (s : State) : State :=
  match s.dev.state with
  | .online => s.setDevice .readOnly
  | .mounting | .unformatted | .formatting | .readOnly | .draining => s

/-! ## Admitted bytes and the admission limit (R36 to R38) -/

/-- Admitted bytes are above nine tenths of the limit, compared exactly (R38). -/
def aboveMark (admitted limit : Nat) : Bool := decide (limit * 9 < admitted * 10)

/-- SPACE_LOW is marked when a change crosses the mark upward (R38). -/
def State.crossMark (before after : Bool) (s : State) : State :=
  if !before && after then s.mark .spaceLow else s

/-- Admitted bytes take a value; the state before the change is compared with the state after (R38). -/
def State.setAdmitted (n : Nat) (s : State) : State :=
  State.crossMark (aboveMark s.dir.admitted s.dir.limit) (aboveMark n s.dir.limit)
    { s with dir := { s.dir with admitted := n } }

/-- The admission limit for a number of usable sectors (R37). -/
def admissionLimit (usable : Nat) : Nat := (usable - 4) * Config.creditBytes

/-- The limit is evaluated: SPACE_LOW by R38, in READ_ONLY too (log 28), and READ_ONLY when admitted bytes
exceed it (R37). -/
def State.evalLimit (s : State) : State :=
  let limit := admissionLimit s.usable
  let s' := State.crossMark (aboveMark s.dir.admitted s.dir.limit) (aboveMark s.dir.admitted limit)
    { s with dir := { s.dir with limit := limit } }
  if limit < s.dir.admitted then s'.toReadOnly else s'

/-! ## Durable parts (R26, R29, R31, R33) -/

/-- The record a durable part named becomes dead (R29, R114). -/
def State.retireDurable (d : Option DurablePart) (s : State) : State :=
  match d with
  | some d => s.liveToDead d.sector d.recLen
  | none => s

/-- The record length of an optional durable part. -/
def durableLen : Option DurablePart → Nat
  | some d => d.recLen
  | none => 0

/-- A Directory entry leaves (R33). A durable part it still has leaves admitted bytes and its record
becomes dead. -/
def State.removeEntry (e : Entry) (s : State) : State :=
  ((s.retireDurable e.durable).setEntries (dropEntry e.key s.dir.entries)).setAdmitted
    (s.dir.admitted - durableLen e.durable)

/-- An entry removed by a walk of `victim` leaves its place reserved for its key (R33). -/
def State.reservePlace (k : Key) (victim : Nat) (s : State) : State :=
  { s with dir := { s.dir with reserved := s.dir.reserved ++ [{ key := k, victim := victim }] } }

/-- The erase of a sector starts: the places its walk reserved are released (R33). -/
def State.releasePlaces (sector : Nat) (s : State) : State :=
  { s with dir := { s.dir with reserved := s.dir.reserved.filter (fun r => r.victim != sector) } }

/-- A record of the key is begun: its flash copies rise by one (R25). -/
def State.copyBegun (k : Key) (s : State) : State :=
  match s.entry k with
  | some e => s.putEntry { e with flashCopies := e.flashCopies + 1 }
  | none => s

/-- A walk of `victim` passes a record of the key: its flash copies fall by one, and a TOMBSTONE entry
with nothing queued that falls to 0 is removed, its place reserved (R30, R33). -/
def State.passRecord (k : Key) (victim : Nat) (s : State) : State :=
  match s.entry k with
  | some e =>
    let s' := s.putEntry { e with flashCopies := e.flashCopies - 1 }
    if e.flashCopies = 1 ∧ e.state = .tombstone ∧ e.queued = 0 then
      (s'.removeEntry e).reservePlace k victim
    else s'
  | none => s

/-- A write of the key is made durable at a place: the Directory's and the Sector Table's side (R26). -/
def State.makeDurable (k : Key) (d : DurablePart) (s : State) : State :=
  match s.entry k with
  | some e =>
    (((s.retireDurable e.durable).deadToLive d.sector d.recLen).putEntry
      { e with durable := some d, queued := e.queued - 1 }).setAdmitted
      (s.dir.admitted - durableLen e.durable)
  | none => s

/-- A relocated copy or LOSS record completes: it moves the durable part if the entry still names the
source, else it is dead on arrival (R31, R32). -/
def State.copyComplete (r : RelocRecord) (sector offset : Nat) (s : State) : State :=
  match s.entry r.record.key with
  | some e =>
    match e.durable with
    | some d =>
      if d.sector = r.sector ∧ d.offset = r.offset then
        (((s.liveToDead d.sector d.recLen).deadToLive sector r.record.bytes).putEntry
          { e with durable := some { d with sector := sector, offset := offset, recLen := r.record.bytes } }).setAdmitted
          (s.dir.admitted - d.recLen + r.record.bytes)
      else s
    | none => s
  | none => s

/-- The version a durable part names is found unreadable (R32): kind LOSS, value length 0, LOST unless
a write is queued, and one flash copy passed. -/
def State.markLost (e : Entry) (d : DurablePart) (s : State) : State :=
  let e' := { e with durable := some { d with kind := .loss, valLen := 0 }, flashCopies := e.flashCopies - 1 }
  s.putEntry (if e.queued = 0 then e'.viewFromDurable else e')

end Sys2Proof.Machine
end

