-- ==== Sys2Proof/Machine/Operands.lean ====
section
/-! DEFINITION. The payloads of requests: how the part decodes them (R185, R186), and the encoding a
host writes. -/

namespace Sys2Proof.Machine

/-! ## Fields -/

/-- The next `n` bytes, and what follows them; none when the payload ends first (R186). -/
def takeBytes (n : Nat) (bs : List Byte) : Option (List Byte × List Byte) :=
  if n ≤ bs.length then some (bs.take n, bs.drop n) else none

/-- The next unsigned field of `n` bytes. -/
def takeNum (n : Nat) (bs : List Byte) : Option (Nat × List Byte) :=
  match takeBytes n bs with
  | some (x, rest) => some (fromLe x, rest)
  | none => none

/-- A key: U8 length, then the bytes; a length of 0 is refused for every kind (R185, R186). -/
def takeKey (bs : List Byte) : Option (Key × List Byte) :=
  match takeNum 1 bs with
  | some (n, rest) => if n = 0 then none else takeBytes n rest
  | none => none

/-- A value: U16 length, then the bytes (R185). -/
def takeValue (bs : List Byte) : Option (List Byte × List Byte) :=
  match takeNum 2 bs with
  | some (n, rest) => takeBytes n rest
  | none => none

/-- A presence byte of one optional field: bit 0; any other bit is refused (R185, R186). -/
def takePresence (bs : List Byte) : Option (Bool × List Byte) :=
  match takeNum 1 bs with
  | some (0, rest) => some (false, rest)
  | some (1, rest) => some (true, rest)
  | _ => none

/-- A flags byte: the durable flag in bit 0, the group flag in bit 1; any other bit is refused
(R185, R186). -/
def takeFlags (bs : List Byte) : Option (Bool × Bool × List Byte) :=
  match takeNum 1 bs with
  | some (n, rest) => if n < 4 then some (n % 2 = 1, n / 2 = 1, rest) else none
  | none => none

/-- An optional field of `n` bytes, present or not. -/
def takeOptional (here : Bool) (n : Nat) (bs : List Byte) : Option (Option Nat × List Byte) :=
  if here then
    match takeNum n bs with
    | some (v, rest) => some (some v, rest)
    | none => none
  else some (none, bs)

/-! ## Requests (R185, R186) -/

/-- A payload of no bytes. -/
def decodeEmpty (r : Request) (bs : List Byte) : Option Request := if bs = [] then some r else none

/-- GET and STAT: a key of 1 to 32 bytes and nothing after it. -/
def decodeKeyOnly (f : Key → Request) (bs : List Byte) : Option Request :=
  match takeKey bs with
  | some (k, []) => if k.length ≤ Config.maxKey then some (f k) else none
  | _ => none

/-- LIST: presence, after-key, max count 1 to 64. -/
def decodeList (bs : List Byte) : Option Request :=
  match takePresence bs with
  | some (true, rest) =>
    match takeKey rest with
    | some (k, [m]) =>
      if k.length ≤ Config.maxKey ∧ 1 ≤ m.toNat ∧ m.toNat ≤ 64 then some (.list (some k) m.toNat) else none
    | _ => none
  | some (false, [m]) => if 1 ≤ m.toNat ∧ m.toNat ≤ 64 then some (.list none m.toNat) else none
  | _ => none

/-- PUT: presence, flags, key, value, if-sequence. A key of 33 to 255 bytes and a value above 2000
decode, and are refused at the head of the Admission List (R186). -/
def decodePut (bs : List Byte) : Option Request :=
  match takePresence bs with
  | some (p, r1) =>
    match takeFlags r1 with
    | some (durable, group, r2) =>
      match takeKey r2 with
      | some (k, r3) =>
        match takeValue r3 with
        | some (v, r4) =>
          match takeOptional p 6 r4 with
          | some (q, []) => some (.put { durable := durable, group := group, key := k, value := v, ifSeq := q })
          | _ => none
        | none => none
      | none => none
    | none => none
  | none => none

/-- DELETE: presence, flags, key, if-sequence. -/
def decodeDelete (bs : List Byte) : Option Request :=
  match takePresence bs with
  | some (p, r1) =>
    match takeFlags r1 with
    | some (durable, group, r2) =>
      match takeKey r2 with
      | some (k, r3) =>
        match takeOptional p 6 r3 with
        | some (q, []) => some (.delete { durable := durable, group := group, key := k, value := [], ifSeq := q })
        | _ => none
      | none => none
    | none => none
  | none => none

/-- SECTORS: first sector 0 to 127, count 1 to 32. -/
def decodeSectors (bs : List Byte) : Option Request :=
  match bs with
  | [a, n] =>
    if a.toNat < Config.sectors ∧ 1 ≤ n.toNat ∧ n.toNat ≤ 32 then some (.sectors a.toNat n.toNat) else none
  | _ => none

/-- TIDY: threshold 1 to 100. -/
def decodeTidy (bs : List Byte) : Option Request :=
  match bs with
  | [t] => if 1 ≤ t.toNat ∧ t.toNat ≤ 100 then some (.tidy t.toNat) else none
  | _ => none

/-- RESET: mode 0 DRAIN or 1 DISCARD. -/
def decodeReset (bs : List Byte) : Option Request :=
  match bs with
  | [m] => if m = 0 then some (.reset .drain) else if m = 1 then some (.reset .discard) else none
  | _ => none

/-- The decoding of a taken request's payload; none is BAD_REQUEST (R185, R186). HELLO takes no slot
and is decoded by `decodeHello`. -/
def decodeRequest (kind : ReqKind) (bs : List Byte) : Option Request :=
  match kind with
  | .hello => none
  | .get => decodeKeyOnly .get bs
  | .stat => decodeKeyOnly .stat bs
  | .list => decodeList bs
  | .put => decodePut bs
  | .delete => decodeDelete bs
  | .fence => decodeEmpty .fence bs
  | .beginGroup => decodeEmpty .beginGroup bs
  | .commit => decodeEmpty .commit bs
  | .abort => decodeEmpty .abort bs
  | .space => decodeEmpty .space bs
  | .sectors => decodeSectors bs
  | .tidy => decodeTidy bs
  | .format => decodeEmpty .format bs
  | .reset => decodeReset bs

/-- HELLO: presence, session id not 0, one of the four rates (R169, R185, R186). -/
def decodeHello (bs : List Byte) : Option (Nat × Option Nat) :=
  match takePresence bs with
  | some (p, r1) =>
    match takeNum 2 r1 with
    | some (id, r2) =>
      match takeOptional p 4 r2 with
      | some (baud, []) => if id ≠ 0 ∧ baud.all (fun b => Config.rates.contains b) then some (id, baud) else none
      | _ => none
    | none => none
  | none => none

/-! ## The host's encoding (R185) -/

/-- A key as the host encodes it. -/
def encodeKey (k : Key) : List Byte := le 1 k.length ++ k

/-- A value as the host encodes it. -/
def encodeValue (v : List Byte) : List Byte := le 2 v.length ++ v

/-- A flags byte as the host encodes it. -/
def encodeFlags (durable group : Bool) : Byte :=
  BitVec.ofNat 8 ((if durable then 1 else 0) + (if group then 2 else 0))

/-- An optional field as the host encodes it. -/
def encodeOptional (n : Nat) : Option Nat → List Byte
  | some v => le n v
  | none => []

/-- The kind of a decoded request. -/
def Request.kind : Request → ReqKind
  | .get _ => .get | .stat _ => .stat | .list _ _ => .list | .put _ => .put | .delete _ => .delete
  | .fence => .fence | .beginGroup => .beginGroup | .commit => .commit | .abort => .abort
  | .space => .space | .sectors _ _ => .sectors | .tidy _ => .tidy | .format => .format
  | .reset _ => .reset

/-- The payload of a request (R185). -/
def Request.encode : Request → List Byte
  | .get k | .stat k => encodeKey k
  | .list (some k) m => [1] ++ encodeKey k ++ le 1 m
  | .list none m => [0] ++ le 1 m
  | .put w => [flagByte w.ifSeq.isSome, encodeFlags w.durable w.group] ++ encodeKey w.key
      ++ encodeValue w.value ++ encodeOptional 6 w.ifSeq
  | .delete w => [flagByte w.ifSeq.isSome, encodeFlags w.durable w.group] ++ encodeKey w.key
      ++ encodeOptional 6 w.ifSeq
  | .sectors first count => le 1 first ++ le 1 count
  | .tidy t => le 1 t
  | .reset .drain => [0]
  | .reset .discard => [1]
  | .fence | .beginGroup | .commit | .abort | .space | .format => []

/-- The payload of a HELLO (R185). -/
def encodeHello (id : Nat) (baud : Option Nat) : List Byte :=
  [flagByte baud.isSome] ++ le 2 id ++ encodeOptional 4 baud

/-- A request whose fields are in the ranges R185 and R186 give, so that it has an encoding. -/
def Request.wellFormed : Request → Bool
  | .get k | .stat k => decide (1 ≤ k.length ∧ k.length ≤ Config.maxKey)
  | .list after m => after.all (fun k => decide (1 ≤ k.length ∧ k.length ≤ Config.maxKey)) && decide (1 ≤ m ∧ m ≤ 64)
  | .put w => decide (1 ≤ w.key.length ∧ w.key.length ≤ 255 ∧ w.value.length < 65536)
      && w.ifSeq.all (fun q => decide (q < 2 ^ 48))
  | .delete w => decide (1 ≤ w.key.length ∧ w.key.length ≤ 255 ∧ w.value = [])
      && w.ifSeq.all (fun q => decide (q < 2 ^ 48))
  | .sectors first count => decide (first < Config.sectors ∧ 1 ≤ count ∧ count ≤ 32)
  | .tidy t => decide (1 ≤ t ∧ t ≤ 100)
  | .fence | .beginGroup | .commit | .abort | .space | .format | .reset _ => true

end Sys2Proof.Machine
end

