-- ==== Sys2Proof/Machine/Replies.lean ====
section
/-! DEFINITION. The Transmit Queue, the slots, PENDING and final replies, the Replay Cache, the reply
payloads, and the notices (R160 to R167, R180 to R182, R187, R188). -/

namespace Sys2Proof.Machine

/-! ## The Transmit Queue (R180) -/

/-- A final reply frame. -/
def replyFrame (tag : Byte) (payload : List Byte) : Frame :=
  { kind := kindReply, tag := tag, flags := 0, payload := payload }

/-- A PENDING frame: no bytes (R184). -/
def pendingFrame (tag : Byte) : Frame := { kind := kindPend, tag := tag, flags := 0, payload := [] }

/-- A STILL_PENDING frame: the status byte 20 (R184). -/
def stillPendingFrame (tag : Byte) : Frame :=
  { kind := kindPend, tag := tag, flags := 0, payload := le 1 Status.stillPending.code }

/-- A notice frame: TAG 0 (R181, R183). -/
def noticeFrame (payload : List Byte) : Frame := { kind := kindNote, tag := 0, flags := 0, payload := payload }

/-- A frame joins the tail of the Transmit Queue. -/
def State.pushTx (e : TxFrame) (s : State) : State := { s with link := { s.link with txq := s.link.txq ++ [e] } }

/-- A plain frame with no rate change, which is not the RESET reply. -/
def plainTx (f : Frame) : TxFrame := { frame := f, rateChange := none, restarts := false }

/-- The event is to end in the restart of R151 (log 7). -/
def State.dueRestart (s : State) : State := { s with dev := { s.dev with restartDue := true } }

/-- A PENDING or final reply joins while the queue holds fewer than 32 frames; otherwise it is
dropped. A dropped RESET reply brings the restart (R180, R151). -/
def State.sendReply (e : TxFrame) (s : State) : State :=
  if s.link.txq.length < Config.maxTx then s.pushTx e else if e.restarts then s.dueRestart else s

/-- A retry answer joins only while the queue holds 8 frames or fewer (R180, R166). -/
def State.sendRetry (f : Frame) (s : State) : State :=
  if s.link.txq.length ≤ Config.retryTx then s.pushTx (plainTx f) else s

/-! ## Slots (R160) -/

/-- The slot in use that holds a tag. -/
def State.slot (s : State) (tag : Byte) : Option Slot := s.req.slots.find? (fun sl => sl.tag == tag)

/-- Change the slot that holds a tag. -/
def State.modSlot (tag : Byte) (f : Slot → Slot) (s : State) : State :=
  { s with req := { s.req with slots := s.req.slots.map (fun sl => if sl.tag = tag then f sl else sl) } }

/-- The slot that holds a tag is freed (R165, step 4). -/
def State.freeSlot (tag : Byte) (s : State) : State :=
  { s with req := { s.req with slots := s.req.slots.filter (fun sl => sl.tag != tag) } }

/-- A request begins to wait, or changes its wait reason (R163). -/
def State.waitFor (tag : Byte) (why : WaitReason) : State → State :=
  State.modSlot tag (fun sl => { sl with state := .waiting, wait := some why })

/-- The request in the slot is owed PENDING: it waits for a reason other than FLASH_READ, in the current
session, and has not been sent one (R164). -/
def Slot.owedPending (sl : Slot) : Bool :=
  sl.state == .waiting && sl.wait != some .flashRead && !sl.pendingSent && sl.session == .current

/-- PENDING is queued for a request that has begun to wait in this event and has not been answered in it
(R164, log 17). -/
def State.tellPending (tag : Byte) (s : State) : State :=
  match s.slot tag with
  | some sl =>
    if sl.owedPending then
      (s.modSlot tag (fun sl => { sl with pendingSent := true })).sendReply (plainTx (pendingFrame tag))
    else s
  | none => s

/-! ## Final replies and the Replay Cache (R165, R167) -/

/-- An entry joins the tail of the Replay Cache; a full cache loses its oldest (R167). -/
def State.cacheReply (e : CacheEntry) (s : State) : State :=
  let kept := if s.req.cache.length < Config.maxCache then s.req.cache else s.req.cache.drop 1
  { s with req := { s.req with cache := kept ++ [e] } }

/-- The entry of a tag leaves the Replay Cache (R161, step 5). -/
def State.uncache (tag : Byte) (s : State) : State :=
  { s with req := { s.req with cache := s.req.cache.filter (fun e => e.tag != tag) } }

/-- A request's final reply is decided: queued and cached in the current session, suppressed in an
ended one, and the slot freed (R165). A suppressed RESET reply brings the restart (R151). -/
def State.finish (tag : Byte) (payload : List Byte) (restarts : Bool) (s : State) : State :=
  match s.slot tag with
  | some sl =>
    let s' := match sl.session with
      | .current =>
        let f := replyFrame tag payload
        (s.sendReply { frame := f, rateChange := none, restarts := restarts }).cacheReply
          { tag := tag, digest := sl.digest, frame := f }
      | .ended => if restarts then s.dueRestart else s
    s'.freeSlot tag
  | none => s

/-- A final reply of a status alone, or followed by fields (R187). -/
def State.answer (tag : Byte) (st : Status) (fields : List Byte) (s : State) : State :=
  s.finish tag (le 1 st.code ++ fields) false

/-- A final reply to a frame that took no slot: not cached (R161). -/
def State.answerUnslotted (tag : Byte) (st : Status) (s : State) : State :=
  s.sendReply (plainTx (replyFrame tag (le 1 st.code)))

/-! ## Fields of replies (R187) -/

/-- Fields of OK to a GET: value, sequence, durable flag. -/
def getFields (value : List Byte) (seq : Nat) (durable : Bool) : List Byte :=
  encodeValue value ++ le 6 seq ++ [flagByte durable]

/-- Fields of OK to a STAT (R85). -/
def statFields (e : Entry) : List Byte :=
  [flagByte e.durable.isSome] ++ le 1 e.state.code ++ le 2 e.newestLen ++ le 6 e.newestSeq
    ++ encodeOptional 6 (e.durable.map (fun d => d.seq)) ++ le 1 e.queued

/-- An item of a LIST reply (R89, R187). -/
def ListItem.encode (i : ListItem) : List Byte :=
  encodeKey i.key ++ le 1 i.state.code ++ le 2 i.valLen ++ le 6 i.seq

/-- Fields of OK to a LIST (R187). The more flag is sent as 1 or 0 by the model's reading (log 32). -/
def listFields (items : List ListItem) (more : Bool) : List Byte :=
  le 1 items.length ++ [flagByte more] ++ items.flatMap ListItem.encode

/-- Fields of OK to a COMMIT (R70, R71). -/
def commitFields (count : Nat) (first : Option Nat) : List Byte :=
  [flagByte first.isSome] ++ le 1 count ++ encodeOptional 6 first

/-- Lowest erase count among entries that meet a test, 0 when none does. -/
def lowestCount (p : SectorEntry → Bool) (table : List SectorEntry) : Nat :=
  match (table.filter p).map (fun e => e.eraseCount) with
  | [] => 0
  | n :: rest => rest.foldl min n

/-- Highest erase count among entries that meet a test, 0 when none does. -/
def highestCount (p : SectorEntry → Bool) (table : List SectorEntry) : Nat :=
  ((table.filter p).map (fun e => e.eraseCount)).foldl max 0

/-- A sector is usable: not RETIRED (R117). -/
def SectorEntry.usable (e : SectorEntry) : Bool := e.state != .retired

/-- A sector is FULL. -/
def SectorEntry.isFull (e : SectorEntry) : Bool := e.state == .full

/-- Fields of OK to a SPACE (R132, R187). The host stall is sent as 1 or 0 by the model's reading (log 32). -/
def spaceFields (s : State) : List Byte :=
  [SectorState.erased, .opened, .full, .reclaiming, .stale, .erasing, .retired].flatMap (fun st => le 1 (s.count st))
    ++ le 4 s.dir.admitted ++ le 4 s.dir.limit
    ++ le 4 ((s.sm.table.map (fun e => e.live)).sum) ++ le 4 ((s.sm.table.map (fun e => e.dead)).sum)
    ++ le 1 (s.count .erased - 2) ++ [flagByte s.sm.hostStall] ++ le 1 s.sm.engine.code
    ++ le 3 (lowestCount SectorEntry.usable s.sm.table) ++ le 3 (highestCount SectorEntry.usable s.sm.table)

/-- An optional number, 0 when absent (R187). -/
def orZero : Option Nat → Nat
  | some n => n
  | none => 0

/-- A row of a SECTORS reply (R133, R187). The bits of its flags byte that R187 does not name are sent as 0 (log
32). -/
def sectorRow (n : Nat) (e : SectorEntry) : List Byte :=
  le 1 n ++ le 1 e.state.code ++ le 3 e.eraseCount ++ le 4 (orZero e.openGen) ++ le 2 e.live ++ le 2 e.dead
    ++ le 2 (orZero e.appendOffset) ++ le 1 e.readers ++ le 2 e.corrected
    ++ le 1 ((if e.fault then 1 else 0) + (if e.dirty then 2 else 0) + (if e.openGen.isSome then 4 else 0)
        + (if e.appendOffset.isSome then 8 else 0))

/-- Fields of OK to a SECTORS: rows from the first sector on, stopping after sector 127 (R133). -/
def sectorsFields (s : State) (first count : Nat) : List Byte :=
  let n := min count (Config.sectors - first)
  le 1 n ++ (List.range n).flatMap (fun i => sectorRow (first + i) (s.sector (first + i)))

/-- The text "Wezgan WZ6410" (R171). -/
def identityText : List Byte :=
  [0x57, 0x65, 0x7A, 0x67, 0x61, 0x6E, 0x20, 0x57, 0x5A, 0x36, 0x34, 0x31, 0x30]

/-- Fields of OK to a HELLO (R171, R187). -/
def helloFields (s : State) (session rate : Nat) : List Byte :=
  le 1 identityText.length ++ identityText ++ [Config.revision] ++ le 2 session ++ le 1 s.dev.state.code
    ++ le 1 Config.maxSlots ++ le 2 Config.maxEntries ++ le 1 Config.maxKey ++ le 2 Config.maxValue
    ++ le 4 s.dir.limit ++ le 4 rate

/-! ## Notices (R181, R182, R188) -/

/-- The payload of a notice, with the values current in this event (R182, R188). -/
def noticePayload (s : State) (k : NoticeKind) : List Byte :=
  le 1 k.number ++
  match k with
  | .state => le 1 s.dev.state.code
  | .supply => le 1 s.sup.condition.code
  | .sectorRetired => le 1 (s.count .retired)
  | .spaceLow => le 4 s.dir.admitted ++ le 4 s.dir.limit
  | .frameDropped => []
  | .linkReset => le 4 s.link.rate
  | .wear => le 3 (highestCount SectorEntry.usable s.sm.table) ++ le 3 (lowestCount SectorEntry.isFull s.sm.table)

/-- At most `n` notices are built, lowest kind first, while the Transmit Queue holds 4 frames or fewer. -/
def State.consultUpTo : Nat → State → State
  | 0, s => s
  | n + 1, s =>
    match s.link.notices with
    | [] => s
    | k :: rest =>
      if s.link.txq.length ≤ Config.noticeTx then
        State.consultUpTo n (State.pushTx (plainTx (noticeFrame (noticePayload s k)))
          { s with link := { s.link with notices := rest } })
      else s

/-- The Notice Set is consulted (R181). -/
def State.consult (s : State) : State := s.consultUpTo s.link.notices.length

end Sys2Proof.Machine
end

