-- ==== Sys2Proof/Machine/Queue.lean ====
section
/-! DEFINITION. The Admission List, the Write Queue, the Group Stage, fences, and the failure of the
queue (chapters 3 and 4). -/

namespace Sys2Proof.Machine

/-! ## Small updates -/

/-- Change the Write Queue. -/
def State.modQueue (f : WriteQueue → WriteQueue) (s : State) : State := { s with wq := f s.wq }

/-- A request leaves the Admission List (R40). -/
def State.leaveList (tag : Byte) (s : State) : State :=
  s.modQueue (fun q => { q with admission := q.admission.filter (fun t => t != tag) })

/-- Staging Buffer bytes are charged (R46). -/
def State.charge (b : Nat) : State → State := State.modQueue (fun q => { q with charged := q.charged + b })

/-- Staging Buffer bytes are released (R46). -/
def State.release (b : Nat) : State → State := State.modQueue (fun q => { q with charged := q.charged - b })

/-- Free Staging Buffer bytes (R46). -/
def State.stagingFree (s : State) : Nat := Config.stagingBytes - s.wq.charged

/-- The sequence counter's value; before mount has set it, 1 (no admission happens then, R15). -/
def State.nextSeq (s : State) : Nat := s.wq.seqCounter.getD 1

/-- The sequence counter advances by `n` (R14). -/
def State.takeSeqs (n : Nat) (s : State) : State := s.modQueue (fun q => { q with seqCounter := some (s.nextSeq + n) })

/-- The hold timer starts when an entry joins the queue in HOLD; already running, it goes on (R157). -/
def State.startHoldTimer (s : State) : State :=
  if s.sup.condition = .hold ∧ s.wq.entries ≠ [] then { s with sup := { s.sup with holdTimer := true } } else s

/-- The hold timer stops once the queue is empty (R157). -/
def State.stopHoldTimer (s : State) : State :=
  if s.wq.entries = [] then { s with sup := { s.sup with holdTimer := false } } else s

/-! ## Admission of a write (R23, R44) -/

/-- The Directory takes a write (R23). An entry for a key without one takes a reserved place of its key
if there is one (R21, R33). -/
def State.dirTake (k : Key) (kind : RecordKind) (seq valLen : Nat) (s : State) : State :=
  let e := (s.entry k).getD
    { key := k, state := .tombstone, newestSeq := 0, newestLen := 0, queued := 0, durable := none, flashCopies := 0 }
  let s' := s.putEntry { (e.viewFromWrite kind seq valLen) with queued := e.queued + 1 }
  { s' with dir := { s'.dir with reserved := s'.dir.reserved.filter (fun r => r.key != k) } }

/-- An entry joins the tail of the Write Queue (R44, R70). -/
def State.enqueue (e : QueueEntry) (s : State) : State :=
  State.startHoldTimer (s.modQueue (fun q => { q with entries := q.entries ++ [e] }))

/-- The record kind of a write request. -/
def writeKind (deletes : Bool) : RecordKind := if deletes then .tombstone else .data

/-- The value of a write: a DELETE has none (R45). -/
def writeValue (deletes : Bool) (w : WriteFields) : List Byte := if deletes then [] else w.value

/-- Record bytes of the write's record (R8, R43). -/
def writeBytes (deletes : Bool) (w : WriteFields) : Nat :=
  recordBytes w.key.length (writeValue deletes w).length

/-- A lone PUT or DELETE is admitted: sequence, Directory, Staging Buffer, Write Queue, reply (R44, R51). -/
def State.admitLone (tag : Byte) (deletes : Bool) (w : WriteFields) (s : State) : State :=
  let seq := s.nextSeq
  let value := writeValue deletes w
  let b := writeBytes deletes w
  let s1 := (s.takeSeqs 1).dirTake w.key (writeKind deletes) seq value.length
  let s2 := (s1.setAdmitted (s1.dir.admitted + b)).charge b
  let s3 := s2.enqueue { key := w.key, kind := writeKind deletes, seq := seq, recLen := b, value := value,
                         group := none, waiter := if w.durable then some tag else none, state := .waiting }
  if w.durable then s3.waitFor tag .durable else s3.answer tag .ok (le 6 seq)

/-! ## The Group Stage (R61, R66, R70, R73) -/

/-- The open group is discarded: its staged bytes leave admitted bytes and the Staging Buffer (R73). -/
def State.discardGroup (s : State) : State :=
  match s.grp.group with
  | some g =>
    ({ s with grp := { s.grp with group := none } }.setAdmitted (s.dir.admitted - g.bytes)).release g.bytes
  | none => s

/-- A member is staged (R66). -/
def State.stageMember (tag : Byte) (deletes : Bool) (w : WriteFields) (g : OpenGroup) (s : State) : State :=
  let b := writeBytes deletes w
  let m : Member := { key := w.key, kind := writeKind deletes, value := writeValue deletes w, recLen := b, ifSeq := w.ifSeq }
  let g' : OpenGroup := { g with members := g.members ++ [m], bytes := g.bytes + b }
  let s1 : State := { s with grp := { s.grp with group := some g' } }
  let s2 := (s1.charge b).setAdmitted (s.dir.admitted + b)
  s2.answer tag .ok (le 1 (g.members.length + 1))

/-- The commit checks of one member after another (R68): the failing member's index (from 1) with its
status and, for CONFLICT, the check sequence. `seen` holds what earlier members did to their keys. -/
def State.commitCheck (s : State) : List Member → List (Key × Bool) → Nat → Option (Status × Nat × Nat)
  | [], _, _ => none
  | m :: rest, seen, i =>
    let absent : Bool := match seen.find? (fun p => p.1 == m.key) with
      | some (_, present) => !present
      | none => s.isAbsent m.key
    if m.kind == .tombstone && absent then some (.notFound, i, 0)
    else if m.ifSeq.any (fun q => q != s.checkSeq m.key) then some (.conflict, i, s.checkSeq m.key)
    else s.commitCheck rest ((m.key, m.kind == .data) :: seen) (i + 1)

/-- The keys of a list, each once. -/
def distinctKeys : List Key → List Key
  | [] => []
  | k :: rest => if rest.contains k then distinctKeys rest else k :: distinctKeys rest

/-- Distinct member keys that need a new place (R69). -/
def State.newPlaces (s : State) (ms : List Member) : Nat :=
  (distinctKeys ((ms.map (fun m => m.key)).filter s.needsPlace)).length

/-- The members of an admitted group join the Directory and the Write Queue in member order (R70). -/
def State.admitMembers (gid : Nat) (tag : Byte) : List Member → Nat → State → State
  | [], _, s => s
  | m :: rest, seq, s =>
    let s1 := s.dirTake m.key m.kind seq m.value.length
    let last := rest.isEmpty
    State.admitMembers gid tag rest (seq + 1) (s1.enqueue
      { key := m.key, kind := m.kind, seq := seq, recLen := m.recLen, value := m.value, group := some (gid, last),
        waiter := if last then some tag else none, state := .waiting })

/-- A COMMIT that passed its checks admits its group (R70). -/
def State.admitGroup (tag : Byte) (g : OpenGroup) (s : State) : State :=
  let seq := s.nextSeq
  let s1 := { s with grp := { s.grp with group := none } }
  if g.members = [] then s1.answer tag .ok (commitFields 0 none)
  else ((s1.takeSeqs g.members.length).admitMembers g.id tag g.members seq).waitFor tag .durable

/-! ## Consideration of the head (R40 to R43, R52, R64, R65, R68, R69) -/

/-- The outcome of one consideration (R40): the head left the list, or it is kept. -/
inductive Consideration
  | left (s : State)
  | kept (s : State)

/-- The head is refused: it leaves the list and its final reply is queued (R40). -/
def State.refuse (tag : Byte) (st : Status) (fields : List Byte) (s : State) : Consideration :=
  .left ((s.leaveList tag).answer tag st fields)

/-- The device state and media-fault check of R41: the refusing status, or none. The states in which
no write reaches the head refuse with NOT_READY (log 11). -/
def State.headGate (s : State) : Option Status :=
  match s.dev.state with
  | .readOnly => some .readOnly
  | .online | .draining => if s.wq.mediaFault then some .mediaFault else none
  | .mounting | .unformatted | .formatting => some .notReady

/-- The key or value is too large (R42, R43, R64, R65). -/
def tooLarge (deletes : Bool) (w : WriteFields) : Bool :=
  decide (Config.maxKey < w.key.length ∨ Config.maxValue < (writeValue deletes w).length)

/-- A lone PUT or DELETE at the head, after R41 (R42, R43). -/
def State.considerLone (tag : Byte) (deletes : Bool) (w : WriteFields) (s : State) : Consideration :=
  let b := writeBytes deletes w
  if tooLarge deletes w then s.refuse tag .tooLarge []
  else if deletes && s.isAbsent w.key then s.refuse tag .notFound []
  else if w.ifSeq.any (fun q => q != s.checkSeq w.key) then
    s.refuse tag .conflict (le 6 (s.checkSeq w.key) ++ [0])
  else if s.needsPlace w.key && decide (Config.maxEntries ≤ s.places) then s.refuse tag .noEntry []
  else if s.dir.limit < s.dir.admitted + b then s.refuse tag .noSpace []
  else if Config.maxQueue ≤ s.wq.entries.length ∨ s.stagingFree < b then .kept (s.waitFor tag .admission)
  else .left ((s.leaveList tag).admitLone tag deletes w)

/-- The open group a request is bound to, when it is still open (R63). -/
def State.boundGroup (s : State) (bound : Option Nat) : Option OpenGroup :=
  match s.grp.group with
  | some g => if bound = some g.id then some g else none
  | none => none

/-- A group-flagged PUT or DELETE at the head, after R41 (R64, R65). -/
def State.considerMember (tag : Byte) (deletes : Bool) (w : WriteFields) (bound : Option Nat) (s : State) :
    Consideration :=
  let b := writeBytes deletes w
  match s.boundGroup bound with
  | none => s.refuse tag .groupState []
  | some g =>
    if tooLarge deletes w then s.refuse tag .tooLarge []
    else if Config.maxMembers ≤ g.members.length ∨ Config.maxStaged < g.bytes + b then s.refuse tag .groupFull []
    else if s.dir.limit < s.dir.admitted + b then s.refuse tag .noSpace []
    else if s.stagingFree < b then .kept (s.waitFor tag .admission)
    else .left ((s.leaveList tag).stageMember tag deletes w g)

/-- A COMMIT refused after its group was found open: refused and the group discarded (R68, R69, R73). -/
def State.refuseCommit (tag : Byte) (st : Status) (fields : List Byte) (s : State) : Consideration :=
  .left (((s.leaveList tag).answer tag st fields).discardGroup)

/-- A COMMIT at the head, after R41 (R63, R68, R69). -/
def State.considerCommit (tag : Byte) (bound : Option Nat) (s : State) : Consideration :=
  match s.boundGroup bound with
  | none => s.refuse tag .groupState []
  | some g =>
    match s.commitCheck g.members [] 1 with
    | some (.conflict, i, q) => s.refuseCommit tag .conflict (le 6 q ++ le 1 i)
    | some (st, i, _) => s.refuseCommit tag st (le 1 i)
    | none =>
      if Config.maxEntries - s.places < s.newPlaces g.members then s.refuseCommit tag .noEntry []
      else if Config.maxQueue - s.wq.entries.length < g.members.length then .kept (s.waitFor tag .commit)
      else .left ((s.leaveList tag).admitGroup tag g)

/-- The newest sequence assigned so far (R52). -/
def State.lastSeq (s : State) : Nat := s.nextSeq - 1

/-- The status of a fence's outcome (R52). -/
def fenceStatus (failed : Bool) : Status := if failed then .failedBefore else .ok

/-- A FENCE is admitted (R52). -/
def State.admitFence (tag : Byte) (s : State) : State :=
  let failed := s.wq.failureNote
  let s1 := s.modQueue (fun q => { q with failureNote := false, fenceBoundary := s.lastSeq })
  match s.wq.entries.getLast? with
  | none => s1.answer tag (fenceStatus failed) []
  | some e =>
    (s1.modQueue (fun q => { q with fences := q.fences ++ [{ tag := tag, mark := e.seq, failed := failed }] })).waitFor tag .fence

/-- A COMMIT refused by R41 discards the group it is bound to, if that is still open (R68). -/
def State.refuseCommitGate (tag : Byte) (st : Status) (bound : Option Nat) (s : State) : Consideration :=
  if (s.boundGroup bound).isSome then s.refuseCommit tag st [] else s.refuse tag st []

/-- One consideration of the request at the head (R40). -/
def State.considerHead (sl : Slot) (s : State) : Consideration :=
  match sl.request with
  | some (.put w) =>
    match s.headGate with
    | some st => s.refuse sl.tag st []
    | none => if w.group then s.considerMember sl.tag false w sl.bound else s.considerLone sl.tag false w
  | some (.delete w) =>
    match s.headGate with
    | some st => s.refuse sl.tag st []
    | none => if w.group then s.considerMember sl.tag true w sl.bound else s.considerLone sl.tag true w
  | some .commit =>
    match s.headGate with
    | some st => s.refuseCommitGate sl.tag st sl.bound
    | none => s.considerCommit sl.tag sl.bound
  | some .fence => .left ((s.leaveList sl.tag).admitFence sl.tag)
  | _ => .left (s.leaveList sl.tag)

/-- At most `n` heads are considered, until the list is empty or its head is kept (R40). -/
def State.considerUpTo : Nat → State → State
  | 0, s => s
  | n + 1, s =>
    match s.wq.admission with
    | [] => s
    | tag :: _ =>
      match s.slot tag with
      | none => State.considerUpTo n (s.leaveList tag)
      | some sl =>
        match s.considerHead sl with
        | .left s' => State.considerUpTo n s'
        | .kept s' => s'

/-- The Admission List is considered, unless a RESET in DISCARD mode froze it (R40, R59). -/
def State.considerAdmissions (s : State) : State :=
  if s.wq.frozen then s else s.considerUpTo s.wq.admission.length

/-! ## Entries that leave the queue (R26 to R28, R48, R49, R53 to R56) -/

/-- Fence waiters are answered in admission order (R53). -/
def State.answerFences (st : FenceWaiter → Status) : List FenceWaiter → State → State
  | [], s => s
  | f :: rest, s => State.answerFences st rest (s.answer f.tag (st f) [])

/-- After a completion, the fence waiters whose mark has left the queue are answered with their
outcome and leave the list (R53). -/
def State.completeFences (s : State) : State :=
  let held := fun f : FenceWaiter => s.wq.entries.any (fun e => e.seq == f.mark)
  State.answerFences (fun f => fenceStatus f.failed) (s.wq.fences.filter (fun f => !held f))
    (s.modQueue (fun q => { q with fences := q.fences.filter held }))

/-- The entry at the front of the queue leaves it as durable at a place (R26, R48). -/
def State.frontDurable (sector offset : Nat) (s : State) : State :=
  match s.wq.entries with
  | [] => s
  | e :: rest =>
    ((s.modQueue (fun q => { q with entries := rest })).makeDurable e.key
      { sector := sector, offset := offset, seq := e.seq, kind := e.kind, recLen := e.recLen, valLen := e.value.length }).release
      e.recLen

/-- The reply of a write or run that became durable (R51, R71). -/
def State.durableReply (e : QueueEntry) (first count : Nat) (s : State) : State :=
  match e.waiter with
  | some tag =>
    match e.group with
    | none => s.answer tag .ok (le 6 e.seq)
    | some _ => s.answer tag .ok (commitFields count (some first))
  | none => s

/-- The members of a run leave the front of the queue durable, in member order (R27, R49). -/
def State.runDurable (sector : Nat) : List Nat → State → State
  | [], s => s
  | o :: rest, s => State.runDurable sector rest (s.frontDurable sector o)

/-- The newest view reverts when an entry of the key has failed; `rest` are the entries that remain
(R28, cases 2 to 5). -/
def State.revertKey (k : Key) (recLen : Nat) (rest : List QueueEntry) (s : State) : State :=
  match s.entry k with
  | none => s
  | some e =>
    let e' := { e with queued := e.queued - 1 }
    let s' := s.setAdmitted (s.dir.admitted - recLen)
    match (rest.filter (fun q => q.key == k)).getLast? with
    | some q => s'.putEntry (e'.viewFromWrite q.kind q.seq q.value.length)
    | none =>
      if e.durable.isNone ∧ e.flashCopies = 0 then s'.setEntries (dropEntry k s.dir.entries)
      else s'.putEntry e'.viewFromDurable

/-- Every entry fails, head first: it leaves the queue, its key reverts, its bytes are released, and
its waiter is answered (R28, R55, R56). -/
def State.failEntries (st : Status) : List QueueEntry → State → State
  | [], s => s
  | e :: rest, s =>
    let s1 := ((s.modQueue (fun q => { q with entries := rest })).revertKey e.key e.recLen rest).release e.recLen
    State.failEntries st rest
      (match e.waiter with
       | some tag => s1.answer tag st []
       | none => s1)

/-- The whole queue fails: entries, failure note, fence waiters, hold timer (R53 to R57, R157). -/
def State.failQueue (st : Status) (s : State) : State :=
  let noted := s.wq.entries.any (fun e => decide (s.wq.fenceBoundary < e.seq))
  let s1 := State.failEntries st s.wq.entries s
  let s2 := s1.modQueue (fun q => { q with failureNote := q.failureNote || noted, fences := [] })
  State.stopHoldTimer (State.answerFences (fun _ => .failedBefore) s.wq.fences s2)

/-! ## The offer to the host lane (R47, R94) -/

/-- The run at the front of the queue: its entries up to the group end. -/
def runOf : List QueueEntry → List QueueEntry
  | [] => []
  | e :: rest => if e.group.any (fun g => g.2) then [e] else e :: runOf rest

/-- The Write Queue offers its first entry to an empty host lane, unless a RESET in DISCARD mode
stopped the offers. An offer of a run's first member gives its member count and total record bytes
(R47, R59, R94). -/
def State.offerHost (s : State) : State :=
  match s.lw.hostLane, s.wq.entries with
  | none, e :: rest =>
    if s.wq.frozen ∨ e.state ≠ .waiting then s
    else
      let run := if e.group.isSome then runOf (e :: rest) else [e]
      { s with lw := { s.lw with hostLane := some { members := run.length, total := (run.map (fun q => q.recLen)).sum } } }
  | _, _ => s

end Sys2Proof.Machine
end

