-- ==== Sys2Proof/Machine/Reclaim.lean ====
section
/-! DEFINITION. The Reclaim Engine: demands, choice of a victim, the victim walk, the tail sweep, the
drain, abandonment, and the TIDY's progress (R118 to R126, R134, R135). -/

namespace Sys2Proof.Machine

/-- Change the Sector Manager. -/
def State.modManager (f : SectorManager → SectorManager) (s : State) : State := { s with sm := f s.sm }

/-- Change the Log Writer. -/
def State.modWriter (f : LogWriter → LogWriter) (s : State) : State := { s with lw := f s.lw }

/-- Change the Array Controller. -/
def State.modArray (f : ArrayCtl → ArrayCtl) (s : State) : State := { s with arr := f s.arr }

/-- The store is mounted and no FORMAT runs: the states in which the Reclaim Engine and the Erase
Batch act (R116, R142, R146). -/
def State.storeActive (s : State) : Bool :=
  match s.dev.state with
  | .online | .readOnly | .draining => true
  | .mounting | .unformatted | .formatting => false

/-! ## Demands (R118) -/

/-- The numbers by which the low-space latch is evaluated: ERASED, STALE and ERASING (R118). -/
def State.latchNumbers (s : State) : Nat × Nat × Nat := (s.count .erased, s.count .stale, s.count .erasing)

/-- The low-space latch is evaluated, by the numbers as they stand (R118), while FORMATTING too, where no victim is
taken (R146). Before mount has completed and in UNFORMATTED there is no store to evaluate it for, and no sector
changes its state (R116, R142). -/
def State.judgeLatch (s : State) : State :=
  let latch : Bool :=
    if 6 ≤ s.count .erased + s.count .stale + s.count .erasing then false
    else if s.count .erased ≤ 4 then true
    else s.sm.lowSpace
  if s.storeActive ∨ s.dev.state = .formatting then
    s.modManager (fun m => { m with lowSpace := latch, latchFor := s.latchNumbers })
  else s

/-- The low-space latch is evaluated if one of its numbers has changed (R118, log 33). -/
def State.evalLatch (s : State) : State := if s.sm.latchFor = s.latchNumbers then s else s.judgeLatch

/-- The TIDY list has sectors left (R118). -/
def State.tidyLeft (s : State) : Bool := s.sm.tidy.any (fun t => !t.list.isEmpty)

/-! ## Choice of a victim (R119) -/

/-- The scrub preference (R115, R119). -/
def SectorEntry.scrub (e : SectorEntry) : Bool := decide (4 ≤ e.corrected)

/-- Draining the sector wins space (R119). -/
def SectorEntry.worthDraining (e : SectorEntry) : Bool := decide (0 < e.dead ∨ e.live = 0)

/-- The first of two candidates: most dead bytes, then lower erase count, then lower number (R119).
`a` has the lower number. -/
def betterVictim (table : List SectorEntry) (a b : Nat) : Nat :=
  let x := table.getD a SectorEntry.initial
  let y := table.getD b SectorEntry.initial
  if y.dead < x.dead then a
  else if x.dead < y.dead then b
  else if y.eraseCount < x.eraseCount then b
  else a

/-- The best of candidates in rising number. -/
def bestVictim (table : List SectorEntry) : List Nat → Option Nat
  | [] => none
  | n :: rest => some (rest.foldl (betterVictim table) n)

/-- The candidates by the demands: all FULL sectors, or those of the TIDY list when it alone demands
(R119). -/
def State.candidates (s : State) : List Nat :=
  let full := sectorsWhere SectorEntry.isFull s.sm.table
  if s.sm.lowSpace || s.sm.hostStall then full
  else match s.sm.tidy with
    | some t => full.filter (fun n => t.list.contains n)
    | none => []

/-- The victim R119 chooses, if any candidate qualifies. -/
def State.victim? (s : State) : Option Nat :=
  match bestVictim s.sm.table (s.candidates.filter (fun n => (s.sector n).scrub)) with
  | some n => some n
  | none => bestVictim s.sm.table (s.candidates.filter (fun n => (s.sector n).worthDraining))

/-! ## The walk -/

/-- The walk asks for a read of its victim in class 2 (R108, R120). -/
def State.walkAsks (victim offset words : Nat) : State → State :=
  State.modArray (fun a => { a with walks := a.walks ++
    [{ who := .reclaim, sector := victim, offset := offset, words := words, discard := false }] })

/-- Words of a header read at an offset: two, or one at the last word of the sector (log 12). -/
def headerWords (offset : Nat) : Nat := min 2 ((Config.sectorBytes - offset) / 8)

/-- The walk goes on at an offset with a read of the header words (R120). -/
def State.walkAt (w : Walk) (offset : Nat) (s : State) : State :=
  (s.modManager (fun m => { m with walk := some { w with offset := offset, phase := .header } })).walkAsks
    w.victim offset (headerWords offset)

/-- A FULL sector becomes the victim and the walk begins (R119, R131). -/
def State.startWalk (victim : Nat) (s : State) : State :=
  let forTidy := s.sm.tidy.any (fun t => t.list.contains victim)
  let s1 := s.modSector victim (fun e => { e with state := .reclaiming })
  let s2 := s1.modManager (fun m => { m with engine := .walking, tidy := m.tidy.map (fun t =>
    { t with list := t.list.filter (fun n => n != victim) }) })
  s2.walkAt { victim := victim, offset := 16, phase := .header, sweep := false, forTidy := forTidy } 16

/-- A victim is chosen when the engine is IDLE and reclaim has demand (R118, R119). -/
def State.chooseVictim (s : State) : State :=
  if s.storeActive ∧ s.sm.engine = .idle ∧ (s.sm.lowSpace ∨ s.sm.hostStall ∨ s.tidyLeft) then
    match s.victim? with
    | some n => s.startWalk n
    | none => s
  else s

/-- The victim is drained: STALE, at the tail of the stale order, the engine IDLE (R125, R127). A TIDY
the victim counts for counts it (R135). -/
def State.drain (w : Walk) (s : State) : State :=
  (s.modSector w.victim (fun e => { e with state := .stale, openGen := none })).modManager (fun m =>
    { m with engine := .idle, walk := none, staleOrder := m.staleOrder ++ [w.victim],
             tidy := m.tidy.map (fun t => if w.forTidy then { t with drained := t.drained + 1 } else t) })

/-- The lowest offset above a bound that some durable part names in a sector, with its record length
(R124). -/
def nextNamed (sector bound : Nat) (es : List Entry) : Option (Nat × Nat) :=
  es.foldl (fun best e =>
    match e.durable with
    | some d =>
      if d.sector = sector ∧ bound < d.offset then
        match best with
        | some (o, n) => if d.offset < o then some (d.offset, d.recLen) else some (o, n)
        | none => some (d.offset, d.recLen)
      else best
    | none => best) none

/-- The tail sweep asks for the next live record beyond the last offset handled, or ends the walk
(R124, R125). -/
def State.sweepFrom (w : Walk) (bound : Nat) (s : State) : State :=
  match nextNamed w.victim bound s.dir.entries with
  | some (offset, len) =>
    let w' : Walk := { w with offset := offset, phase := .sweepRead, sweep := true }
    (s.modManager (fun m => { m with walk := some w' })).walkAsks w.victim offset (len / 8)
  | none => s.drain w

/-- The record at the walk's offset has been decided, and the walk moves to `next`: the next record,
the sweep's next question, or the end of the data area (R120, R121, R124). -/
def State.walkOn (w : Walk) (next : Nat) (s : State) : State :=
  if w.sweep then s.sweepFrom w w.offset
  else if Config.sectorBytes ≤ next then s.drain w
  else s.walkAt w next

/-- A record is handed to the relocation lane with its source location, and the walk waits (R95, R121,
R123). -/
def State.handCopy (w : Walk) (r : Record) (next : Nat) (s : State) : State :=
  (s.modManager (fun m => { m with walk := some { w with phase := .copying next } })).modWriter (fun l =>
    { l with relocLane := some { record := r, sector := w.victim, offset := w.offset } })

/-- The relocated copy of a record: group fields clear (R7). -/
def Record.copy (r : Record) : Record := { r with group := none }

/-- A valid record is passed if dead, dropped if it is a TOMBSTONE that is its key's only counted copy
with nothing queued, and copied otherwise (R120 to R122). -/
def State.decideValid (w : Walk) (r : Record) (s : State) : State :=
  let next := w.offset + r.bytes
  match s.entry r.key with
  | some e =>
    if e.namesPlace w.victim w.offset ∧ ¬ (r.kind = .tombstone ∧ e.queued = 0 ∧ e.flashCopies = 1) then
      (s.passRecord r.key w.victim).handCopy w r.copy next
    else (s.passRecord r.key w.victim).walkOn w next
  | none => s.walkOn w next

/-- The LOSS record of an entry's unreadable version (R7, R123). -/
def lossRecord (e : Entry) (d : DurablePart) : Record :=
  { kind := .loss, key := e.key, value := [], seq := d.seq, group := none }

/-- The record at the walk's offset is invalid, or its header word A reads as all ones at a named
place: the version is marked lost and a LOSS record handed in, or the tail sweep begins (R123, R124). -/
def State.decideInvalid (w : Walk) (s : State) : State :=
  match entryAt w.victim w.offset s.dir.entries with
  | some e =>
    match e.durable with
    | some d => (s.markLost e d).handCopy w (lossRecord e d) (w.offset + d.recLen)
    | none => s
  | none => s.sweepFrom w w.offset

/-- A sweep's read has completed: handled as a live record when it is valid and matches the entry that
names it, as lost otherwise; a record no entry names any more is passed as dead (R124, log 13). -/
def State.decideSwept (w : Walk) (words : List RawWord) (s : State) : State :=
  match entryAt w.victim w.offset s.dir.entries, validRecord words w.offset with
  | some e, some r =>
    if r.key = e.key ∧ e.durable.any (fun d => d.seq == r.seq) then s.decideValid w r else s.decideInvalid w
  | some _, none => s.decideInvalid w
  | none, some r => (s.passRecord r.key w.victim).walkOn w (w.offset + r.bytes)
  | none, none => s.walkOn w w.offset

/-- A reclaim read completes with these words (R120). -/
def State.walkRead (words : List RawWord) (s : State) : State :=
  match s.sm.walk with
  | none => s
  | some w =>
    match w.phase with
    | .header =>
      if (words.head?.any RawWord.allOnes) ∧ (entryAt w.victim w.offset s.dir.entries).isNone then s.drain w
      else
        match headerWithin words w.offset with
        | some h =>
          (s.modManager (fun m => { m with walk := some { w with phase := .body words } })).walkAsks
            w.victim (w.offset + 16) (h.bytes / 8 - 2)
        | none => s.decideInvalid w
    | .body hdr =>
      match validRecord (hdr ++ words) w.offset with
      | some r => s.decideValid w r
      | none => s.decideInvalid w
    | .sweepRead => s.decideSwept w words
    | .copying _ => s

/-- The outstanding copy has completed: the walk goes on (R121, R123). -/
def State.copyDone (s : State) : State :=
  match s.sm.walk with
  | some w =>
    match w.phase with
    | .copying next => s.walkOn w next
    | .header | .body _ | .sweepRead => s
  | none => s

/-! ## Abandonment (R104, R126) -/

/-- The relocation record is dropped: the walk is abandoned, the victim stays RECLAIMING, an active
TIDY is answered MEDIA_FAULT, and the device enters READ_ONLY from ONLINE or DRAINING (R104, R126,
R135). -/
def State.dropRelocation (s : State) : State :=
  let s1 := s.modWriter (fun l => { l with relocLane := none, relocFailures := 0 })
  let s2 := s1.modManager (fun m => { m with engine := .abandoned, walk := none, relocStall := false, tidy := none })
  let s3 := match s.sm.tidy with
    | some t => s2.answer t.tag .mediaFault (le 1 t.drained)
    | none => s2
  s3.toReadOnly

/-! ## TIDY (R134, R135) -/

/-- The TIDY's list: FULL sectors at or over the threshold (R134). -/
def tidyList (threshold : Nat) (table : List SectorEntry) : List Nat :=
  sectorsWhere (fun e => e.isFull && decide (threshold * Config.dataArea ≤ e.dead * 100)) table

/-- An active TIDY is finished once its list is empty and no sector taken from it is RECLAIMING
(R135). -/
def State.finishTidy (s : State) : State :=
  match s.sm.tidy with
  | some t =>
    if t.list = [] ∧ ¬ s.sm.walk.any (fun w => w.forTidy) then
      (s.modManager (fun m => { m with tidy := none })).answer t.tag .ok (le 1 t.drained)
    else s
  | none => s

end Sys2Proof.Machine
end

