-- ==== Sys2Proof/Machine/Writer.lean ====
section
/-! DEFINITION. The Log Writer: stalls, the append arbiter, opening and closing sectors, programming a
record, program failure, and the abandonment of the host lane (R91 to R107). -/

namespace Sys2Proof.Machine

/-! ## Lanes (R92, R93, R97) -/

/-- Record bytes a lane's record or run needs at the append point (R93, R98). -/
def State.laneNeeds (s : State) : Lane → Option Nat
  | .host => s.lw.hostLane.map (fun h => h.total)
  | .relocation => s.lw.relocLane.map (fun r => r.record.bytes)

/-- Bytes fit at the append point (R93). -/
def State.fits (s : State) (b : Nat) : Bool :=
  match s.lw.openAt with
  | some o => decide (o.offset + b ≤ Config.sectorBytes)
  | none => false

/-- The lane may open a sector: more than 2 ERASED for the host lane, at least 1 for the relocation
lane (R92). -/
def State.mayOpen (s : State) : Lane → Bool
  | .host => decide (2 < s.count .erased)
  | .relocation => decide (1 ≤ s.count .erased)

/-- The lane whose record or open word is in progress. -/
def AppendPoint.lane : AppendPoint → Option Lane
  | .opening l _ => l
  | .host => some .host
  | .relocation => some .relocation
  | .free => none

/-- The lane holds a record that has not been granted the append point and does not fit there, and it may not open a
sector (R97); what the other lane is doing does not matter. -/
def State.stalled (s : State) (l : Lane) : Bool :=
  match s.laneNeeds l with
  | some b => decide (s.lw.point.lane ≠ some l) && !s.fits b && !s.mayOpen l
  | none => false

/-- After a RESET in DISCARD mode only a host record already begun goes on (R59, R107, log 14). -/
def State.hostHeldBack (s : State) : Bool :=
  s.wq.frozen && s.wq.entries.head?.any (fun e => e.state == .waiting)

/-- The lane can be placed: its record fits, or it may open a sector (R96). -/
def State.canPlace (s : State) (l : Lane) : Bool :=
  match s.laneNeeds l with
  | some b => (s.fits b || s.mayOpen l) && !(l == .host && s.hostHeldBack)
  | none => false

/-- The lane the arbiter grants (R96). -/
def State.granted (s : State) : Option Lane :=
  match s.canPlace .host, s.canPlace .relocation with
  | false, false => none
  | true, false => some .host
  | false, true => some .relocation
  | true, true => if s.count .erased ≤ 2 then some .relocation else some .host

/-! ## Beginning a record (R99) -/

/-- A Write Queue entry's record (R7, R44, R70). -/
def QueueEntry.record (e : QueueEntry) : Record :=
  { kind := e.kind, key := e.key, value := e.value, seq := e.seq, group := e.group }

/-- Change the Write Queue entry at a place. -/
def State.modEntryAt (i : Nat) (f : QueueEntry → QueueEntry) : State → State :=
  State.modQueue (fun q => { q with entries := q.entries.modify i f })

/-- The append offset, 16 when no sector is open. -/
def State.appendOffset (s : State) : Nat :=
  match s.lw.openAt with
  | some o => o.offset
  | none => 16

/-- The host lane's record at place `i` of the queue begins (R25, R47, R98, R99). -/
def State.beginHost (i : Nat) (s : State) : State :=
  match s.wq.entries[i]? with
  | some e =>
    let s1 := (s.copyBegun e.key).modEntryAt i (fun q =>
      { q with state := if q.state = .waiting then .programming else q.state })
    s1.modWriter (fun l =>
      { l with point := .host, placement := if e.group.isSome then l.placement ++ [s.appendOffset] else l.placement,
               cur := some { image := e.record.words, done := 0, begun := 0, member := i } })
  | none => s

/-- The relocation lane's record begins (R25, R99). -/
def State.beginRelocation (s : State) : State :=
  match s.lw.relocLane with
  | some r =>
    (s.copyBegun r.record.key).modWriter (fun l =>
      { l with point := .relocation, cur := some { image := r.record.words, done := 0, begun := 0, member := 0 } })
  | none => s

/-- A lane's record begins. -/
def State.beginLane (l : Lane) (s : State) : State :=
  match l with
  | .host => s.beginHost 0
  | .relocation => s.beginRelocation

/-! ## Opening a sector (R92) -/

/-- The ERASED sector with the lowest erase count, and among equal counts the lowest number (R92). -/
def lowestErased (table : List SectorEntry) : Option Nat :=
  match sectorsWhere (fun e => e.state == .erased) table with
  | [] => none
  | n :: rest => some (rest.foldl (fun a b =>
      if (table.getD b SectorEntry.initial).eraseCount < (table.getD a SectorEntry.initial).eraseCount then b else a) n)

/-- A sector is opened for a lane: OPEN, a new generation, append offset 16, its open word's program
given to the Array Controller (R4, R92). -/
def State.openFor (l : Lane) (s : State) : State :=
  match lowestErased s.sm.table with
  | some n =>
    let gen := s.lw.genCounter.getD 1
    let s1 := s.modSector n (fun e => { e with state := .opened, openGen := some gen, appendOffset := some 16 })
    let s2 := s1.modWriter (fun w => { w with openAt := some { sector := n, offset := 16 },
                                              point := .opening (some l) false, genCounter := some (gen + 1) })
    let w : WordReq := { sector := n, index := 1, data := openWord gen, role := .openWord, discard := false }
    s2.modArray (fun a => { a with word := some w })
  | none => s

/-- The open sector, if any, is closed because the granted record does not fit (R93). -/
def State.closeForGrant (s : State) : State :=
  match s.lw.openAt with
  | some o => (s.closeSector o.sector false 0).modWriter (fun w => { w with openAt := none })
  | none => s

/-- The stall of a granted lane clears (R97). -/
def State.clearStall (l : Lane) (s : State) : State :=
  match l with
  | .host => s.modManager (fun m => { m with hostStall := false })
  | .relocation => s.modManager (fun m => { m with relocStall := false })

/-- A lane is granted the append point (R93, R96). -/
def State.grant (l : Lane) (s : State) : State :=
  let s1 := s.clearStall l
  match s1.laneNeeds l with
  | some b => if s1.fits b then s1.beginLane l else s1.closeForGrant.openFor l
  | none => s1

/-- Stalled lanes are found and reported (R97). A host stall stays until it is granted or emptied (log 23). -/
def State.findStalls (s : State) : State :=
  s.modManager (fun m => { m with hostStall := m.hostStall || s.stalled .host,
                                  relocStall := m.relocStall || s.stalled .relocation })

/-- Stalls are found in every event, also while the append point is taken and in HOLD; the append arbiter then
grants, while the append point is FREE and not in HOLD (R93, R96, R97, R154). -/
def State.arbitrate (s : State) : State :=
  let s1 := s.findStalls
  if s1.lw.point = .free ∧ s1.sup.condition = .normal then
    match s1.granted with
    | some l => s1.grant l
    | none => s1
  else s1

/-! ## Going on with a record (R98, R99, R105, R156) -/

/-- The place in the queue of the run's next member: as many as have been begun in this sector. -/
def State.nextMember (s : State) : Option QueueEntry := s.wq.entries[s.lw.placement.length]?

/-- A lane whose open word has completed begins its record, and a run begins its next member; both
wait for NORMAL (R92, R98, R154, R156), and a RESET in DISCARD mode begins no new host record (R59,
R107): a run held back between two members keeps the append point HOST (log 14). -/
def State.beginNext (s : State) : State :=
  match s.lw.point with
  | .opening (some .host) true =>
    if s.hostHeldBack then s.modWriter (fun w => { w with point := .free }) else s.beginLane .host
  | .opening (some .relocation) true => s.beginLane .relocation
  | .host =>
    match s.lw.cur, s.nextMember with
    | none, some e =>
      if s.lw.placement = [] ∨ (s.wq.frozen ∧ e.state = .waiting) then s else s.beginHost s.lw.placement.length
    | _, _ => s
  | .free | .opening _ _ | .relocation => s

/-- No word program is waiting or under way. -/
def ArrayCtl.noWord (a : ArrayCtl) : Bool :=
  a.word.isNone && (match a.op with
    | some (.word _) => false
    | some (.read _) => true
    | none => true)

/-- What word `i` of a record's image is to its record (R99). -/
def CurRecord.role (c : CurRecord) (i : Nat) : WordRole :=
  if i = 0 then .firstWord else if c.image.length ≤ i + 1 then .lastWord else .innerWord

/-- The next word of the record in progress is given to the Array Controller (R99). -/
def State.giveWord (s : State) : State :=
  match s.lw.cur, s.lw.openAt with
  | some c, some o =>
    match c.image[c.done]? with
    | some d =>
      if s.arr.noWord then
        let w : WordReq :=
          { sector := o.sector, index := o.offset / 8 + c.done, data := d, role := c.role c.done, discard := false }
        s.modArray (fun a => { a with word := some w })
      else s
    | none => s
  | _, _ => s

/-- The Log Writer goes on, except in HOLD (R99, R105, R156). -/
def State.advanceWriter (s : State) : State :=
  if s.sup.condition = .hold then s else s.beginNext.giveWord

/-! ## Emptying the lanes -/

/-- The host lane is emptied: its count returns to 0 and its stall clears (R94, R97, R103, R106). -/
def State.emptyHost (s : State) : State :=
  (s.modWriter (fun w => { w with hostLane := none, hostFailures := 0, placement := [] })).clearStall .host

/-- OPENING for the host lane when that lane is emptied: FREE once the open word has completed, and
until then OPENING for no lane (R91, R92, log 15). -/
def State.freeOpening (s : State) : State :=
  match s.lw.point with
  | .opening (some .host) done => s.modWriter (fun w => { w with point := if done then .free else .opening none false })
  | .free | .opening _ _ | .host | .relocation => s

/-- A media fault on the host lane's record: the lane is emptied, every entry fails, the latch is set,
and the device state block is told (R56, R103, R126). -/
def State.hostMediaFault (s : State) : State :=
  (State.modQueue (fun q => { q with mediaFault := true }) (s.emptyHost.failQueue .mediaFault)).hostFaultState

/-- Some word of the host lane's record or run lies in the open sector (R106). -/
def State.hostHasWords (s : State) : Bool :=
  match s.lw.point, s.lw.cur with
  | .host, some c => decide (0 < c.begun ∨ 0 < c.member)
  | .host, none => !s.lw.placement.isEmpty
  | .free, _ | .opening _ _, _ | .relocation, _ => false

/-- Bytes of the record in progress from its start to the end of the last word begun (R114). -/
def State.begunBytes (s : State) : Nat :=
  match s.lw.cur with
  | some c => 8 * c.begun
  | none => 0

/-- A word of the abandoned record is withdrawn if it waits, and its outcome discarded if it is under
way; the append point is FREE at once or when that word ends (R91, R146, log 15). -/
def State.dropWord (s : State) : State :=
  match s.arr.op with
  | some (.word w) => s.modArray (fun a => { a with word := none, op := some (.word { w with discard := true }) })
  | some (.read _) | none => (s.modArray (fun a => { a with word := none })).modWriter (fun l => { l with point := .free })

/-- The host lane's record or run is abandoned on hold expiry; the open sector is closed with its fault
flag clear if it holds words of it (R106, R114). -/
def State.abandonHost (s : State) : State :=
  let closed := match s.lw.openAt with
    | some o =>
      if s.hostHasWords then
        (s.closeSector o.sector false s.begunBytes).modWriter (fun w => { w with openAt := none })
      else s
    | none => s
  let s1 := match s.lw.point with
    | .host => (closed.dropWord).modWriter (fun w => { w with cur := none })
    | .opening _ _ => s.freeOpening
    | .free | .relocation => s
  s1.emptyHost

/-! ## A record completes (R48, R49, R99) -/

/-- The append offset moves past a completed record, and its bytes enter its sector as dead (R99,
R114). -/
def State.recordPlaced (sector offset b : Nat) (s : State) : State :=
  let s1 := s.modWriter (fun w => { w with openAt := some { sector := sector, offset := offset + b }, cur := none })
  (s1.modSector sector (fun e => { e with appendOffset := some (offset + b) })).addDead sector b

/-- A lone entry's record completes (R48). -/
def State.loneComplete (e : QueueEntry) (sector offset : Nat) (s : State) : State :=
  let s1 := (s.recordPlaced sector offset e.recLen).modWriter (fun w =>
    { w with point := .free, hostLane := none, hostFailures := 0 })
  (((s1.frontDurable sector offset).durableReply e e.seq 1).completeFences).stopHoldTimer

/-- A run's end member completes: the run leaves the queue durable (R49, R98). -/
def State.runComplete (e : QueueEntry) (sector offset : Nat) (s : State) : State :=
  let places := s.lw.placement
  let first := match s.wq.entries.head? with
    | some q => q.seq
    | none => e.seq
  let s1 := (s.recordPlaced sector offset e.recLen).modWriter (fun w =>
    { w with point := .free, hostLane := none, hostFailures := 0, placement := [] })
  (((s1.runDurable sector places).durableReply e first places.length).completeFences).stopHoldTimer

/-- A run's member that is not its end completes: PROGRAMMED, and the run keeps the append point (R49,
R98). -/
def State.memberComplete (i : Nat) (e : QueueEntry) (sector offset : Nat) (s : State) : State :=
  (s.recordPlaced sector offset e.recLen).modEntryAt i (fun q => { q with state := .programmed })

/-- The relocation lane's record completes (R31, R32, R95, R99). -/
def State.relocationComplete (r : RelocRecord) (sector offset : Nat) (s : State) : State :=
  let s1 := (s.recordPlaced sector offset r.record.bytes).modWriter (fun w =>
    { w with point := .free, relocLane := none, relocFailures := 0 })
  (s1.copyComplete r sector offset).copyDone

/-- The trailer of the record in progress has completed (R99). -/
def State.recordComplete (s : State) : State :=
  match s.lw.cur, s.lw.openAt with
  | some c, some o =>
    match s.lw.point with
    | .host =>
      match s.wq.entries[c.member]? with
      | some e =>
        match e.group with
        | none => s.loneComplete e o.sector o.offset
        | some (_, true) => s.runComplete e o.sector o.offset
        | some (_, false) => s.memberComplete c.member e o.sector o.offset
      | none => s
    | .relocation =>
      match s.lw.relocLane with
      | some r => s.relocationComplete r o.sector o.offset
      | none => s
    | .free | .opening _ _ => s
  | _, _ => s

/-! ## Program failure (R101 to R104) -/

/-- A lane's failure count rises; at 3 the host lane's media fault or the relocation drop applies
(R101, R103, R104). -/
def State.laneFailed (l : Lane) (s : State) : State :=
  match l with
  | .host =>
    if 3 ≤ s.lw.hostFailures + 1 then s.hostMediaFault
    else s.modWriter (fun w => { w with hostFailures := w.hostFailures + 1 })
  | .relocation =>
    if 3 ≤ s.lw.relocFailures + 1 then s.dropRelocation
    else s.modWriter (fun w => { w with relocFailures := w.relocFailures + 1 })

/-- The sector concerned is closed with its fault flag set and the append point becomes FREE; the
record stays in its lane, a run to be programmed again from its first member (R101, R102, R114). -/
def State.closeFailed (s : State) : State :=
  let s1 := match s.lw.openAt with
    | some o => s.closeSector o.sector true s.begunBytes
    | none => s
  s1.modWriter (fun w => { w with openAt := none, point := .free, cur := none,
                                  placement := if w.point = .host then [] else w.placement })

/-- A word program of a lane's record, or its open word's, has failed (R101). -/
def State.programFailed (s : State) : State :=
  match s.lw.point.lane with
  | some l => s.closeFailed.laneFailed l
  | none => s.closeFailed

/-! ## The end of a class 3 word program (R99 to R101) -/

/-- The Log Writer takes the end of a word program. -/
def State.wordEnded (w : WordReq) (success : Bool) (s : State) : State :=
  if w.discard then s.modWriter (fun l => { l with point := .free })
  else if success then
    match w.role with
    | .openWord =>
      match s.lw.point with
      | .opening (some l) _ => s.modWriter (fun x => { x with point := .opening (some l) true })
      | .opening none _ => s.modWriter (fun x => { x with point := .free })
      | .free | .host | .relocation => s
    | .firstWord | .innerWord | .lastWord =>
      match s.lw.cur with
      | some c =>
        let s1 := s.modWriter (fun x => { x with cur := some { c with done := c.done + 1 } })
        if c.image.length ≤ c.done + 1 then s1.recordComplete else s1
      | none => s
    | .eraseWord => s
  else s.programFailed

/-- Everything the Log Writer held is given up when a FORMAT takes effect (R91, R146). -/
def State.formatWriter (s : State) : State :=
  (s.dropWord).modWriter (fun w => { w with openAt := none, hostLane := none, relocLane := none, hostFailures := 0,
                                            relocFailures := 0, placement := [], cur := none, genCounter := some 1 })

end Sys2Proof.Machine
end

