-- ==== Sys2Proof/Machine/Erase.lean ====
section
/-! DEFINITION. The Erase Batch, the outcomes of an erase, the wear check, and FORMAT (R127 to R131,
R145 to R147). -/

namespace Sys2Proof.Machine

/-! ## The Erase Batch (R127, R128) -/

/-- Change the Erase Batch. -/
def State.modBatch (f : EraseBatch → EraseBatch) : State → State :=
  State.modManager (fun m => { m with batch := f m.batch })

/-- At most `n` sectors leave the head of the stale order for a GATHERING batch with room; each join
starts the window again (R127). -/
def State.joinUpTo : Nat → State → State
  | 0, s => s
  | n + 1, s =>
    match s.sm.staleOrder with
    | [] => s
    | m :: rest =>
      if s.sm.batch.running ∨ Config.maxBatch ≤ s.sm.batch.members.length then s
      else
        State.joinUpTo n (State.modManager (fun x =>
          { x with staleOrder := rest, batch := { x.batch with members := x.batch.members ++ [m], window := true } })
          (s.modSector m (fun e => { e with state := .erasing })))

/-- The batch gathers, except before mount, in UNFORMATTED and in FORMATTING (R127, R142, R146). -/
def State.joinBatch (s : State) : State := if s.storeActive then s.joinUpTo Config.maxBatch else s

/-- The batch closes: RUNNING, its window stopped (R128). -/
def State.runBatch : State → State := State.modBatch (fun b => { b with running := true, window := false })

/-- A GATHERING batch closes at 4 members or when no sector is ERASED (R128). -/
def State.closeBatch (s : State) : State :=
  if s.storeActive ∧ ¬ s.sm.batch.running ∧ s.sm.batch.members ≠ []
      ∧ (Config.maxBatch ≤ s.sm.batch.members.length ∨ s.count .erased = 0) then s.runBatch
  else s

/-- The erase count an erase writes: one more, saturating (R3, R110). -/
def nextEraseCount (n : Nat) : Nat := min Config.maxEraseCount (n + 1)

/-- An erase is requested in class 4 with the current epoch and the count to be written (R110, R128, R147). The
epoch stays as named (R110, R148, log 21); the begin of the erase renews the count (`State.startErase`). -/
def State.askErase (sector : Nat) (forFormat : Bool) (s : State) : State :=
  let r : EraseReq := { sector := sector, epoch := s.sm.epoch,
                        count := nextEraseCount (s.sector sector).eraseCount, forFormat := forFormat }
  s.modArray (fun a => { a with eraseReq := some r })

/-- The batch's current member, whose erase may be requested (R128). -/
def State.batchCurrent (s : State) : Option Nat :=
  if s.sm.batch.running ∧ s.storeActive ∧ s.arr.erase = none then
    match s.sm.batch.members with
    | m :: _ => if (s.sector m).readers = 0 then some m else none
    | [] => none
  else none

/-- The next erase of the FORMAT in progress, once its previous erase has ended (R147). -/
def State.formatCurrent (s : State) : Option Nat :=
  match s.sm.format with
  | some f => if s.arr.erase.any (fun r => r.req.forFormat) then none else f.list.head?
  | none => none

/-- The erase that is due is requested, if class 4 is empty (R128, R147). -/
def State.requestErase (s : State) : State :=
  if s.arr.eraseReq.isSome then s
  else match s.formatCurrent, s.batchCurrent with
    | some n, _ => s.askErase n true
    | none, some n => s.askErase n false
    | none, none => s

/-! ## Outcomes of an erase (R110, R129, R130, R147) -/

/-- How an erase ends; `failed` is TIMEOUT, BLANK_FAIL or HEADER_FAIL. -/
inductive EraseEnd
  | done | failed | abandoned
  deriving DecidableEq, Repr

/-- The wear check is due at the end of the event (R131). -/
def State.dueWear : State → State := State.modManager (fun m => { m with wearDue := true })

/-- The Sector Table entry of a sector whose erase ended DONE with this count (R129). -/
def SectorEntry.afterErase (e : SectorEntry) (count : Nat) : SectorEntry :=
  { e with state := .erased, eraseCount := count, openGen := none, live := 0, dead := 0, appendOffset := none,
           corrected := 0, fault := false, dirty := false }

/-- An erase ended DONE (R129, R147). -/
def State.eraseDone (r : EraseReq) (s : State) : State :=
  (s.modSector r.sector (fun e => e.afterErase r.count)).dueWear

/-- An erase failed: the sector is RETIRED (R130, R147). -/
def State.retireSector (r : EraseReq) (s : State) : State :=
  (((s.modSector r.sector (fun e => { e with state := .retired, live := 0, dead := 0 })).mark .sectorRetired).evalLimit).dueWear

/-- An erase was abandoned: a batch's sector becomes STALE and joins the stale order unless the device
is FORMATTING; a FORMAT's sector stays in its list. Either is dirty (R112, R130, R147). -/
def State.eraseAbandoned (r : EraseReq) (s : State) : State :=
  if r.forFormat then s.modSector r.sector (fun e => { e with dirty := true })
  else
    let s1 := s.modSector r.sector (fun e => { e with state := .stale, live := 0, dead := 0, dirty := true })
    if s.storeActive then s1.modManager (fun m => { m with staleOrder := m.staleOrder ++ [r.sector] }) else s1

/-- The sector leaves the batch, and a batch that is empty again finishes (R128 to R130). -/
def State.leaveBatch (sector : Nat) : State → State :=
  State.modBatch (fun b =>
    let left := b.members.filter (fun n => n != sector)
    { b with members := left, running := b.running && !left.isEmpty })

/-- The FORMAT completes (R147). The low-space latch is evaluated then, where R116 gives it as clear (log
29). -/
def State.formatComplete (tag : Byte) (s : State) : State :=
  let s1 := (s.modManager (fun m => { m with format := none })).evalLimit
  let s2 := (s1.setDevice (if Config.formatUsable ≤ s1.usable then .online else .readOnly)).judgeLatch
  s2.answer tag .ok (le 1 (s2.count .erased) ++ le 1 (s2.count .retired))

/-- A FORMAT's erase ended DONE or with a retirement: its sector leaves the list, and with the last
the FORMAT completes (R147). -/
def State.formatNext (s : State) : State :=
  match s.sm.format with
  | some f =>
    match f.list.drop 1 with
    | [] => s.formatComplete f.tag
    | rest => s.modManager (fun m => { m with format := some { f with list := rest } })
  | none => s

/-- An erase ends with an outcome (R128 to R130, R147). -/
def State.eraseEnds (r : EraseReq) (how : EraseEnd) (s : State) : State :=
  let s0 := s.modArray (fun a => { a with erase := none })
  let s1 := match how with
    | .done => s0.eraseDone r
    | .failed => s0.retireSector r
    | .abandoned => s0.eraseAbandoned r
  if r.forFormat then (if how = .abandoned then s1 else s1.formatNext) else s1.leaveBatch r.sector

/-! ## The wear check (R131) -/

/-- The FULL sector with the lowest erase count, and among equals the lowest number. -/
def leastWornFull (table : List SectorEntry) : Option Nat :=
  match sectorsWhere SectorEntry.isFull table with
  | [] => none
  | n :: rest => some (rest.foldl (fun a b =>
      if (table.getD b SectorEntry.initial).eraseCount < (table.getD a SectorEntry.initial).eraseCount then b else a) n)

/-- The wear check, when an erase of this event calls for it: a spread above 2000 with the engine IDLE
starts a wear move (R131). -/
def State.wearCheck (s : State) : State :=
  if s.sm.wearDue then
    let s1 := s.modManager (fun m => { m with wearDue := false })
    match leastWornFull s1.sm.table with
    | some n =>
      if s1.sm.engine = .idle
          ∧ Config.wearSpread < highestCount SectorEntry.usable s1.sm.table - (s1.sector n).eraseCount then
        (s1.startWalk n).mark .wear
      else s1
    | none => s1
  else s

/-! ## FORMAT takes effect (R146) -/

/-- A sector's entry when a FORMAT takes effect; `running` says that its erase is under way. -/
def SectorEntry.atFormat (running : Bool) (e : SectorEntry) : SectorEntry :=
  let stale : SectorEntry := { e with state := .stale, openGen := none, appendOffset := none, live := 0, dead := 0 }
  match e.state with
  | .opened | .full | .reclaiming | .stale => stale
  | .erasing => if running then e else stale
  | .erased | .retired => e

/-- A read of the reclaim walk that a FORMAT discards (R146). -/
def ReadReq.discarded (r : ReadReq) : ReadReq := if r.who = .reclaim then { r with discard := true } else r

/-- The Array Controller's part: the erase request and the waiting reclaim read are withdrawn, and a
reclaim read under way is to be discarded (R146). An erase under way runs on with the epoch it names (R110, R146),
so that up to the first DONE of the FORMAT the array's newest epoch stays the old one (R148, log 21). -/
def ArrayCtl.atFormat (a : ArrayCtl) : ArrayCtl :=
  { a with eraseReq := none, walks := a.walks.filter (fun r => r.who != .reclaim),
           op := a.op.map (fun o => match o with
             | .read r => .read r.discarded
             | .word w => .word w) }

/-- A FORMAT takes effect: everything but its own wait (R22, R60, R61, R146). -/
def State.formatEffect (tag : Byte) (s : State) : State :=
  let running := fun n : Nat => s.arr.erase.any (fun r => r.req.sector == n)
  let s1 := (s.setDevice .formatting).setEntries []
  let s2 : State := { s1 with
    dir := { s1.dir with entries := [], reserved := [], admitted := 0 }
    wq := { s1.wq with failureNote := false, fenceBoundary := 0, mediaFault := false, seqCounter := some 1 }
    grp := { s1.grp with counter := 1 } }
  let s3 := (s2.formatWriter).modArray ArrayCtl.atFormat
  s3.modManager (fun m =>
    { m with
      epoch := m.epoch + 1
      table := m.table.mapIdx (fun n e => e.atFormat (running n))
      engine := .idle
      walk := none
      lowSpace := false
      latchFor := s.latchNumbers
      hostStall := false
      relocStall := false
      tidy := none
      batch := { running := false, members := [], window := false }
      staleOrder := []
      format := some { tag := tag, list := List.range Config.sectors } })

end Sys2Proof.Machine
end

