-- ==== Sys2Proof/Machine/MountOps.lean ====
section
/-! DEFINITION. The Mount Engine: the header pass, the walks, the open-sector candidate and the
completion of mount (R5, R10 to R17, R35, R139 to R142). -/

namespace Sys2Proof.Machine

/-! ## Epochs and headers (R5, R17, R139) -/

/-- Epoch `f` is newer than epoch `e` (R17). -/
def newerEpoch (f e : BitVec 16) : Bool := decide (1 ≤ (f - e).toNat ∧ (f - e).toNat ≤ 32767)

/-- The numerically highest epoch, 0 for none. -/
def highestEpoch (es : List (BitVec 16)) : BitVec 16 := es.foldl (fun a b => if a.toNat < b.toNat then b else a) 0

/-- The current epoch among those present: the one no other is newer than, or else the numerically
highest; 0 when none is present (R17). -/
def currentEpoch (es : List (BitVec 16)) : BitVec 16 :=
  match es.filter (fun e => !es.any (fun f => newerEpoch f e)) with
  | [] => highestEpoch es
  | e :: rest => if rest.all (fun f => f == e) then e else highestEpoch es

/-- The epochs and erase counts of the valid erase words read (R139). -/
def eraseWords (heads : List (RawWord × RawWord)) : List (BitVec 16 × Nat) := heads.filterMap (fun h => h.1.erase?)

/-- The mean erase count of the valid erase words, rounded up; 0 without any (R139). -/
def estimate (counts : List Nat) : Nat :=
  match counts with
  | [] => 0
  | _ => (counts.sum + counts.length - 1) / counts.length

/-- A header whose sector is walked: opened, with the current epoch; its generation (R5, R139). -/
def walkedGen (epoch : BitVec 16) (h : RawWord × RawWord) : Option Nat :=
  match h.1.erase? with
  | some (e, _) => if e = epoch ∧ ¬ h.2.isBlank then h.2.open? else none
  | none => none

/-- A header whose data area is blank-checked: a valid erase word of the current epoch and a blank open
word (R5, R139). -/
def toBlankCheck (epoch : BitVec 16) (h : RawWord × RawWord) : Bool :=
  match h.1.erase? with
  | some (e, _) => e == epoch && h.2.isBlank
  | none => false

/-- The initial entry of a sector (R139). A sector to be walked is entered FULL (R141), one to be
blank-checked ERASED. An erase word that is not valid leaves a blank or no-header sector (log 16). -/
def SectorEntry.mounted (epoch : BitVec 16) (est : Nat) (h : RawWord × RawWord) (e : SectorEntry) : SectorEntry :=
  match h.1.erase? with
  | none => { e with state := .stale, eraseCount := est, dirty := true }
  | some (_, count) =>
    if toBlankCheck epoch h then { e with state := .erased, eraseCount := count }
    else match walkedGen epoch h with
      | some g => { e with state := .full, eraseCount := count, openGen := some g }
      | none => { e with state := .stale, eraseCount := count }

/-- A sector placed by generation, and among equal generations by number (R140). -/
def insertWalk (g n : Nat) : List (Nat × Nat) → List (Nat × Nat)
  | [] => [(g, n)]
  | (h, m) :: rest => if g < h then (g, n) :: (h, m) :: rest else (h, m) :: insertWalk g n rest

/-- The sectors to walk with their generations, in walk order (R140). -/
def walkOrder (epoch : BitVec 16) (heads : List (RawWord × RawWord)) : List (Nat × Nat) :=
  (heads.mapIdx (fun n h => (n, h))).foldl (fun acc p =>
    match walkedGen epoch p.2 with
    | some g => insertWalk g p.1 acc
    | none => acc) []

/-! ## The rebuild of the Directory (R12, R13, R35) -/

/-- A record is presented to the Directory (R35). -/
def Mount.present (accepted : Bool) (r : MountRec) (m : Mount) : Mount :=
  let take := fun e : Entry =>
    let e' := { e with flashCopies := e.flashCopies + 1 }
    if accepted && (e.durable.all (fun d => decide (d.seq ≤ r.seq))) then
      Entry.viewFromDurable { e' with durable := some (DurablePart.mk r.sector r.offset r.seq r.kind r.recLen r.valLen) }
    else e'
  match findEntry r.key m.entries with
  | some e => { m with entries := Machine.putEntry (take e) m.entries }
  | none =>
    if Config.maxEntries ≤ m.entries.length then { m with overflow := true }
    else { m with entries := Machine.putEntry (take
      { key := r.key, state := .tombstone, newestSeq := 0, newestLen := 0, queued := 0, durable := none,
        flashCopies := 0 }) m.entries }

/-- Records presented in order. -/
def Mount.presentAll (accepted : Bool) : List MountRec → Mount → Mount
  | [], m => m
  | r :: rest, m => Mount.presentAll accepted rest (m.present accepted r)

/-- The provisional run is found torn: its members are presented as not accepted (R13, R35). -/
def Mount.tearRun (m : Mount) : Mount := { m.presentAll false m.run with run := [] }

/-- A record is yielded by the walk: its sequence is seen, and it is presented once R12 has decided it
(R12, R15, R35). -/
def Mount.yield (r : MountRec) (m : Mount) : Mount :=
  let m0 := { m with maxSeq := max m.maxSeq r.seq }
  match r.group with
  | none => m0.tearRun.present true r
  | some (g, last) =>
    let m1 := if m0.run.any (fun x => x.group.any (fun y => y.1 != g)) then m0.tearRun else m0
    if last then { m1.presentAll true (m1.run ++ [r]) with run := [] }
    else { m1 with run := m1.run ++ [r] }

/-- A walk ends: an unfinished run is torn, and its end is kept (R10, R11, R13). -/
def Mount.endWalk (sector offset : Nat) (how : WalkEnd) (blank : Bool) (m : Mount) : Mount :=
  let torn := !m.run.isEmpty
  let e : MountEnd := { sector := sector, offset := offset, how := how, blank := blank, torn := torn }
  { m.tearRun with ends := m.ends ++ [e], toWalk := m.toWalk.drop 1 }

/-! ## What is read next (R139 to R141) -/

/-- Mount asks for a read in class 2, and waits for it in a phase. -/
def State.mountAsks (phase : MountPhase) (m : Mount) (sector offset words : Nat) (s : State) : State :=
  { s.modArray (fun a => { a with walks := a.walks ++
      [{ who := .mount, sector := sector, offset := offset, words := words, discard := false }] }) with
    mount := some { m with phase := phase } }

/-- A walk at an offset: the word there is read by itself, and the rest of a record after it, so that no
word behind the end of data is read twice or corrected (R10, R144, log 22). -/
def State.mountWalkAt (m : Mount) (sector offset : Nat) (s : State) : State :=
  s.mountAsks (.walkFirst sector offset) m sector offset 1

/-- The Sector Table entry of a walked sector, once every walk is presented: FULL, or OPEN for the
candidate kept, with its live and dead bytes (R140, R141). -/
def SectorEntry.walked (live : Nat) (w : MountEnd) (openAt : Option OpenSector) (e : SectorEntry) : SectorEntry :=
  let dead := match w.how with
    | .allOnes | .areaEnd => w.offset - 16 - live
    | .damaged => Config.dataArea - live
  if openAt.any (fun o => o.sector == w.sector) then
    { e with state := .opened, live := live, dead := dead, appendOffset := openAt.map (fun o => o.offset) }
  else { e with state := .full, live := live, dead := dead }

/-- The record lengths of the durable parts in a sector (R140). -/
def liveIn (sector : Nat) (es : List Entry) : Nat :=
  (es.map (fun e => match e.durable with
    | some d => if d.sector = sector then d.recLen else 0
    | none => 0)).sum

/-- The record lengths of all durable parts (R36, R140). -/
def durableShare (es : List Entry) : Nat := (es.map (fun e => durableLen e.durable)).sum

/-- The device state that a completed mount gives (R142). -/
def Mount.outcome (m : Mount) (admitted limit : Nat) : DeviceState :=
  if (eraseWords m.heads).isEmpty then .unformatted
  else if m.overflow then .readOnly
  else if limit < admitted then .readOnly
  else .online

/-- Mount completes: the Directory, the Sector Table and the counters are installed and the device
state is set (R140 to R142). -/
def State.mountComplete (openAt : Option OpenSector) (m : Mount) (s : State) : State :=
  let table := m.ends.foldl (fun t w => t.modify w.sector (SectorEntry.walked (liveIn w.sector m.entries) w openAt)) m.table
  let admitted := durableShare m.entries
  let limit := admissionLimit (Config.sectors - table.countP (fun e => e.state == .retired))
  let s1 : State := { s with
    dir := { entries := m.entries, reserved := [], admitted := admitted, limit := limit }
    wq := { s.wq with seqCounter := some (m.maxSeq + 1) }
    lw := { s.lw with openAt := openAt, genCounter := some (m.maxGen + 1) }
    sm := { s.sm with table := table, epoch := m.epoch, staleOrder := sectorsWhere (fun e => e.state == .stale) table }
    mount := none }
  ((s1.crossMark false (aboveMark admitted limit)).setDevice (m.outcome admitted limit)).judgeLatch

/-- The open-sector candidate qualifies by the first and third tests of R141, and by the second as far as
the word its walk ended at goes. -/
def MountEnd.keepable (w : MountEnd) : Bool :=
  w.how == .allOnes && w.blank && !w.torn && decide (Config.maxRecord ≤ Config.sectorBytes - w.offset)

/-- Mount goes on: the next blank check, the next walk, the candidate's remainder, or completion
(R139 to R142). -/
def State.mountNext (m : Mount) (s : State) : State :=
  match m.toCheck, m.toWalk, m.ends.getLast? with
  | n :: _, _, _ => s.mountAsks .blankCheck m n 16 (Config.sectorWords - 2)
  | [], n :: _, _ => s.mountWalkAt m n 16
  | [], [], some w =>
    if w.keepable then
      s.mountAsks (.remainder w.sector w.offset) m w.sector (w.offset + 8) ((Config.sectorBytes - w.offset) / 8 - 1)
    else s.mountComplete none m
  | [], [], none => s.mountComplete none m

/-! ## A mount read completes (R139 to R141) -/

/-- Corrected words raise the count in the provisional table (R109, R139). -/
def Mount.count (sector : Nat) (words : List RawWord) (m : Mount) : Mount :=
  { m with table := m.table.modify sector (fun e =>
      { e with corrected := min Config.maxCorrected (e.corrected + correctedWords words) }) }

/-- The header pass has read every sector: the current epoch is decided, and each sector takes its
initial entry (R16, R17, R139). -/
def Mount.headersRead (m : Mount) : Mount :=
  let words := eraseWords m.heads
  let epoch := currentEpoch (words.map (fun w => w.1))
  let est := estimate (words.map (fun w => w.2))
  let order := walkOrder epoch m.heads
  { m with
    epoch := epoch
    table := List.zipWith (fun h e => SectorEntry.mounted epoch est h e) m.heads m.table
    toCheck := (List.range m.heads.length).filter (fun n => (m.heads[n]?).any (toBlankCheck epoch))
    toWalk := order.map (fun p => p.2)
    maxGen := (order.map (fun p => p.1)).foldl max 0 }

/-- Header words of the next sector have been read (R139). -/
def State.mountHeader (words : List RawWord) (m : Mount) (s : State) : State :=
  match words with
  | [a, b] =>
    let m1 := { m.count m.heads.length words with heads := m.heads ++ [(a, b)] }
    if m1.heads.length < Config.sectors then s.mountAsks .headers m1 m1.heads.length 0 2
    else s.mountNext m1.headersRead
  | _ => s

/-- A data area has been blank-checked: a word that is not blank makes the form inconsistent and the
sector STALE (R5, R139). -/
def State.mountChecked (words : List RawWord) (m : Mount) (s : State) : State :=
  match m.toCheck with
  | n :: rest =>
    let table := if words.all RawWord.isBlank then m.table else m.table.modify n (fun e => { e with state := .stale })
    s.mountNext { m with toCheck := rest, table := table }
  | [] => s

/-- A walk ends and mount goes on. -/
def State.mountWalkEnds (sector offset : Nat) (how : WalkEnd) (blank : Bool) (m : Mount) (s : State) : State :=
  s.mountNext (m.endWalk sector offset how blank)

/-- The word at a walk's offset has been read (R10). -/
def State.mountWalkFirst (words : List RawWord) (sector offset : Nat) (m : Mount) (s : State) : State :=
  match words with
  | [a] =>
    let m1 := m.count sector words
    if a.allOnes then s.mountWalkEnds sector offset .allOnes a.isBlank m1
    else match extentOf a offset with
      | some b => s.mountAsks (.walkRest sector offset a) m1 sector (offset + 8) (b / 8 - 1)
      | none => s.mountWalkEnds sector offset .damaged false m1
  | _ => s

/-- The place and the fields of a yielded record (R10). -/
def mountRec (r : Record) (sector offset : Nat) : MountRec :=
  { sector := sector, offset := offset, kind := r.kind, key := r.key, seq := r.seq, recLen := r.bytes,
    valLen := r.value.length, group := r.group }

/-- The rest of a record has been read (R9, R10). -/
def State.mountWalkRest (first : RawWord) (words : List RawWord) (sector offset : Nat) (m : Mount) (s : State) : State :=
  let m1 := m.count sector words
  match validRecord (first :: words) offset with
  | some r =>
    let m2 := m1.yield (mountRec r sector offset)
    let next := offset + r.bytes
    if Config.sectorBytes ≤ next then s.mountWalkEnds sector next .areaEnd false m2 else s.mountWalkAt m2 sector next
  | none => s.mountWalkEnds sector offset .damaged false m1

/-- The candidate's remainder has been read: it is kept OPEN when every word is blank (R141). -/
def State.mountRemainder (words : List RawWord) (sector offset : Nat) (m : Mount) (s : State) : State :=
  s.mountComplete (if words.all RawWord.isBlank then some { sector := sector, offset := offset } else none) m

/-- A mount read completes with these words (R139 to R142). -/
def State.mountRead (words : List RawWord) (s : State) : State :=
  match s.mount with
  | none => s
  | some m =>
    match m.phase with
    | .headers => s.mountHeader words m
    | .blankCheck => s.mountChecked words m
    | .walkFirst sector offset => s.mountWalkFirst words sector offset m
    | .walkRest sector offset first => s.mountWalkRest first words sector offset m
    | .remainder sector offset => s.mountRemainder words sector offset m

end Sys2Proof.Machine
end

