-- ==== Sys2Proof/Machine/Settle.lean ====
section
/-! DEFINITION. What ends an event: the considerations that one block's change calls for in another, the
Array Controller's choice, the drain report, the restart, and the Notice Set (R40, R58, R96, R108, R111,
R112, R118, R119, R126, R136, R151, R181; log 17). -/

namespace Sys2Proof.Machine

/-! ## The Array Controller's choice (R108, R111, R112) -/

/-- The array is free for a read or a word program: no operation under way, and no erase in its pulse
or programming its erase word. -/
def ArrayCtl.free (a : ArrayCtl) : Bool :=
  a.op.isNone && (match a.erase with
    | some r => match r.phase with
      | .pulse | .header => false
      | .suspended | .blankCheck | .checked => true
    | none => true)

/-- A record or an open word is in progress at the Log Writer (R111). -/
def LogWriter.inProgress (w : LogWriter) : Bool :=
  w.cur.isSome || (match w.point with
    | .opening _ done => !done
    | .free | .host | .relocation => false)

/-- A read starts. -/
def State.startRead (r : ReadReq) : State → State := State.modArray (fun a => { a with op := some (.read r) })

/-- A word program starts; a record word is then begun (R99, R108, R114). -/
def State.startWord (w : WordReq) (s : State) : State :=
  let s1 := s.modArray (fun a => { a with op := some (.word w), word := none })
  match w.role with
  | .firstWord | .innerWord | .lastWord =>
    s1.modWriter (fun l => { l with cur := l.cur.map (fun c => { c with begun := c.begun + 1 }) })
  | .openWord | .eraseWord => s1

/-- An erase starts: its pulse destroys the sector's content, and the places its walk reserved are released (R2,
R33, R110). The count to be written is one more than the Sector Table's when the erase begins (R3, log 21). -/
def State.startErase (r : EraseReq) (s : State) : State :=
  let run : EraseRun := { req := { r with count := nextEraseCount (s.sector r.sector).eraseCount }, phase := .pulse }
  ((s.modArray (fun a => { a with eraseReq := none, erase := some run })).wreckSector r.sector).releasePlaces r.sector

/-- The erase under way passes to a phase. -/
def State.erasePhase (p : ErasePhase) : State → State :=
  State.modArray (fun a => { a with erase := a.erase.map (fun r => { r with phase := p }) })

/-- With nothing waiting in classes 1 to 3: an erase past its blank check programs its erase word, a
suspended one resumes, and a waiting one starts (R108, R110, R111, R112). That what waits when the blank
check has passed goes before the erase word is the model's reading (log 27). -/
def State.scheduleErase (s : State) : State :=
  match s.arr.erase, s.arr.eraseReq with
  | some r, _ =>
    match r.phase with
    | .checked => s.erasePhase .header
    | .suspended => if s.lw.inProgress then s else s.erasePhase .pulse
    | .pulse | .blankCheck | .header => s
  | none, some q => if s.sup.condition = .hold then s else s.startErase q
  | none, none => s

/-- The Array Controller starts the oldest request of the lowest-numbered class; in HOLD it passes over
classes 3 and 4 (R108, R112). -/
def State.schedule (s : State) : State :=
  if s.arr.free then
    match s.arr.gets, s.arr.walks, s.arr.word with
    | r :: rest, _, _ => (s.modArray (fun a => { a with gets := rest })).startRead r
    | [], r :: rest, _ => (s.modArray (fun a => { a with walks := rest })).startRead r
    | [], [], some w => if s.sup.condition = .hold then s.scheduleErase else s.startWord w
    | [], [], none => s.scheduleErase
  else s

/-! ## Beyond relief (R126) -/

/-- No erase can raise the number of ERASED sectors: none is STALE or ERASING (R126). -/
def State.noErase (s : State) : Bool := s.count .stale == 0 && s.count .erasing == 0

/-- The relocation record cannot be placed (R126). -/
def State.unplaceable (s : State) : Bool :=
  s.storeActive && s.sm.relocStall && s.stalled .relocation && s.noErase

/-- The host stall is beyond relief (R126). -/
def State.beyondRelief (s : State) : Bool :=
  s.storeActive && s.sm.hostStall
    && (s.sm.engine == .abandoned || (s.sm.engine == .idle && s.victim?.isNone && s.noErase))

/-- An unplaceable relocation record is dropped, and a host stall beyond relief is a media fault
(R126). -/
def State.relieve (s : State) : State :=
  let s1 := if s.unplaceable then s.dropRelocation else s
  if s1.beyondRelief then s1.hostMediaFault else s1

/-! ## The considerations -/

/-- One round of what a change calls for: the Admission List, the offer, the arbiter, the Log Writer, the
latch, the batch, a victim, relief, and the next erase request (log 17). -/
def State.considerAll (s : State) : State :=
  (((s.considerAdmissions.offerHost.arbitrate.advanceWriter).evalLatch.joinBatch.closeBatch).chooseVictim.relieve).requestErase

/-- The RESET that waits for the drain is answered once the Write Queue and the Admission List are empty,
and the restart latch is set (R58, R150). -/
def State.drainReport (s : State) : State :=
  match s.req.slots.find? (fun sl => sl.wait == some .drain) with
  | some sl =>
    if s.wq.entries = [] ∧ s.wq.admission = [] then
      let s1 := s.finish sl.tag (le 1 Status.ok.code) true
      { s1 with dev := { s1.dev with restartLatch := true } }
    else s
  | none => s

/-! ## Restart (R136, R153) -/

/-- A word that was being programmed is left cut short; one found not blank is unchanged (R100, R107). -/
def State.cutTarget (sector index : Nat) (data : Word) (role : WordRole) (s : State) : State :=
  if (s.flash.word sector index).isBlank then s.cutWord sector index data role else s

/-- The array operation under way stops where it stands: a word is cut short, a read ends, and an erase
leaves its sector without a valid erase word (R107, R110, R136, R153). An erase past its pulse leaves the
sector's other words as the pulse left them (log 4). -/
def State.cutArray (s : State) : State :=
  let s1 := match s.arr.op with
    | some (.word w) => s.cutTarget w.sector w.index w.data w.role
    | some (.read _) | none => s
  let s2 := match s.arr.erase with
    | some r => if r.phase = ErasePhase.header then
        s1.cutTarget r.req.sector 0 (eraseWord r.req.epoch r.req.count) .eraseWord
      else s1
    | none => s1
  s2.modArray (fun a => { a with op := none, erase := none })

/-- The Supply Monitor's timers and pins after a restart: the hold timer is STOPPED, the rest is left to
the supply (R153, R157, log 18). -/
def Supply.restarted (p : Supply) : Supply := { p with holdTimer := false }

/-- A restart: every block takes its restart values, and mount begins; a restart that finds HOLD marks
SUPPLY (R136, R153). -/
def State.restart (s : State) : State :=
  let c := s.cutArray
  let r : State := { State.reset with flash := c.flash, seeds := c.seeds, sup := c.sup.restarted, pending := c.pending }
  if r.sup.condition = .hold then (r.mark .supply).consult else r

/-! ## The end of an event -/

/-- An event ends: in the restart it calls for, or with the array's next operation and the Notice Set. -/
def State.conclude (s : State) : State :=
  if s.dev.restartDue then s.restart else s.schedule.consult

/-- What an event that may have changed any block calls for in the others: two rounds of considerations,
the wear check, the TIDY, the drain report (log 17). -/
def State.considered (s : State) : State := s.considerAll.considerAll.wearCheck.finishTidy.drainReport

/-- The end of an event that may have changed any block (log 17). -/
def State.settle (s : State) : State := s.considered.conclude

/-- The same at the end of a request's arrival: a request that now waits is sent PENDING, after every reply
the event decides (R164, log 17). -/
def State.settleFor (tag : Byte) (s : State) : State := (s.considered.tellPending tag).conclude

/-- The end of a request's arrival that concerns no other block. -/
def State.consultFor (tag : Byte) (s : State) : State := (s.tellPending tag).consult

/-- A request has joined an empty Admission List: it is considered, and the other blocks act if a write
joined the Write Queue (R40). -/
def State.considerArrival (tag : Byte) (s : State) : State :=
  let s' := s.considerAdmissions
  if s'.wq.entries.length = s.wq.entries.length then s'.consultFor tag else s'.settleFor tag

/-! ## The controller is held (R136, R153) -/

/-- Power-on reset is asserted, or nRESET is held low: the controller is held (R136, R153). -/
def State.held (s : State) : Bool := s.sup.powerOnReset || s.sup.nresetLow

/-- An event at a held controller has no effect (log 10). -/
def State.unlessHeld (f : State → State) (s : State) : State := if s.held then s else f s

end Sys2Proof.Machine
end

