-- ==== Sys2Proof/Machine/Requests.lean ====
section
/-! DEFINITION. The Request Table's decision on a frame, and the meaning of every request (chapters 3 to
5, 7, 8 and 10). -/

namespace Sys2Proof.Machine

/-! ## The device state's gate (R138) -/

/-- Requests that read the store: UNFORMATTED in UNFORMATTED, NOT_READY while the store is not there. -/
def gateStore : DeviceState → Option Status
  | .mounting | .formatting => some .notReady
  | .unformatted => some .unformatted
  | .online | .readOnly | .draining => none

/-- Requests that would change the store. -/
def gateWrite : DeviceState → Option Status
  | .mounting | .formatting | .draining => some .notReady
  | .unformatted => some .unformatted
  | .readOnly => some .readOnly
  | .online => none

/-- SPACE, SECTORS and RESET. -/
def gateInfo : DeviceState → Option Status
  | .mounting | .formatting => some .notReady
  | .unformatted | .online | .readOnly | .draining => none

/-- FORMAT. -/
def gateFormat : DeviceState → Option Status
  | .mounting | .formatting | .draining => some .notReady
  | .unformatted | .online | .readOnly => none

/-- The table of R138. HELLO is always taken. -/
def gateTable (k : ReqKind) (d : DeviceState) : Option Status :=
  match k with
  | .hello => none
  | .get | .stat | .list | .fence | .abort => gateStore d
  | .put | .delete | .commit | .beginGroup | .tidy => gateWrite d
  | .space | .sectors | .reset => gateInfo d
  | .format => gateFormat d

/-- The status with which the restart latch or the device state refuses a request (R138, R151). -/
def State.gate (s : State) (k : ReqKind) : Option Status :=
  if s.dev.restartLatch then some .notReady else gateTable k s.dev.state

/-! ## Retries (R166) -/

/-- The retry answer of a frame with the RETRY flag, if it matches a slot or a cached reply (R166). -/
def State.retryMatch (f : Frame) (s : State) : Option Frame :=
  match s.slot f.tag with
  | some sl =>
    if sl.session = SlotSession.current ∧ sl.digest = f.digest then some (stillPendingFrame f.tag) else none
  | none =>
    match s.req.cache.find? (fun e => e.tag == f.tag) with
    | some e => if e.digest = f.digest then some e.frame else none
    | none => none

/-! ## A frame takes a slot (R161, R63) -/

/-- The kinds bound at arrival to the open group: COMMIT, and a PUT or DELETE with the group flag (R63). -/
def Request.binds : Request → Bool
  | .put w => w.group
  | .delete w => w.group
  | .commit => true
  | .get _ | .stat _ | .list _ _ | .fence | .beginGroup | .abort | .space | .sectors _ _ | .tidy _ | .format
  | .reset _ => false

/-- The slot a frame takes (R161, step 5). -/
def newSlot (kind : Option ReqKind) (f : Frame) : Slot :=
  { tag := f.tag, session := .current, kind := kind, digest := f.digest, request := none, bound := none,
    state := .running, wait := none, pendingSent := false, progress := .idle }

/-- A free slot takes the frame, and a cached reply of its tag leaves the cache (R161, step 5). -/
def State.takeSlot (kind : Option ReqKind) (f : Frame) (s : State) : State :=
  let s1 := s.uncache f.tag
  { s1 with req := { s1.req with slots := s1.req.slots ++ [newSlot kind f] } }

/-- The decoded request is recorded with the group it is bound to (R161, R63). -/
def State.recordRequest (tag : Byte) (r : Request) (s : State) : State :=
  s.modSlot tag (fun sl =>
    { sl with request := some r, bound := if r.binds then s.grp.group.map (fun g => g.id) else none })

/-- Steps 3 to 8 of R161: `act` is the request's own handling. -/
def State.acceptNew (kind : ReqKind) (act : Byte → Request → State → State) (f : Frame) (s : State) : State :=
  if (s.slot f.tag).isSome then (s.answerUnslotted f.tag .tagInUse).consult
  else if Config.maxSlots ≤ s.req.slots.length then (s.answerUnslotted f.tag .tableFull).consult
  else
    let s1 := s.takeSlot (some kind) f
    match decodeRequest kind f.payload with
    | none => (s1.answer f.tag .badRequest []).consult
    | some r =>
      let s2 := s1.recordRequest f.tag r
      match s.gate kind with
      | some st => (s2.answer f.tag st []).consult
      | none => act f.tag r s2

/-- A frame whose KIND is no request kind takes a slot and is answered BAD_REQUEST (R161, R186). -/
def State.acceptUnknown (f : Frame) (s : State) : State :=
  if (s.slot f.tag).isSome then (s.answerUnslotted f.tag .tagInUse).consult
  else if Config.maxSlots ≤ s.req.slots.length then (s.answerUnslotted f.tag .tableFull).consult
  else ((s.takeSlot none f).answer f.tag .badRequest []).consult

/-- Step 2 of R161, then the frame as new: a retry that matches is answered by a retry answer and
settles the frame (R166). -/
def State.retryOr (fresh : Frame → State → State) (f : Frame) (s : State) : State :=
  if f.retry then
    match s.retryMatch f with
    | some g => (s.sendRetry g).consult
    | none => fresh f s
  else fresh f s

/-- The decision of R161 on a frame of a kind that takes a slot. -/
def State.accept (kind : ReqKind) (act : Byte → Request → State → State) : Frame → State → State :=
  State.retryOr (State.acceptNew kind act)

/-! ## Reading: GET, STAT, LIST (R77 to R79, R85 to R89) -/

/-- The last Write Queue entry that carries a key (R78). -/
def State.lastQueued (s : State) (k : Key) : Option QueueEntry := (s.wq.entries.filter (fun q => q.key == k)).getLast?

/-- The read descriptor a GET takes from a durable part (R79). -/
def readDescriptor (k : Key) (d : DurablePart) : ReadDescriptor :=
  { key := k, sector := d.sector, offset := d.offset, recLen := d.recLen, seq := d.seq, valLen := d.valLen }

/-- A GET starts a flash read: the sector's readers count rises, the read joins class 1, and the GET
waits (R79). -/
def State.getRead (tag : Byte) (k : Key) (d : DurablePart) (s : State) : State :=
  let r : ReadReq := { who := .get tag, sector := d.sector, offset := d.offset, words := d.recLen / 8, discard := false }
  let s1 := s.modSector d.sector (fun e => { e with readers := e.readers + 1 })
  let s2 := s1.modArray (fun a => { a with gets := a.gets ++ [r] })
  let s3 := s2.modSlot tag (fun sl => { sl with progress := .reading (readDescriptor k d) })
  (s3.waitFor tag .flashRead).schedule.consult

/-- A GET of a key in state PRESENT (R78, R79). -/
def State.getPresent (tag : Byte) (k : Key) (e : Entry) (s : State) : State :=
  if 0 < e.queued then
    match s.lastQueued k with
    | some q => (s.answer tag .ok (getFields q.value e.newestSeq false)).consult
    | none => (s.answer tag .notFound []).consult
  else
    match e.durable with
    | some d => s.getRead tag k d
    | none => (s.answer tag .notFound []).consult

/-- GET [fetch a value] (R77). -/
def State.actGet (tag : Byte) (k : Key) (s : State) : State :=
  match s.entry k with
  | none => (s.answer tag .notFound []).consult
  | some e =>
    match e.state with
    | .tombstone => (s.answer tag .notFound []).consult
    | .lost => (s.answer tag .corrupt (le 6 e.newestSeq)).consult
    | .present => s.getPresent tag k e

/-- STAT [describe a key] (R85). -/
def State.actStat (tag : Byte) (k : Key) (s : State) : State :=
  match s.entry k with
  | none => (s.answer tag .notFound []).consult
  | some e => (s.answer tag .ok (statFields e)).consult

/-- The encoded size of an item (R89). -/
def ListItem.size (i : ListItem) : Nat := 10 + i.key.length

/-- The item of an entry (R87). -/
def Entry.item (e : Entry) : ListItem := { key := e.key, state := e.state, valLen := e.newestLen, seq := e.newestSeq }

/-- The entry is gathered by a listing: PRESENT or LOST (R87). -/
def Entry.listed (e : Entry) : Bool := e.state != .tombstone

/-- What a listing step gives: the listing goes on, or ends with its items and the more flag (R87, R88). -/
inductive ListingStep
  | goesOn (l : Listing)
  | ends (items : List ListItem) (more : Bool)
  deriving DecidableEq, Repr

/-- One step of a listing over the Directory's entries (R87 to R89). -/
def Listing.step (es : List Entry) (l : Listing) : ListingStep :=
  match entryAfter l.cursor es with
  | none => .ends l.items false
  | some e =>
    if e.listed then
      if l.bytes + e.item.size ≤ Config.maxItemBytes then
        let items := l.items ++ [e.item]
        if items.length = l.max then .ends items (es.any (fun x => x.listed && keyLt e.key x.key))
        else .goesOn { l with cursor := some e.key, items := items, bytes := l.bytes + e.item.size }
      else .ends l.items true
    else .goesOn { l with cursor := some e.key }

/-- A step of the listing of a LIST (R87, R88). -/
def State.listStep (tag : Byte) (l : Listing) (s : State) : State :=
  match l.step s.dir.entries with
  | .goesOn l' => s.modSlot tag (fun sl => { sl with progress := .listing l' })
  | .ends items more => (s.answer tag .ok (listFields items more)).consult

/-- LIST [enumerate keys]: the listing starts and takes its first step (R86). -/
def State.actList (tag : Byte) (after : Option Key) (max : Nat) (s : State) : State :=
  s.listStep tag { cursor := after, max := max, items := [], bytes := 0 }

/-! ## Writing: PUT, DELETE, FENCE, COMMIT (R39, R40) -/

/-- A write-class request joins the tail of the Admission List: considered at once when it is the head,
waiting otherwise (R39, R40). -/
def State.joinList (tag : Byte) (s : State) : State :=
  let s1 := s.modQueue (fun q => { q with admission := q.admission ++ [tag] })
  if s.wq.admission = [] then s1.considerArrival tag else (s1.waitFor tag .admission).consultFor tag

/-! ## Groups: BEGIN, ABORT (R62, R72) -/

/-- The group id after an id: 65535 is followed by 1 (R62). -/
def nextGroupId (n : Nat) : Nat := if n = 65535 then 1 else n + 1

/-- BEGIN [open a group] (R62). -/
def State.actBegin (tag : Byte) (s : State) : State :=
  match s.grp.group with
  | some _ => (s.answer tag .groupState []).consult
  | none =>
    let id := s.grp.counter
    let g : OpenGroup := { id := id, members := [], bytes := 0 }
    let s1 : State := { s with grp := { group := some g, counter := nextGroupId id } }
    (s1.answer tag .ok (le 2 id)).consult

/-- The open group was discarded: the Admission List is considered, and the other blocks act if the
Write Queue or the list changed (R40, R73). -/
def State.afterDiscard (s : State) : State :=
  let s' := s.considerAdmissions
  if s'.wq.entries.length = s.wq.entries.length ∧ s'.wq.admission = s.wq.admission then s'.consult else s'.settle

/-- ABORT [discard the open group] (R72, R73). -/
def State.actAbort (tag : Byte) (s : State) : State :=
  match s.grp.group with
  | some g => (s.discardGroup.answer tag .ok (le 1 g.members.length)).afterDiscard
  | none => (s.answer tag .groupState []).consult

/-! ## SPACE, SECTORS, TIDY (R132 to R134) -/

/-- SPACE [report space and sectors] (R132). -/
def State.actSpace (tag : Byte) (s : State) : State := (s.answer tag .ok (spaceFields s)).consult

/-- SECTORS [read Sector Table rows] (R133). -/
def State.actSectors (tag : Byte) (first count : Nat) (s : State) : State :=
  (s.answer tag .ok (sectorsFields s first count)).consult

/-- TIDY [reclaim sectors over a threshold] (R134). -/
def State.actTidy (tag : Byte) (threshold : Nat) (s : State) : State :=
  if s.sm.tidy.isSome then (s.answer tag .alreadyActive []).consult
  else
    let list := tidyList threshold s.sm.table
    if list = [] then (s.answer tag .ok (le 1 0)).consult
    else
      let t : Tidy := { tag := tag, list := list, drained := 0 }
      ((s.modManager (fun m => { m with tidy := some t })).waitFor tag .tidy).settleFor tag

/-! ## FORMAT (R145, R146) -/

/-- A FORMAT is refused: another slot is in use, the Write Queue is not empty, or a group is open (R145). -/
def State.notIdle (tag : Byte) (s : State) : Bool :=
  s.req.slots.any (fun sl => sl.tag != tag) || !s.wq.entries.isEmpty || s.grp.group.isSome

/-- FORMAT [erase the store] (R145, R146). -/
def State.actFormat (tag : Byte) (s : State) : State :=
  if s.notIdle tag then (s.answer tag .notIdle []).consult
  else ((s.formatEffect tag).waitFor tag .format).settleFor tag

/-! ## RESET (R149, R150) -/

/-- A RESET in DRAIN mode is still waiting (R149). -/
def State.draining (s : State) : Bool := s.req.slots.any (fun sl => sl.wait == some .drain)

/-- The restart latch is set (R151). -/
def State.setLatch (s : State) : State := { s with dev := { s.dev with restartLatch := true } }

/-- The RESET reply is queued and the restart latch set (R149, R150). -/
def State.resetReply (tag : Byte) (s : State) : State :=
  let s1 := (s.finish tag (le 1 Status.ok.code) true).setLatch
  if s1.dev.restartDue then s1.restart else s1.consult

/-- RESET in DISCARD mode (R59, R149). -/
def State.resetDiscard (tag : Byte) (s : State) : State :=
  (s.modQueue (fun q => { q with frozen := true })).resetReply tag

/-- RESET in DRAIN mode (R58, R150). -/
def State.resetDrain (tag : Byte) (s : State) : State :=
  let s1 := if s.dev.state = .online then s.setDevice .draining else s
  if s1.wq.entries = [] ∧ s1.wq.admission = [] then s1.resetReply tag
  else (s1.waitFor tag .drain).consultFor tag

/-- RESET [restart the part] (R149). -/
def State.actReset (tag : Byte) (mode : ResetMode) (s : State) : State :=
  if s.draining then (s.answer tag .alreadyActive []).consult
  else match mode with
    | .drain => s.resetDrain tag
    | .discard => s.resetDiscard tag

/-! ## HELLO (R169 to R172) -/

/-- Every slot in use is orphaned (R170, R172). -/
def State.orphanSlots (s : State) : State :=
  { s with req := { s.req with slots := s.req.slots.map (fun sl => { sl with session := .ended }) } }

/-- The rate in force once every rate change pending in the Transmit Queue has taken effect (R171, R179). -/
def Link.settledRate (l : Link) : Nat :=
  l.txq.foldl (fun r e => match e.rateChange with
    | some b => b
    | none => r) l.rate

/-- The HELLO's reply: a final reply that is not cached and carries the rate change (R170, R171, R179). -/
def State.helloReply (tag : Byte) (id : Nat) (baud : Option Nat) (s : State) : State :=
  s.sendReply { frame := replyFrame tag (le 1 Status.ok.code ++ helloFields s id (baud.getD s.link.settledRate)),
                rateChange := baud, restarts := false }

/-- A HELLO that decodes is acted on (R170). -/
def State.actHello (tag : Byte) (id : Nat) (baud : Option Nat) (s : State) : State :=
  let s1 := s.orphanSlots
  let s2 : State := { s1 with req := { s1.req with cache := [], session := id } }
  let s3 := s2.discardGroup.helloReply tag id baud
  if s2.grp.group.isSome then s3.afterDiscard else s3.consult

/-- A HELLO frame: it takes no slot, and its RETRY flag is not examined (R161, R169). -/
def State.takeHello (f : Frame) (s : State) : State :=
  match decodeHello f.payload with
  | some (id, baud) => s.actHello f.tag id baud
  | none => (s.answerUnslotted f.tag .badRequest).consult

/-! ## The frames, kind by kind (R161) -/

/-- A GET frame. -/
def State.takeGet : Frame → State → State :=
  State.accept .get (fun tag r s => match r with
    | .get k => s.actGet tag k
    | _ => s)

/-- A STAT frame. -/
def State.takeStat : Frame → State → State :=
  State.accept .stat (fun tag r s => match r with
    | .stat k => s.actStat tag k
    | _ => s)

/-- A LIST frame. -/
def State.takeList : Frame → State → State :=
  State.accept .list (fun tag r s => match r with
    | .list after max => s.actList tag after max
    | _ => s)

/-- A PUT frame (R42, R64). -/
def State.takePut : Frame → State → State := State.accept .put (fun tag _ s => s.joinList tag)

/-- A DELETE frame (R43, R65). -/
def State.takeDelete : Frame → State → State := State.accept .delete (fun tag _ s => s.joinList tag)

/-- A FENCE frame (R52). -/
def State.takeFence : Frame → State → State := State.accept .fence (fun tag _ s => s.joinList tag)

/-- A BEGIN frame. -/
def State.takeBegin : Frame → State → State := State.accept .beginGroup (fun tag _ s => s.actBegin tag)

/-- A COMMIT frame (R68). -/
def State.takeCommit : Frame → State → State := State.accept .commit (fun tag _ s => s.joinList tag)

/-- An ABORT frame. -/
def State.takeAbort : Frame → State → State := State.accept .abort (fun tag _ s => s.actAbort tag)

/-- A SPACE frame. -/
def State.takeSpace : Frame → State → State := State.accept .space (fun tag _ s => s.actSpace tag)

/-- A SECTORS frame. -/
def State.takeSectors : Frame → State → State :=
  State.accept .sectors (fun tag r s => match r with
    | .sectors first count => s.actSectors tag first count
    | _ => s)

/-- A TIDY frame. -/
def State.takeTidy : Frame → State → State :=
  State.accept .tidy (fun tag r s => match r with
    | .tidy t => s.actTidy tag t
    | _ => s)

/-- A FORMAT frame. -/
def State.takeFormat : Frame → State → State := State.accept .format (fun tag _ s => s.actFormat tag)

/-- A RESET frame. -/
def State.takeReset : Frame → State → State :=
  State.accept .reset (fun tag r s => match r with
    | .reset mode => s.actReset tag mode
    | _ => s)

/-- A frame whose KIND is no request kind (R186). -/
def State.takeUnknown : Frame → State → State := State.retryOr State.acceptUnknown

/-- A good frame is handed to the Request Table (R161, R176). -/
def State.handOver (f : Frame) (s : State) : State :=
  match kindOf f.kind with
  | some .hello => s.takeHello f
  | some .get => s.takeGet f
  | some .stat => s.takeStat f
  | some .list => s.takeList f
  | some .put => s.takePut f
  | some .delete => s.takeDelete f
  | some .fence => s.takeFence f
  | some .beginGroup => s.takeBegin f
  | some .commit => s.takeCommit f
  | some .abort => s.takeAbort f
  | some .space => s.takeSpace f
  | some .sectors => s.takeSectors f
  | some .tidy => s.takeTidy f
  | some .format => s.takeFormat f
  | some .reset => s.takeReset f
  | none => s.takeUnknown f

/-! ## The commands (R161) -/

/-- The frame of a request command. -/
def requestFrame (kind : ReqKind) (tag flags : Byte) (payload : List Byte) : Frame :=
  { kind := kindCode kind, tag := tag, flags := flags, payload := payload }

/-- HELLO. -/
def execHello (tag flags : Byte) (payload : List Byte) (s : State) : Host.Outcome State Fault Refusal :=
  .next (s.unlessHeld (State.takeHello (requestFrame .hello tag flags payload)))

/-- GET. -/
def execGet (tag flags : Byte) (payload : List Byte) (s : State) : Host.Outcome State Fault Refusal :=
  .next (s.unlessHeld (State.takeGet (requestFrame .get tag flags payload)))

/-- STAT. -/
def execStat (tag flags : Byte) (payload : List Byte) (s : State) : Host.Outcome State Fault Refusal :=
  .next (s.unlessHeld (State.takeStat (requestFrame .stat tag flags payload)))

/-- LIST. -/
def execList (tag flags : Byte) (payload : List Byte) (s : State) : Host.Outcome State Fault Refusal :=
  .next (s.unlessHeld (State.takeList (requestFrame .list tag flags payload)))

/-- PUT. -/
def execPut (tag flags : Byte) (payload : List Byte) (s : State) : Host.Outcome State Fault Refusal :=
  .next (s.unlessHeld (State.takePut (requestFrame .put tag flags payload)))

/-- DELETE. -/
def execDelete (tag flags : Byte) (payload : List Byte) (s : State) : Host.Outcome State Fault Refusal :=
  .next (s.unlessHeld (State.takeDelete (requestFrame .delete tag flags payload)))

/-- FENCE. -/
def execFence (tag flags : Byte) (payload : List Byte) (s : State) : Host.Outcome State Fault Refusal :=
  .next (s.unlessHeld (State.takeFence (requestFrame .fence tag flags payload)))

/-- BEGIN. -/
def execBegin (tag flags : Byte) (payload : List Byte) (s : State) : Host.Outcome State Fault Refusal :=
  .next (s.unlessHeld (State.takeBegin (requestFrame .beginGroup tag flags payload)))

/-- COMMIT. -/
def execCommit (tag flags : Byte) (payload : List Byte) (s : State) : Host.Outcome State Fault Refusal :=
  .next (s.unlessHeld (State.takeCommit (requestFrame .commit tag flags payload)))

/-- ABORT. -/
def execAbort (tag flags : Byte) (payload : List Byte) (s : State) : Host.Outcome State Fault Refusal :=
  .next (s.unlessHeld (State.takeAbort (requestFrame .abort tag flags payload)))

/-- SPACE. -/
def execSpace (tag flags : Byte) (payload : List Byte) (s : State) : Host.Outcome State Fault Refusal :=
  .next (s.unlessHeld (State.takeSpace (requestFrame .space tag flags payload)))

/-- SECTORS. -/
def execSectors (tag flags : Byte) (payload : List Byte) (s : State) : Host.Outcome State Fault Refusal :=
  .next (s.unlessHeld (State.takeSectors (requestFrame .sectors tag flags payload)))

/-- TIDY. -/
def execTidy (tag flags : Byte) (payload : List Byte) (s : State) : Host.Outcome State Fault Refusal :=
  .next (s.unlessHeld (State.takeTidy (requestFrame .tidy tag flags payload)))

/-- FORMAT. -/
def execFormat (tag flags : Byte) (payload : List Byte) (s : State) : Host.Outcome State Fault Refusal :=
  .next (s.unlessHeld (State.takeFormat (requestFrame .format tag flags payload)))

/-- RESET. -/
def execReset (tag flags : Byte) (payload : List Byte) (s : State) : Host.Outcome State Fault Refusal :=
  .next (s.unlessHeld (State.takeReset (requestFrame .reset tag flags payload)))

/-- UNKNOWN_KIND_FRAME. -/
def execUnknownKindFrame (kind : List Byte) (tag flags : Byte) (payload : List Byte) (s : State) :
    Host.Outcome State Fault Refusal :=
  .next (s.unlessHeld (State.takeUnknown { kind := kind, tag := tag, flags := flags, payload := payload }))

/-- LIST_STEP: a later step of the running listing of the LIST with this tag (R87). -/
def execListStep (tag : Byte) (s : State) : Host.Outcome State Fault Refusal :=
  .next (s.unlessHeld (fun s =>
    match s.slot tag with
    | some sl =>
      match sl.progress with
      | .listing l => s.listStep tag l
      | .idle | .reading _ => s
    | none => s))

end Sys2Proof.Machine
end

