-- ==== Sys2Proof/Machine/LinkEvents.lean ====
section
/-! DEFINITION. The Link Controller's events: characters, the gap timer, the break, and the end of a
frame sent (R174 to R181). -/

namespace Sys2Proof.Machine

/-- Change the Link Controller. -/
def State.modLink (f : Link → Link) (s : State) : State := { s with link := f s.link }

/-! ## The receiver (R175 to R177) -/

/-- HUNT with no frame in progress and the gap timer stopped (R175, R177). -/
def Link.hunt (l : Link) : Link := { l with rx := .hunt, got := [], gap := false }

/-- The frame in progress is discarded and FRAME_DROPPED marked (R176). -/
def State.discardFrame (s : State) : State := ((s.modLink Link.hunt).mark .frameDropped).consult

/-- LENGTH of the frame in progress. -/
def lengthField (got : List Byte) : Nat := fromLe (got.take 2)

/-- The frame that the bytes after SYNC hold (R183). -/
def frameOf (got : List Byte) : Frame :=
  { kind := (got.drop 2).take 4, tag := (got.drop 6).headD 0, flags := (got.drop 7).headD 0,
    payload := (got.drop 8).take (lengthField got) }

/-- The CRC field of the frame in progress. -/
def crcField (got : List Byte) : Nat := fromLe ((got.drop (8 + lengthField got)).take 2)

/-- A byte of the frame is stored: the receiver's state, and the gap timer starts again (R175, R177). -/
def State.storeByte (rx : RxState) (got : List Byte) : State → State :=
  State.modLink (fun l => { l with rx := rx, got := got, gap := true })

/-- A byte in HEADER (R175, R176). -/
def State.headerByte (c : Byte) (s : State) : State :=
  let got := s.link.got ++ [c]
  if got.length = 2 ∧ Config.maxPayload < lengthField got then s.discardFrame
  else if got.length < 8 then s.storeByte .header got
  else if lengthField got = 0 then s.storeByte .check got
  else s.storeByte .payload got

/-- A byte in PAYLOAD (R175). -/
def State.payloadByte (c : Byte) (s : State) : State :=
  let got := s.link.got ++ [c]
  if got.length < 8 + lengthField got then s.storeByte .payload got else s.storeByte .check got

/-- A byte in CHECK: after the second, the CRC is compared, and a good frame is handed over (R175,
R176). -/
def State.checkByte (c : Byte) (s : State) : State :=
  let got := s.link.got ++ [c]
  if got.length < 10 + lengthField got then s.storeByte .check got
  else if (frameOf got).crc.toNat = crcField got then (s.modLink Link.hunt).handOver (frameOf got)
  else s.discardFrame

/-- A character without a framing error (R175). -/
def State.takeChar (c : Byte) (s : State) : State :=
  match s.link.rx with
  | .hunt => if c = 0x5A then s.storeByte .header [] else s
  | .header => s.headerByte c
  | .payload => s.payloadByte c
  | .check => s.checkByte c

/-- A character with a framing error: ignored in HUNT, a discard inside a frame (R176). -/
def State.framingError (s : State) : State :=
  match s.link.rx with
  | .hunt => s
  | .header | .payload | .check => s.discardFrame

/-- CHARACTER_RECEIVED (R175, R176). -/
def execCharacterReceived (c : Byte) (framingError : Bool) (s : State) : Host.Outcome State Fault Refusal :=
  .next (s.unlessHeld (fun s => if framingError then s.framingError else s.takeChar c))

/-- GAP_TIMER_EXPIRY: the frame in progress is discarded; a timer that does not run does not expire
(R177). -/
def execGapTimerExpiry (s : State) : Host.Outcome State Fault Refusal :=
  .next (s.unlessHeld (fun s => if s.link.gap then s.discardFrame else s))

/-! ## The transmitter (R178 to R180) -/

/-- A rate change takes effect: the rate, and a frame in progress in the receiver is discarded (R179). -/
def State.changeRate (b : Nat) (s : State) : State :=
  let s1 := s.modLink (fun l => { l with rate := b })
  match s1.link.rx with
  | .hunt => s1
  | .header | .payload | .check => (s1.modLink Link.hunt).mark .frameDropped

/-- The head frame leaves the Transmit Queue. -/
def State.popTx (s : State) : State := s.modLink (fun l => { l with txq := l.txq.drop 1 })

/-- The head frame has been sent: its rate change takes effect, and the RESET reply's leaving brings the
restart (R151, R179, R180). -/
def State.frameLeaves (e : TxFrame) (s : State) : State :=
  if e.restarts then s.popTx.restart
  else match e.rateChange with
    | some b => ((s.popTx).changeRate b).consult
    | none => s.popTx.consult

/-- FRAME_SENT (R180). -/
def execFrameSent (s : State) : Host.Outcome State Fault Refusal :=
  .next (s.unlessHeld (fun s =>
    match s.link.txq with
    | e :: _ => s.frameLeaves e
    | [] => s))

/-- Every pending rate change is cancelled (R178). -/
def TxFrame.withoutRate (e : TxFrame) : TxFrame := { e with rateChange := none }

/-- A break's effect on the link: the receiver in HUNT, the default rate, no rate change pending, the
frame being sent removed (R178). -/
def Link.broken (l : Link) : Link :=
  { l.hunt with rate := Config.defaultRate, txq := (l.txq.drop 1).map TxFrame.withoutRate }

/-- A break (R178); a RESET reply removed unsent brings the restart (R151), after which no LINK_RESET is
pending (R181, log 30). -/
def State.takeBreak (s : State) : State :=
  let s1 := s.modLink Link.broken
  if s.link.txq.head?.any (fun e => e.restarts) then s1.restart else (s1.mark .linkReset).consult

/-- BREAK (R178). -/
def execBreak (s : State) : Host.Outcome State Fault Refusal := .next (s.unlessHeld State.takeBreak)

end Sys2Proof.Machine
end

