-- ==== Sys2Proof/Machine/ArrayEvents.lean ====
section
/-! DEFINITION. The array's events: reads, word programs, erases, and the batch's window (R80, R99 to
R101, R109 to R112, R120, R128 to R130, R140). -/

namespace Sys2Proof.Machine

/-! ## Reads -/

/-- The word at an index is among the words a read returns. -/
def ReadReq.covers (r : ReadReq) (i : Nat) : Bool := decide (r.offset / 8 ≤ i ∧ i < r.offset / 8 + r.words)

/-- The words that the array holds when the read completes: those reported changed hold their new bits
from now on (log 3). -/
def Flash.decay (f : Flash) (r : ReadReq) (decayed : List (Nat × RawWord)) : Flash :=
  f.putAll r.sector (decayed.filter (fun p => r.covers p.1))

/-- The read lies inside the array (R1). -/
def ReadReq.inside (r : ReadReq) : Bool :=
  decide (r.sector < Config.sectors ∧ r.offset / 8 + r.words ≤ Config.sectorWords)

/-- The words of a read. -/
def Flash.read (f : Flash) (r : ReadReq) : List RawWord := f.words r.sector (r.offset / 8) r.words

/-- A read ends: the array is free, and holds what it was found to hold. -/
def State.endRead (r : ReadReq) (decayed : List (Nat × RawWord)) (s : State) : State :=
  { s.modArray (fun a => { a with op := none }) with flash := s.flash.decay r decayed }

/-- The GET whose read has completed is answered: OK with the value, or CORRUPT (R80). -/
def State.getAnswer (tag : Byte) (d : ReadDescriptor) (words : List RawWord) (s : State) : State :=
  match getValue words d with
  | some v => s.answer tag .ok (getFields v d.seq true)
  | none => s.answer tag .corrupt (le 6 d.seq)

/-- A GET's read has completed: corrections are counted, the readers count falls, and the GET is answered
from its descriptor (R79, R80, R109). -/
def State.getDone (tag : Byte) (r : ReadReq) (words : List RawWord) (s : State) : State :=
  let s1 := s.addCorrected r.sector (correctedWords words)
  let s2 := s1.modSector r.sector (fun e => { e with readers := e.readers - 1 })
  match s.slot tag with
  | some sl =>
    match sl.progress with
    | .reading d => s2.getAnswer tag d words
    | .idle | .listing _ => s2
  | none => s2

/-- GET_READ_COMPLETE (R80). -/
def execGetReadComplete (decayed : List (Nat × RawWord)) (s : State) : Host.Outcome State Fault Refusal :=
  if s.held then .next s
  else match s.arr.op with
    | some (.read r) =>
      match r.who with
      | .get tag =>
        if r.inside then
          let s1 := s.endRead r decayed
          .next ((s1.getDone tag r (s1.flash.read r)).settle)
        else .fault .addressOutsideArray
      | .reclaim | .mount => .next s
    | some (.word _) | none => .next s

/-- A reclaim read has completed: its corrections are counted, and its words are taken by the walk unless a
FORMAT has taken their use (R109, R115, R120, R146). -/
def State.reclaimDone (r : ReadReq) (words : List RawWord) (s : State) : State :=
  let s1 := s.addCorrected r.sector (correctedWords words)
  if r.discard then s1 else s1.walkRead words

/-- RECLAIM_READ_COMPLETE (R120). -/
def execReclaimReadComplete (decayed : List (Nat × RawWord)) (s : State) : Host.Outcome State Fault Refusal :=
  if s.held then .next s
  else match s.arr.op with
    | some (.read r) =>
      match r.who with
      | .reclaim =>
        if r.inside then
          let s1 := s.endRead r decayed
          .next ((s1.reclaimDone r (s1.flash.read r)).settle)
        else .fault .addressOutsideArray
      | .get _ | .mount => .next s
    | some (.word _) | none => .next s

/-- MOUNT_READ_COMPLETE (R140). -/
def execMountReadComplete (decayed : List (Nat × RawWord)) (s : State) : Host.Outcome State Fault Refusal :=
  if s.held then .next s
  else match s.arr.op with
    | some (.read r) =>
      match r.who with
      | .mount =>
        if r.inside then
          let s1 := s.endRead r decayed
          .next ((s1.mountRead (s1.flash.read r)).settle)
        else .fault .addressOutsideArray
      | .get _ | .reclaim => .next s
    | some (.word _) | none => .next s

/-! ## Word programs (R99 to R101) -/

/-- A word program leaves its word: programmed when it succeeds, with indeterminate bits when it fails
after pulses, unchanged when the word was found not blank (R2, R100). -/
def State.programWord (sector index : Nat) (data : Word) (role : WordRole) (verified : Bool) (s : State) : State :=
  if (s.flash.word sector index).isBlank then
    if verified then { s with flash := s.flash.put sector index (.stored { data := data, ecc := .clean }) }
    else s.failWord sector index data role
  else s

/-- A word program under way ends, verified or not; it succeeds only on a blank word (R100). -/
def State.endWord (w : WordReq) (verified : Bool) (s : State) : State :=
  let ok : Bool := verified && (s.flash.word w.sector w.index).isBlank
  ((s.modArray (fun a => { a with op := none })).programWord w.sector w.index w.data w.role verified).wordEnded w ok

/-- WORD_PROGRAM_COMPLETE: a word of the Log Writer ends in success or failure (R99 to R101). -/
def execWordProgramComplete (verified : Bool) (s : State) : Host.Outcome State Fault Refusal :=
  if s.held then .next s
  else match s.arr.op with
    | some (.word w) =>
      if wordExists w.sector w.index then .next ((s.endWord w verified).settle) else .fault .addressOutsideArray
    | some (.read _) | none => .next s

/-! ## Erases (R110 to R112, R129, R130) -/

/-- The erase under way, when it is in a phase. -/
def State.eraseIn (s : State) (p : ErasePhase) : Option EraseReq :=
  match s.arr.erase with
  | some r => if r.phase = p then some r.req else none
  | none => none

/-- The erase word's program ends: DONE when it verified on a blank word, HEADER_FAIL otherwise (R110,
R129, R130). It writes the epoch and the count of its request (R110): the epoch of the log on the array, current
until an erase of a FORMAT has ended DONE (R17, R148), or a FORMAT's new one (R147), and one more than the sector's
count when the erase began (R3; log 21). -/
def State.endHeader (r : EraseReq) (verified : Bool) (s : State) : State :=
  let ok : Bool := verified && (s.flash.word r.sector 0).isBlank
  (s.programWord r.sector 0 (eraseWord r.epoch r.count) .eraseWord verified).eraseEnds r (if ok then .done else .failed)

/-- WORD_PROGRAM_TIMEOUT: the word under way, or the erase word, has not verified within 150 µs, and its
program is a failure (R100). -/
def execWordProgramTimeout (s : State) : Host.Outcome State Fault Refusal :=
  if s.held then .next s
  else match s.arr.op, s.eraseIn .header with
    | some (.word w), _ =>
      if wordExists w.sector w.index then .next ((s.endWord w false).settle) else .fault .addressOutsideArray
    | some (.read _), _ => .next s
    | none, some r => if r.sector < Config.sectors then .next ((s.endHeader r false).settle) else .fault .addressOutsideArray
    | none, none => .next s

/-- A read, or a word program that may start, waits (R111, R112). -/
def State.arrayWaits (s : State) : Bool :=
  !s.arr.gets.isEmpty || !s.arr.walks.isEmpty || (s.arr.word.isSome && s.sup.condition == .normal)

/-- ERASE_SUSPEND: the pulse stops at its suspension point while a read or word program waits, and the
array is free (R111). -/
def execEraseSuspend (s : State) : Host.Outcome State Fault Refusal :=
  .next (s.unlessHeld (fun s =>
    match s.eraseIn .pulse with
    | some _ => if s.arrayWaits then (s.erasePhase .suspended).schedule.consult else s
    | none => s))

/-- Words that are not blank after the pulse; none of them is a valid erase word (R2, R110, log 3). -/
def stuckWords (stuck : List (Nat × RawWord)) : List (Nat × RawWord) :=
  stuck.map (fun p => if p.1 = 0 then (p.1, p.2.withoutEraseWord) else p)

/-- ERASE_PULSE_COMPLETE: every word has returned to all ones, but for those that did not, and the blank
check begins (R2, R110). -/
def execErasePulseComplete (stuck : List (Nat × RawWord)) (s : State) : Host.Outcome State Fault Refusal :=
  if s.held then .next s
  else match s.eraseIn .pulse with
    | some r =>
      if r.sector < Config.sectors then
        let s1 : State := { s with flash := (s.flash.clear r.sector).putAll r.sector (stuckWords stuck) }
        .next ((s1.erasePhase .blankCheck).schedule.consult)
      else .fault .addressOutsideArray
    | none => .next s

/-- ERASE_TIMEOUT: the running time of the pulse phase has passed 500 ms. It does not advance while the pulse is
suspended, and no erase times out there (R110, R111). -/
def execEraseTimeout (s : State) : Host.Outcome State Fault Refusal :=
  .next (s.unlessHeld (fun s =>
    match s.eraseIn .pulse with
    | some r => (s.eraseEnds r .failed).settle
    | none => s))

/-- Every word of a sector is blank (R110). -/
def Flash.allBlank (f : Flash) (sector : Nat) : Bool :=
  (List.range Config.sectorWords).all (fun i => (f.word sector i).isBlank)

/-- BLANK_CHECK_COMPLETE: the header phase begins once the array is free, or the erase ends BLANK_FAIL
(R110, R112). -/
def execBlankCheckComplete (s : State) : Host.Outcome State Fault Refusal :=
  .next (s.unlessHeld (fun s =>
    match s.eraseIn .blankCheck with
    | some r =>
      if s.flash.allBlank r.sector then (s.erasePhase .checked).schedule.consult else (s.eraseEnds r .failed).settle
    | none => s))

/-- ERASE_WORD_PROGRAM_COMPLETE: the erase ends DONE or HEADER_FAIL (R110, R129, R130). -/
def execEraseWordProgramComplete (verified : Bool) (s : State) : Host.Outcome State Fault Refusal :=
  if s.held then .next s
  else match s.eraseIn .header with
    | some r =>
      if r.sector < Config.sectors then .next ((s.endHeader r verified).settle) else .fault .addressOutsideArray
    | none => .next s

/-- ERASE_WINDOW_EXPIRY: the gathering batch closes (R128). -/
def execEraseWindowExpiry (s : State) : Host.Outcome State Fault Refusal :=
  .next (s.unlessHeld (fun s =>
    if s.sm.batch.window ∧ ¬ s.sm.batch.running ∧ s.sm.batch.members ≠ [] then s.runBatch.settle else s))

end Sys2Proof.Machine
end

