-- ==== Sys2Proof/Machine/SupplyEvents.lean ====
section
/-! DEFINITION. The Supply Monitor's events and the nRESET pin (R136, R152 to R159). -/

namespace Sys2Proof.Machine

/-- Change the Supply Monitor. -/
def State.modSupply (f : Supply → Supply) (s : State) : State := { s with sup := f s.sup }

/-! ## HOLD (R152, R154) -/

/-- An erase whose erase word is not under way ends ABANDONED, and its sector is left without a valid
erase word (R110, R112, R154). -/
def State.abandonErase (s : State) : State :=
  match s.arr.erase with
  | some r =>
    match r.phase with
    | .pulse | .suspended | .blankCheck | .checked => (s.wreckSector r.req.sector).eraseEnds r.req .abandoned
    | .header => s
  | none => s

/-- HOLD is entered (R154, R157). -/
def State.enterHold (s : State) : State :=
  let s1 := s.modSupply (fun p => { p with condition := .hold, qualifying := false })
  ((s1.mark .supply).abandonErase).startHoldTimer

/-- SUPPLY_BELOW_HOLD: HOLD is entered from NORMAL; in HOLD a fall stops the qualification timer. A held
controller keeps only the condition (R152, R154, log 18). -/
def execSupplyBelowHold (s : State) : Host.Outcome State Fault Refusal :=
  .next (if s.held then s.modSupply (fun p => { p with condition := .hold, qualifying := false })
    else match s.sup.condition with
      | .normal => s.enterHold.settle
      | .hold => s.modSupply (fun p => { p with qualifying := false }))

/-! ## The qualification timer (R152, R156) -/

/-- SUPPLY_ABOVE_NORMAL: in HOLD the qualification timer starts (R152). While power-on reset is asserted
it does not run (R153). -/
def execSupplyAboveNormal (s : State) : Host.Outcome State Fault Refusal :=
  .next (if s.sup.condition = .hold ∧ s.sup.powerOnReset = false then
      s.modSupply (fun p => { p with qualifying := true })
    else s)

/-- SUPPLY_FALL_IN_QUALIFICATION: the qualification timer stops (R152). -/
def execSupplyFallInQualification (s : State) : Host.Outcome State Fault Refusal :=
  .next (s.modSupply (fun p => { p with qualifying := false }))

/-- NORMAL is entered (R156). -/
def State.enterNormal (s : State) : State :=
  (s.modSupply (fun p => { p with condition := .normal, qualifying := false, holdTimer := false })).mark .supply

/-- QUALIFICATION_TIMER_EXPIRY: NORMAL is entered and held work resumes (R156). -/
def execQualificationTimerExpiry (s : State) : Host.Outcome State Fault Refusal :=
  .next (if s.sup.qualifying ∧ s.sup.condition = .hold then
      if s.held then s.modSupply (fun p => { p with condition := .normal, qualifying := false, holdTimer := false })
      else s.enterNormal.settle
    else s)

/-! ## The hold timer (R158) -/

/-- The hold timer expires: every entry fails, and the host lane is abandoned (R55, R106, R158). -/
def State.holdExpires (s : State) : State :=
  ((s.modSupply (fun p => { p with holdTimer := false })).failQueue .supplyLow).abandonHost

/-- HOLD_TIMER_EXPIRY (R158). -/
def execHoldTimerExpiry (s : State) : Host.Outcome State Fault Refusal :=
  .next (s.unlessHeld (fun s => if s.sup.holdTimer then s.holdExpires.settle else s))

/-! ## Power-on reset and nRESET (R136, R153) -/

/-- POWER_ON_RESET_ASSERTED: the controller is held, and the array operation under way stops; asserted
already, the release interval starts again from the next rise (R153). -/
def execPowerOnResetAsserted (s : State) : Host.Outcome State Fault Refusal :=
  .next (s.cutArray.modSupply (fun p => { p with powerOnReset := true, releasing := false, qualifying := false }))

/-- SUPPLY_ABOVE_POWER_ON_THRESHOLD: the release interval starts (R153). -/
def execSupplyAbovePowerOnThreshold (s : State) : Host.Outcome State Fault Refusal :=
  .next (if s.sup.powerOnReset then s.modSupply (fun p => { p with releasing := true }) else s)

/-- The Supply Monitor at the release of power-on reset (R153). -/
def Supply.released (aboveNormal : Bool) (p : Supply) : Supply :=
  { p with condition := if aboveNormal then .normal else .hold, qualifying := false, holdTimer := false,
           powerOnReset := false, releasing := false }

/-- POWER_ON_RELEASE: the release interval has passed; the part restarts, unless nRESET still holds it
(R136, R153). -/
def execPowerOnRelease (aboveNormal : Bool) (s : State) : Host.Outcome State Fault Refusal :=
  .next (if s.sup.powerOnReset ∧ s.sup.releasing then
      let s1 := s.modSupply (Supply.released aboveNormal)
      if s1.sup.nresetLow then s1 else s1.restart
    else s)

/-- NRESET_LOW: the controller is held, and the array operation under way stops (R136). -/
def execNresetLow (s : State) : Host.Outcome State Fault Refusal :=
  .next (s.cutArray.modSupply (fun p => { p with nresetLow := true }))

/-- NRESET_HIGH: after a recognised low pulse the part restarts, unless power-on reset still holds it
(R136). -/
def execNresetHigh (s : State) : Host.Outcome State Fault Refusal :=
  .next (if s.sup.nresetLow then
      let s1 := s.modSupply (fun p => { p with nresetLow := false })
      if s1.sup.powerOnReset then s1 else s1.restart
    else s)

end Sys2Proof.Machine
end

