-- ==== Sys2Proof/Machine/Dispatch.lean ====
section
/-! DEFINITION. The meaning of every command. -/

namespace Sys2Proof.Machine

/-- The command's effect on everything but the queue. -/
def exec (i : Instr) (s : State) : Host.Outcome State Fault Refusal :=
  match i with
  | .hello tag flags payload => Sys2Proof.Machine.execHello tag flags payload s
  | .get tag flags payload => Sys2Proof.Machine.execGet tag flags payload s
  | .stat tag flags payload => Sys2Proof.Machine.execStat tag flags payload s
  | .list tag flags payload => Sys2Proof.Machine.execList tag flags payload s
  | .put tag flags payload => Sys2Proof.Machine.execPut tag flags payload s
  | .delete tag flags payload => Sys2Proof.Machine.execDelete tag flags payload s
  | .fence tag flags payload => Sys2Proof.Machine.execFence tag flags payload s
  | .beginGroup tag flags payload => Sys2Proof.Machine.execBegin tag flags payload s
  | .commit tag flags payload => Sys2Proof.Machine.execCommit tag flags payload s
  | .abort tag flags payload => Sys2Proof.Machine.execAbort tag flags payload s
  | .space tag flags payload => Sys2Proof.Machine.execSpace tag flags payload s
  | .sectors tag flags payload => Sys2Proof.Machine.execSectors tag flags payload s
  | .tidy tag flags payload => Sys2Proof.Machine.execTidy tag flags payload s
  | .format tag flags payload => Sys2Proof.Machine.execFormat tag flags payload s
  | .reset tag flags payload => Sys2Proof.Machine.execReset tag flags payload s
  | .unknownKindFrame kind tag flags payload => Sys2Proof.Machine.execUnknownKindFrame kind tag flags payload s
  | .characterReceived char framingError => Sys2Proof.Machine.execCharacterReceived char framingError s
  | .gapTimerExpiry => Sys2Proof.Machine.execGapTimerExpiry s
  | .breakRecognised => Sys2Proof.Machine.execBreak s
  | .frameSent => Sys2Proof.Machine.execFrameSent s
  | .listStep tag => Sys2Proof.Machine.execListStep tag s
  | .getReadComplete decayed => Sys2Proof.Machine.execGetReadComplete decayed s
  | .reclaimReadComplete decayed => Sys2Proof.Machine.execReclaimReadComplete decayed s
  | .mountReadComplete decayed => Sys2Proof.Machine.execMountReadComplete decayed s
  | .wordProgramComplete verified => Sys2Proof.Machine.execWordProgramComplete verified s
  | .wordProgramTimeout => Sys2Proof.Machine.execWordProgramTimeout s
  | .eraseSuspend => Sys2Proof.Machine.execEraseSuspend s
  | .erasePulseComplete stuck => Sys2Proof.Machine.execErasePulseComplete stuck s
  | .eraseTimeout => Sys2Proof.Machine.execEraseTimeout s
  | .blankCheckComplete => Sys2Proof.Machine.execBlankCheckComplete s
  | .eraseWordProgramComplete verified => Sys2Proof.Machine.execEraseWordProgramComplete verified s
  | .eraseWindowExpiry => Sys2Proof.Machine.execEraseWindowExpiry s
  | .supplyBelowHold => Sys2Proof.Machine.execSupplyBelowHold s
  | .supplyAboveNormal => Sys2Proof.Machine.execSupplyAboveNormal s
  | .supplyFallInQualification => Sys2Proof.Machine.execSupplyFallInQualification s
  | .qualificationTimerExpiry => Sys2Proof.Machine.execQualificationTimerExpiry s
  | .holdTimerExpiry => Sys2Proof.Machine.execHoldTimerExpiry s
  | .powerOnResetAsserted => Sys2Proof.Machine.execPowerOnResetAsserted s
  | .powerOnRelease aboveNormal => Sys2Proof.Machine.execPowerOnRelease aboveNormal s
  | .nresetLow => Sys2Proof.Machine.execNresetLow s
  | .nresetHigh => Sys2Proof.Machine.execNresetHigh s
  | .supplyAbovePowerOnThreshold => Sys2Proof.Machine.execSupplyAbovePowerOnThreshold s

end Sys2Proof.Machine
end

