-- ==== Sys2Proof/Machine/Step.lean ====
section
/-! DEFINITION. The step: the command at the front of the queue runs; an empty queue idles (log 1). -/

namespace Sys2Proof.Machine

/-- The state with the queue's first command taken off. -/
def State.withQueue (q : List Instr) (s : State) : State := { s with pending := q }

/-- One step: the first command of the queue, run on the state with the queue's rest; an empty queue
idles. -/
def step (s : State) : Host.Outcome State Fault Refusal :=
  match s.pending with
  | c :: rest => exec c (s.withQueue rest)
  | [] => .next s

/-- The state with the command that a table word spells put at the front of its queue; unchanged where
the word spells none. -/
def State.withFetchWord (s : State) (nbits w : Nat) : State :=
  match decodeTableWord nbits w with
  | some c => s.withQueue (c :: s.pending)
  | none => s

end Sys2Proof.Machine
end

