-- ==== Sys2Proof/WellFormed.lean ====
section
/-! DEFINITION. The commands the environment can send: each operand within the range the spec gives it.
`exec` is total on the others too. -/

namespace Sys2Proof

/-- A payload is at most 2080 bytes (R183). -/
def payloadFits (payload : List Byte) : Bool := payload.length ≤ Config.maxPayload

/-- Words of a sector have an index below 4096 (R1). -/
def wordsFit (ws : List (Nat × RawWord)) : Bool := ws.all (fun w => w.1 < Config.sectorWords)

/-- The operands of a command are in range. -/
def Instr.wellFormed : Instr → Bool
  | .hello _ _ p | .get _ _ p | .stat _ _ p | .list _ _ p | .put _ _ p | .delete _ _ p
  | .fence _ _ p | .beginGroup _ _ p | .commit _ _ p | .abort _ _ p | .space _ _ p
  | .sectors _ _ p | .tidy _ _ p | .format _ _ p | .reset _ _ p => payloadFits p
  | .unknownKindFrame k _ _ p => k.length == 4 && (kindOf k).isNone && payloadFits p
  | .getReadComplete ws | .reclaimReadComplete ws | .mountReadComplete ws
  | .erasePulseComplete ws => wordsFit ws
  | .characterReceived _ _ | .gapTimerExpiry | .breakRecognised | .frameSent | .listStep _
  | .wordProgramComplete _ | .wordProgramTimeout | .eraseSuspend | .eraseTimeout
  | .blankCheckComplete | .eraseWordProgramComplete _ | .eraseWindowExpiry | .supplyBelowHold
  | .supplyAboveNormal | .supplyFallInQualification | .qualificationTimerExpiry
  | .holdTimerExpiry | .powerOnResetAsserted | .powerOnRelease _ | .nresetLow | .nresetHigh
  | .supplyAbovePowerOnThreshold => true

end Sys2Proof
end

