-- ==== Sys2Proof/Safety.lean ====
section
/-! DEFINITION. The terms in which the claims are made: what it is for a request to be taken, answered,
parked or told off, and the laws that every step keeps. -/

namespace Sys2Proof.Machine

/-! ## Requests -/

/-- The command of a request kind. -/
def requestCommand (k : ReqKind) (tag flags : Byte) (payload : List Byte) : Instr :=
  match k with
  | .hello => .hello tag flags payload
  | .get => .get tag flags payload
  | .stat => .stat tag flags payload
  | .list => .list tag flags payload
  | .put => .put tag flags payload
  | .delete => .delete tag flags payload
  | .fence => .fence tag flags payload
  | .beginGroup => .beginGroup tag flags payload
  | .commit => .commit tag flags payload
  | .abort => .abort tag flags payload
  | .space => .space tag flags payload
  | .sectors => .sectors tag flags payload
  | .tidy => .tidy tag flags payload
  | .format => .format tag flags payload
  | .reset => .reset tag flags payload

/-- The controller runs, and the frame is decided as a new one: it is no retry that matches (R161, step
2, R166). -/
def State.fresh (s : State) (f : Frame) : Bool := !s.held && !(f.retry && (s.retryMatch f).isSome)

/-- A fresh frame that takes a slot (R161, steps 3 to 5). -/
def State.accepts (s : State) (f : Frame) : Bool :=
  s.fresh f && (s.slot f.tag).isNone && decide (s.req.slots.length < Config.maxSlots)

/-- A frame that takes a slot, decodes as a request, and is not refused by the device state (R161, steps
3 to 7). -/
def State.takes (s : State) (kind : ReqKind) (f : Frame) (r : Request) : Bool :=
  s.accepts f && decodeRequest kind f.payload == some r && (s.gate kind).isNone

/-- The Transmit Queue after a reply that joins when there is room (R180). -/
def State.txAfter (s : State) (e : TxFrame) : List TxFrame :=
  if s.link.txq.length < Config.maxTx then s.link.txq ++ [e] else s.link.txq

/-- The Replay Cache after a final reply of a tag has been queued: the tag's old entry left when its slot
was taken, the oldest leaves a full cache, and the new entry is at the tail (R161, R167). -/
def cacheAfter (cache : List CacheEntry) (e : CacheEntry) : List CacheEntry :=
  let others := cache.filter (fun x => x.tag != e.tag)
  (if others.length < Config.maxCache then others else others.drop 1) ++ [e]

/-- From `s` to `t` the Link Controller has queued frames `q` (in place of `s`'s queue) and behind them
only notices; the receiver and the rate are as they were (R180, R181). -/
def State.queued (s : State) (q : List TxFrame) (t : State) : Prop :=
  (∃ notes : List TxFrame, (∀ e ∈ notes, e.frame.kind = kindNote) ∧ t.link.txq = q ++ notes)
    ∧ { t.link with txq := s.link.txq, notices := s.link.notices } = s.link

/-- Everything outside the Link Controller and the Request Table is as it was. -/
def State.otherwiseSame (s t : State) : Prop := { t with link := s.link, req := s.req } = s

/-- A frame of `s` was taken and answered by one final reply: its payload is queued and cached, and its
slot is free again (R165). -/
def State.replied (s : State) (f : Frame) (payload : List Byte) (t : State) : Prop :=
  let reply := replyFrame f.tag payload
  s.queued (s.txAfter (plainTx reply)) t
    ∧ t.req = { s.req with cache := cacheAfter s.req.cache (CacheEntry.mk f.tag f.digest reply) }

/-- A frame of `s` was taken and answered by one final reply, and nothing else has changed (R165). -/
def State.answered (s : State) (f : Frame) (payload : List Byte) (t : State) : Prop :=
  s.replied f payload t ∧ s.otherwiseSame t

/-- A request that holds a slot of `s` was answered: in the current session its reply is queued and cached,
in an ended one it is suppressed; the slot is free (R165, R172). -/
def State.closed (s : State) (sl : Slot) (payload : List Byte) (t : State) : Prop :=
  let reply := replyFrame sl.tag payload
  let left := s.req.slots.filter (fun x => x.tag != sl.tag)
  let cache := if s.req.cache.length < Config.maxCache then s.req.cache else s.req.cache.drop 1
  match sl.session with
  | .current => s.queued (s.txAfter (plainTx reply)) t
      ∧ t.req = { s.req with slots := left, cache := cache ++ [CacheEntry.mk sl.tag sl.digest reply] }
  | .ended => s.queued s.link.txq t ∧ t.req = { s.req with slots := left }

/-- A retry answer of `s`: the frame is queued if 8 frames or fewer wait, and nothing else has changed
(R166, R180). -/
def State.resent (s : State) (g : Frame) (t : State) : Prop :=
  s.queued (if s.link.txq.length ≤ 8 then s.link.txq ++ [plainTx g] else s.link.txq) t ∧ t.req = s.req
    ∧ s.otherwiseSame t

/-- A frame of `s` was answered without a slot: the reply is queued and not cached, and nothing else has
changed (R161, R167). -/
def State.toldOff (s : State) (f : Frame) (payload : List Byte) (t : State) : Prop :=
  s.queued (s.txAfter (plainTx (replyFrame f.tag payload))) t ∧ t.req = s.req ∧ s.otherwiseSame t

/-- The slot of a taken request that waits and has been sent PENDING (R163, R164). -/
def waitingSlot (kind : ReqKind) (f : Frame) (r : Request) (bound : Option Nat) (why : WaitReason) : Slot :=
  { newSlot (some kind) f with request := some r, bound := bound, state := .waiting, wait := some why, pendingSent := true }

/-- A frame of `s` was taken and waits: its slot stands beside the others, its old cache entry has left,
and PENDING is queued (R161, R163, R164). -/
def State.parked (s : State) (f : Frame) (slot : Slot) (t : State) : Prop :=
  s.queued (s.txAfter (plainTx (pendingFrame f.tag))) t
    ∧ t.req = { s.req with slots := s.req.slots ++ [slot], cache := s.req.cache.filter (fun x => x.tag != f.tag) }

/-! ## Several replies of one event (R164, R165, R180) -/

/-- A final reply to the request that holds a tag: its slot is free; in the current session the reply is cached,
and it joins the Transmit Queue when there is room (R165, R167, R172, R180). -/
def replyTo (x : RequestTable × List TxFrame) (p : Byte × List Byte) : RequestTable × List TxFrame :=
  match x.1.slots.find? (fun sl => sl.tag == p.1) with
  | none => x
  | some sl =>
    let reply := replyFrame p.1 p.2
    let left := x.1.slots.filter (fun y => y.tag != p.1)
    match sl.session with
    | .current =>
      ({ x.1 with
          slots := left
          cache := (if x.1.cache.length < Config.maxCache then x.1.cache else x.1.cache.drop 1)
            ++ [CacheEntry.mk p.1 sl.digest reply] },
       if x.2.length < Config.maxTx then x.2 ++ [plainTx reply] else x.2)
    | .ended => ({ x.1 with slots := left }, x.2)

/-- From `s` to `t` these final replies were decided, in this order; the receiver and the rate are as they
were. -/
def State.repliedAll (s : State) (replies : List (Byte × List Byte)) (t : State) : Prop :=
  (t.req, t.link.txq) = replies.foldl replyTo (s.req, s.link.txq)
    ∧ { t.link with txq := s.link.txq, notices := s.link.notices } = s.link

/-- A frame of `s` was taken and waits in `slot`: its old cache entry has left, and PENDING is still to be
queued at the end of the event (R161, R163, R164). -/
def State.waits (s : State) (f : Frame) (slot : Slot) (t : State) : Prop :=
  { t.link with notices := s.link.notices } = s.link
    ∧ t.req = { s.req with slots := s.req.slots ++ [slot], cache := s.req.cache.filter (fun x => x.tag != f.tag) }

/-- The event in which the request with this tag has arrived ends: the blocks act, and only then, behind every
reply decided in the event, is PENDING queued, and only if the request still waits for a reason other than
FLASH_READ, in the current session, and has not been sent one (R164; the order is the model's, log 17). -/
def State.tells (u : State) (tag : Byte) : Prop :=
  let v := u.considered
  (v.slot tag = none → u.settleFor tag = v.conclude)
    ∧ ∀ sl, v.slot tag = some sl → sl.session = .current → sl.state = .waiting → sl.wait ≠ some .flashRead →
      sl.pendingSent = false →
      u.settleFor tag = ({ v with
        link := { v.link with txq := v.txAfter (plainTx (pendingFrame tag)) }
        req := { v.req with slots := v.req.slots.map (fun x => if x.tag = tag then { x with pendingSent := true } else x) } } : State).conclude

/-! ## Writes -/

/-- The request of a PUT or, when `deletes`, of a DELETE. -/
def writeRequest (deletes : Bool) (w : WriteFields) : Request := if deletes then .delete w else .put w

/-- The kind of a PUT or DELETE. -/
def writeReqKind (deletes : Bool) : ReqKind := if deletes then .delete else .put

/-- The PUT or DELETE command. -/
def writeCommand (deletes : Bool) (tag flags : Byte) (payload : List Byte) : Instr :=
  requestCommand (writeReqKind deletes) tag flags payload

/-- A frame is taken as the PUT or DELETE with these fields. -/
def State.takesWrite (s : State) (deletes : Bool) (f : Frame) (w : WriteFields) : Bool :=
  s.takes (writeReqKind deletes) f (writeRequest deletes w)

/-- A write-class request that arrives now is considered at once: the Admission List is empty and no RESET
has frozen it (R39, R59). -/
abbrev State.listOpen (s : State) : Prop := s.wq.admission = [] ∧ s.wq.frozen = false

/-- The keys and the value are within the limits of the part (R42, R43). -/
abbrev sizesFit (deletes : Bool) (w : WriteFields) : Prop :=
  w.key.length ≤ Config.maxKey ∧ (writeValue deletes w).length ≤ Config.maxValue

/-- A DELETE's key is PRESENT or LOST (R43). -/
abbrev State.deletable (s : State) (deletes : Bool) (k : Key) : Prop := deletes = true → s.isAbsent k = false

/-- An if-sequence that the request carries is the key's check sequence (R19, R42). -/
def State.condHolds (s : State) (w : WriteFields) : Prop := ∀ q, w.ifSeq = some q → q = s.checkSeq w.key

/-- A place for the key is at hand: its entry, its reserved place, or a free one (R21, R42). -/
abbrev State.placeFree (s : State) (k : Key) : Prop :=
  (s.entry k).isSome ∨ s.isReserved k = true ∨ s.places < Config.maxEntries

/-- The write is within the admission limit (R42). -/
abbrev State.spaceFree (s : State) (b : Nat) : Prop := s.dir.admitted + b ≤ s.dir.limit

/-- The Write Queue and the Staging Buffer have room for a lone write (R42, R46). -/
abbrev State.roomFree (s : State) (b : Nat) : Prop :=
  s.wq.entries.length < Config.maxQueue ∧ s.wq.charged + b ≤ Config.stagingBytes

/-- A lone write passes every check that could refuse it (R42, R43). -/
def State.passesLone (s : State) (deletes : Bool) (w : WriteFields) : Prop :=
  sizesFit deletes w ∧ s.deletable deletes w.key ∧ s.condHolds w ∧ s.placeFree w.key
    ∧ s.spaceFree (writeBytes deletes w)

/-- The Write Queue entry of a lone write (R44, R45). -/
def loneEntry (tag : Byte) (deletes : Bool) (w : WriteFields) (seq : Nat) : QueueEntry :=
  { key := w.key, kind := writeKind deletes, seq := seq, recLen := writeBytes deletes w, value := writeValue deletes w,
    group := none, waiter := if w.durable then some tag else none, state := .waiting }

/-- The Directory entry of a key after a write of it has been admitted (R23). -/
def entryAfterWrite (old : Option Entry) (k : Key) (deletes : Bool) (valLen seq : Nat) : Entry :=
  match old with
  | some e => { e with state := if deletes then .tombstone else .present, newestSeq := seq,
                       newestLen := if deletes then 0 else valLen, queued := e.queued + 1 }
  | none => { key := k, state := if deletes then .tombstone else .present, newestSeq := seq,
              newestLen := if deletes then 0 else valLen, queued := 1, durable := none, flashCopies := 0 }

/-- The Notice Set once admitted bytes have changed (R38). -/
def State.noticesAfter (s : State) (admitted : Nat) : List NoticeKind :=
  if s.dir.admitted * 10 ≤ s.dir.limit * 9 ∧ s.dir.limit * 9 < admitted * 10 then joinNotice .spaceLow s.link.notices
  else s.link.notices

/-- A lone write is admitted in `s`: what it changes outside the Request Table and the Transmit Queue (R14, R23,
R38, R44, R157). -/
def State.admitsLone (s : State) (tag : Byte) (deletes : Bool) (w : WriteFields) (seq : Nat) (v : State) : Prop :=
  let b := writeBytes deletes w
  let entry := entryAfterWrite (s.entry w.key) w.key deletes w.value.length seq
  v.link.notices = s.noticesAfter (s.dir.admitted + b)
    ∧ v.wq = { s.wq with entries := s.wq.entries ++ [loneEntry tag deletes w seq], charged := s.wq.charged + b,
                         seqCounter := some (seq + 1) }
    ∧ v.dir = { s.dir with entries := Machine.putEntry entry s.dir.entries, admitted := s.dir.admitted + b,
                           reserved := s.dir.reserved.filter (fun r => r.key != w.key) }
    ∧ v.sup = { s.sup with holdTimer := s.sup.holdTimer || decide (s.sup.condition = .hold) }
    ∧ { v with link := s.link, req := s.req, wq := s.wq, dir := s.dir, sup := s.sup } = s

/-- A group-flagged write is staged in `s` as the next member of the open group `g`: what it changes outside the
Request Table and the link (R66). -/
def State.stages (s : State) (deletes : Bool) (w : WriteFields) (g : OpenGroup) (v : State) : Prop :=
  let b := writeBytes deletes w
  v.grp = { s.grp with group := some { g with
      members := g.members ++ [{ key := w.key, kind := writeKind deletes, value := writeValue deletes w, recLen := b,
                                 ifSeq := w.ifSeq }]
      bytes := g.bytes + b } }
    ∧ v.dir = { s.dir with admitted := s.dir.admitted + b }
    ∧ v.wq = { s.wq with charged := s.wq.charged + b }
    ∧ { v with link := s.link, req := s.req, grp := s.grp, dir := s.dir, wq := s.wq } = s

/-- The group `g`, not empty, is admitted in `s` for the COMMIT with this tag: what it changes outside the Request
Table and the link (R14, R23, R24, R70, R157). -/
def State.admitsRun (s : State) (tag : Byte) (g : OpenGroup) (seq : Nat) (v : State) : Prop :=
  v.wq = { s.wq with
      entries := s.wq.entries ++ g.members.mapIdx (fun i m =>
        { key := m.key, kind := m.kind, seq := seq + i, recLen := m.recLen, value := m.value,
          group := some (g.id, decide (i + 1 = g.members.length)),
          waiter := if i + 1 = g.members.length then some tag else none, state := .waiting })
      seqCounter := some (seq + g.members.length) }
    ∧ v.grp = { s.grp with group := none }
    ∧ v.dir.admitted = s.dir.admitted ∧ v.dir.limit = s.dir.limit
    ∧ v.dir.reserved = s.dir.reserved.filter (fun r => !g.members.any (fun m => m.key == r.key))
    ∧ v.sup = { s.sup with holdTimer := s.sup.holdTimer || decide (s.sup.condition = .hold) }
    ∧ (∀ k, (∀ m ∈ g.members, m.key ≠ k) → v.entry k = s.entry k)
    ∧ (∀ i m, g.members[i]? = some m → (∀ j x, i < j → g.members[j]? = some x → x.key ≠ m.key) →
        ∃ e, v.entry m.key = some e ∧ e.state = m.kind.entryState ∧ e.newestSeq = seq + i
          ∧ e.newestLen = (if m.kind = .data then m.value.length else 0)
          ∧ e.queued = (match s.entry m.key with
              | some x => x.queued
              | none => 0) + g.members.countP (fun x => x.key == m.key)
          ∧ e.durable = (s.entry m.key).bind (fun x => x.durable)
          ∧ e.flashCopies = (match s.entry m.key with
              | some x => x.flashCopies
              | none => 0))
    ∧ { v with link := s.link, req := s.req, wq := s.wq, grp := s.grp, dir := s.dir, sup := s.sup } = s

/-- The fence waiters whose mark has left a queue are answered with their outcome (R53). -/
def fenceReplies (queue : List QueueEntry) (fences : List FenceWaiter) : List (Byte × List Byte) :=
  (fences.filter (fun x => !queue.any (fun e => e.seq == x.mark))).map (fun x => (x.tag, [if x.failed then 19 else 0]))

/-- The fence waiters whose mark is still queued (R53). -/
def fencesLeft (queue : List QueueEntry) (fences : List FenceWaiter) : List FenceWaiter :=
  fences.filter (fun x => queue.any (fun e => e.seq == x.mark))

/-- The replies of a queue that fails with a status: the waiters of its entries, head first, then the fence
waiters with FAILED_BEFORE (R53, R55, R56). -/
def failureReplies (status : Byte) (queue : List QueueEntry) (fences : List FenceWaiter) : List (Byte × List Byte) :=
  queue.filterMap (fun q => q.waiter.map (fun tag => (tag, [status]))) ++ fences.map (fun x => (x.tag, [19]))

/-- Every entry of the Write Queue fails with a status, and every fence waiter with FAILED_BEFORE: the queue and its
list of waiters are empty, their replies queued, the failure note set if a failed write was admitted after the last
fence, their bytes released, the hold timer stopped; each key goes back to its durable version, is left without a
version, or leaves the Directory (R28, R53 to R56, R157). The media-fault latch is said elsewhere. -/
def State.queueFails (s : State) (status : Byte) (u : State) : Prop :=
  u.wq = { s.wq with
      entries := []
      charged := s.wq.charged - (s.wq.entries.map (fun q => q.recLen)).sum
      fences := []
      failureNote := s.wq.failureNote || s.wq.entries.any (fun q => decide (s.wq.fenceBoundary < q.seq))
      mediaFault := u.wq.mediaFault }
    ∧ s.repliedAll (failureReplies status s.wq.entries s.wq.fences) u
    ∧ u.sup = { s.sup with holdTimer := false }
    ∧ u.dir.limit = s.dir.limit ∧ u.dir.reserved = s.dir.reserved
    ∧ u.dir.admitted = s.dir.admitted
        - ((s.wq.entries.filter (fun q => (s.entry q.key).isSome)).map (fun q => q.recLen)).sum
    ∧ (∀ k, (∀ q ∈ s.wq.entries, q.key ≠ k) → u.entry k = s.entry k)
    ∧ ∀ q ∈ s.wq.entries, ∀ e, s.entry q.key = some e →
      let left := e.queued - s.wq.entries.countP (fun x => x.key == q.key)
      (∀ d, e.durable = some d → u.entry q.key = some { e with
          state := d.kind.entryState, newestSeq := d.seq, newestLen := d.valLen, queued := left })
      ∧ (e.durable = none → 0 < e.flashCopies → u.entry q.key = some { e with
          state := .tombstone, newestSeq := 0, newestLen := 0, queued := left })
      ∧ (e.durable = none → e.flashCopies = 0 → u.entry q.key = none)

/-- The relocation record is dropped: the lane is empty, the walk abandoned, an active TIDY answered MEDIA_FAULT with
its count, and ONLINE or DRAINING becomes READ_ONLY (R104, R126, R135, R137). -/
def State.dropsRelocation (s u : State) : Prop :=
  let falls := s.dev.state = .online ∨ s.dev.state = .draining
  u.lw = { s.lw with relocLane := none, relocFailures := 0 }
    ∧ u.sm = { s.sm with engine := .abandoned, walk := none, relocStall := false, tidy := none }
    ∧ s.repliedAll (match s.sm.tidy with
        | some t => [(t.tag, [16, BitVec.ofNat 8 t.drained])]
        | none => []) u
    ∧ u.link.notices = (if falls then joinNotice .state s.link.notices else s.link.notices)
    ∧ u.dev = { s.dev with state := if falls then .readOnly else s.dev.state }
    ∧ { u with lw := s.lw, sm := s.sm, req := s.req, link := s.link, dev := s.dev } = s

/-- The host lane's record is given up for a media fault: the lane is empty and its stall clear, the whole Write Queue
fails, the media-fault latch is set, and ONLINE becomes READ_ONLY (R56, R103, R126, R137). -/
def State.hostFails (s u : State) : Prop :=
  u.lw = { s.lw with hostLane := none, hostFailures := 0, placement := [] }
    ∧ u.sm = { s.sm with hostStall := false }
    ∧ s.queueFails 16 u ∧ u.wq.mediaFault = true
    ∧ u.link.notices = (if s.dev.state = .online then joinNotice .state s.link.notices else s.link.notices)
    ∧ u.dev = { s.dev with state := if s.dev.state = .online then .readOnly else s.dev.state }
    ∧ { u with lw := s.lw, sm := s.sm, wq := s.wq, dir := s.dir, req := s.req, link := s.link, sup := s.sup, dev := s.dev } = s

/-- What a command that fails an erase leaves of the array: all of it, when the pulse times out or the blank check
fails; at most word 0 of the sector otherwise, which stays as it is when it was not blank, and gets no valid erase
word (R100, R110). -/
def State.eraseFails (s : State) (c : Instr) (sector : Nat) (u : State) : Prop :=
  (c = .eraseTimeout ∨ c = .blankCheckComplete → u.flash = s.flash ∧ u.seeds = s.seeds)
    ∧ (∀ n i, n < 128 → i < 4096 → (n ≠ sector ∨ i ≠ 0) → u.flash.word n i = s.flash.word n i)
    ∧ ((s.flash.word sector 0).isBlank = false → u.flash.word sector 0 = s.flash.word sector 0)
    ∧ ((s.flash.word sector 0).erase? = none → (u.flash.word sector 0).erase? = none)

/-- The array once a word has been programmed with its data (R99, R100). -/
def State.programmed (s : State) (w : WordReq) : Flash :=
  s.flash.put w.sector w.index (.stored { data := w.data, ecc := .clean })

/-- The word under way is the last of the record in progress, whose place is `o`, and it verifies on a blank word
(R99, R100). -/
def State.endsRecord (s : State) (w : WordReq) (c : CurRecord) (o : OpenSector) : Prop :=
  s.held = false ∧ s.arr.op = some (.word w) ∧ w.sector < 128 ∧ w.index < 4096 ∧ w.discard = false ∧ w.role = .lastWord
    ∧ (s.flash.word w.sector w.index).isBlank = true ∧ s.lw.cur = some c ∧ c.done + 1 = c.image.length
    ∧ s.lw.openAt = some o

/-! ## The Sector Table's bytes (R114) -/

/-- A record's bytes pass from live to dead in the sector of a durable part that is replaced or removed, if there
is one. -/
def retired (table : List SectorEntry) (d : Option DurablePart) : List SectorEntry :=
  match d with
  | some d => table.modify d.sector (fun x => { x with live := x.live - d.recLen, dead := x.dead + d.recLen })
  | none => table

/-- A completed record moves the append offset of its sector past it and counts there as dead (R99, R114). -/
def placed (table : List SectorEntry) (sector offset b : Nat) : List SectorEntry :=
  table.modify sector (fun x => { x with appendOffset := some (offset + b), dead := x.dead + b })

/-- A record that becomes a durable part passes from dead to live. -/
def enlivened (table : List SectorEntry) (sector b : Nat) : List SectorEntry :=
  table.modify sector (fun x => { x with dead := x.dead - b, live := x.live + b })

/-- Entries, admitted bytes and Sector Table after the record of a queue entry, at an offset of a sector, has
become the durable part of its key (R26, R114). -/
def durableStep (sector : Nat) (x : List Entry × Nat × List SectorEntry) (p : QueueEntry × Nat) :
    List Entry × Nat × List SectorEntry :=
  match findEntry p.1.key x.1 with
  | none => x
  | some e =>
    (putEntry { e with
        queued := e.queued - 1
        durable := some { sector := sector, offset := p.2, seq := p.1.seq, kind := p.1.kind, recLen := p.1.recLen,
                          valLen := p.1.value.length } } x.1,
     x.2.1 - (match e.durable with
       | some d => d.recLen
       | none => 0),
     enlivened (retired x.2.2 e.durable) sector p.1.recLen)

/-! ## The victim walk (R118 to R125) -/

/-- A walk of `n` begins: the sector RECLAIMING and off the TIDY list, the engine WALKING at offset 16 with its
first read requested (R119, R131). -/
def State.walkBegins (s : State) (n : Nat) (t : State) : Prop :=
  t = { s with
    sm := { s.sm with
      table := s.sm.table.modify n (fun e => { e with state := .reclaiming })
      engine := .walking
      tidy := s.sm.tidy.map (fun x => { x with list := x.list.filter (fun k => k != n) })
      walk := some { victim := n, offset := 16, phase := .header, sweep := false,
                     forTidy := s.sm.tidy.any (fun x => x.list.contains n) } }
    arr := { s.arr with walks := s.arr.walks ++
      [{ who := .reclaim, sector := n, offset := 16, words := 2, discard := false }] } }

/-- The victim of a walk is drained: STALE without its open generation, at the tail of the stale order, the engine
IDLE, one more drained for the TIDY it counts for (R125, R127, R135). -/
def State.drains (s : State) (w : Walk) (t : State) : Prop :=
  t = { s with sm := { s.sm with
    table := s.sm.table.modify w.victim (fun e => { e with state := .stale, openGen := none })
    engine := .idle
    walk := none
    staleOrder := s.sm.staleOrder ++ [w.victim]
    tidy := s.sm.tidy.map (fun x => { x with drained := x.drained + (if w.forTidy then 1 else 0) }) } }

/-- The tail sweep reads, over its record length, the record at the lowest offset above the last one handled that
some durable part names, or ends with the victim drained (R124, R125). -/
def State.sweeps (s : State) (w : Walk) (t : State) : Prop :=
  let named := fun d : DurablePart =>
    (∃ e ∈ s.dir.entries, e.durable = some d) ∧ d.sector = w.victim ∧ w.offset < d.offset
  ((∃ d, named d) → ∃ d, named d ∧ (∀ x, named x → d.offset ≤ x.offset) ∧ t = { s with
      sm := { s.sm with walk := some { w with offset := d.offset, phase := .sweepRead, sweep := true } }
      arr := { s.arr with walks := s.arr.walks ++
        [{ who := .reclaim, sector := w.victim, offset := d.offset, words := d.recLen / 8, discard := false }] } })
    ∧ ((∀ d, ¬ named d) → s.drains w t)

/-- A walk whose record has been decided goes on: a sweep with its next question, another walk with the header at
`next` or, at the end of the data area, with the victim drained (R120, R121, R124). At the last word of a sector one
header word is read (log 12). -/
def State.walkGoesOn (s : State) (w : Walk) (next : Nat) (t : State) : Prop :=
  (w.sweep = true → s.sweeps w t)
    ∧ (w.sweep = false → 32768 ≤ next → s.drains w t)
    ∧ (w.sweep = false → next < 32768 → t = { s with
        sm := { s.sm with walk := some { w with offset := next, phase := .header } }
        arr := { s.arr with walks := s.arr.walks ++
          [{ who := .reclaim, sector := w.victim, offset := next, words := min 2 ((32768 - next) / 8), discard := false }] } })

/-! ## Mount (R10 to R13, R35, R139 to R142) -/

/-- Whether the records that follow a member of group `g` carry its run to its end (R12). -/
def runEnds (g : Nat) : List MountRec → Bool
  | [] => false
  | r :: rest => match r.group with
    | some (h, last) => h == g && (last || runEnds g rest)
    | none => false

/-- The records of one walk, each with R12's decision on it. -/
def decided : List MountRec → List (Bool × MountRec)
  | [] => []
  | r :: rest => ((match r.group with
      | some (g, last) => last || runEnds g rest
      | none => true), r) :: decided rest

/-- Mount asks for a read and waits for it in a phase. -/
def State.mountReads (s : State) (m : Mount) (phase : MountPhase) (sector offset words : Nat) (t : State) : Prop :=
  t = { s with
    arr := { s.arr with walks := s.arr.walks ++
      [{ who := .mount, sector := sector, offset := offset, words := words, discard := false }] }
    mount := some { m with phase := phase } }

/-- The Sector Table entry of a walked sector (R140, R141). -/
def walkedEntry (m : Mount) (openAt : Option OpenSector) (w : MountEnd) (e : SectorEntry) : SectorEntry :=
  let live := (m.entries.map (fun x => match x.durable with
    | some d => if d.sector = w.sector then d.recLen else 0
    | none => 0)).sum
  { e with
    live := live
    dead := (if w.how = .damaged then 32752 - live else w.offset - 16 - live)
    state := (if ∃ o, openAt = some o ∧ o.sector = w.sector then .opened else .full)
    appendOffset := (match openAt with
      | some o => if o.sector = w.sector then some o.offset else e.appendOffset
      | none => e.appendOffset) }

/-- Mount completes with what `m` has gathered and this open sector (R36 to R38, R118, R140 to R142). -/
def State.mountedAs (s : State) (m : Mount) (openAt : Option OpenSector) (t : State) : Prop :=
  let table := m.ends.foldl (fun x w => x.modify w.sector (walkedEntry m openAt w)) m.table
  let admitted := (m.entries.map (fun e => match e.durable with
    | some d => d.recLen
    | none => 0)).sum
  let limit := (128 - table.countP (fun e => e.state == .retired) - 4) * 28672
  let outcome : DeviceState :=
    if (eraseWords m.heads).isEmpty then .unformatted
    else if m.overflow then .readOnly
    else if limit < admitted then .readOnly
    else .online
  let count := fun st : SectorState => table.countP (fun e => e.state == st)
  let notices := if limit * 9 < admitted * 10 then joinNotice .spaceLow s.link.notices else s.link.notices
  t.sm = { s.sm with
      table := table
      epoch := m.epoch
      staleOrder := (List.range table.length).filter (fun n => (table.getD n SectorEntry.initial).state = .stale)
      lowSpace := if outcome = .unformatted then s.sm.lowSpace
        else if 6 ≤ count .erased + count .stale + count .erasing then false
        else if count .erased ≤ 4 then true
        else s.sm.lowSpace
      latchFor := if outcome = .unformatted then s.sm.latchFor else (count .erased, count .stale, count .erasing) }
    ∧ t.dir = { entries := m.entries, reserved := [], admitted := admitted, limit := limit }
    ∧ t.wq = { s.wq with seqCounter := some (m.maxSeq + 1) }
    ∧ t.lw = { s.lw with openAt := openAt, genCounter := some (m.maxGen + 1) }
    ∧ t.dev = { s.dev with state := outcome }
    ∧ t.link = { s.link with notices := if s.dev.state = outcome then notices else joinNotice .state notices }
    ∧ t.mount = none
    ∧ { t with sm := s.sm, dir := s.dir, wq := s.wq, lw := s.lw, dev := s.dev, link := s.link, mount := s.mount } = s

/-- Mount goes on with `m`: the next blank check, the next walk, the remainder of a candidate that passes the tests
of R141 so far, or its completion (R139 to R142; the order of the reads is the model's, log 22). -/
def State.mountGoesOn (s : State) (m : Mount) (t : State) : Prop :=
  let keepable := fun w : MountEnd => w.how = .allOnes ∧ w.blank = true ∧ w.torn = false ∧ 2056 ≤ 32768 - w.offset
  (∀ n rest, m.toCheck = n :: rest → s.mountReads m .blankCheck n 16 4094 t)
    ∧ (∀ n rest, m.toCheck = [] → m.toWalk = n :: rest → s.mountReads m (.walkFirst n 16) n 16 1 t)
    ∧ (∀ w, m.toCheck = [] → m.toWalk = [] → m.ends.getLast? = some w → keepable w →
        s.mountReads m (.remainder w.sector w.offset) w.sector (w.offset + 8) ((32768 - w.offset) / 8 - 1) t)
    ∧ (m.toCheck = [] → m.toWalk = [] → (∀ w, m.ends.getLast? = some w → ¬ keepable w) → s.mountedAs m none t)

/-! ## Records -/

/-- A record whose fields are in the ranges of R6 and R190, so that it has an image. -/
def Record.wellFormed (r : Record) : Bool :=
  decide (1 ≤ r.key.length ∧ r.key.length ≤ Config.maxKey ∧ r.value.length ≤ Config.maxValue)
    && decide (r.kind = .data ∨ r.value = []) && decide (1 ≤ r.seq ∧ r.seq < 2 ^ 48)
    && (match r.group with
      | none => true
      | some (g, _) => decide (1 ≤ g ∧ g < 65536 ∧ r.kind ≠ .loss))

/-! ## Restarts -/

/-- `t` is what a restart makes of `s`: every block at its restart value, the array as the operation under
way left it, the supply's condition and pins as they were, and the notices that the restart itself marks
(R136, R137, R153). -/
def State.restartsTo (s t : State) : Prop :=
  let supplyNotice := plainTx (noticeFrame [2, 1])
  t = { State.reset with
    link := { State.reset.link with
      txq := State.reset.link.txq ++ (if s.sup.condition = .hold then [supplyNotice] else []) }
    flash := s.cutArray.flash
    seeds := s.cutArray.seeds
    sup := { s.sup with holdTimer := false }
    pending := s.pending }

/-- The words that a restart, a power-on reset or nRESET may leave cut short: the word under way and the
erase word under way (R107, R110, R136). -/
def State.underWay (s : State) (sector index : Nat) : Prop :=
  (∃ w, s.arr.op = some (.word w) ∧ w.sector = sector ∧ w.index = index)
    ∨ (∃ r, s.arr.erase = some r ∧ r.phase = .header ∧ r.req.sector = sector ∧ index = 0)

/-! ## Frames and characters -/

/-- The command that a good frame is (R161, R183). -/
def frameCommand (f : Frame) : Instr :=
  match kindOf f.kind with
  | some k => requestCommand k f.tag f.flags f.payload
  | none => .unknownKindFrame f.kind f.tag f.flags f.payload

/-- Characters received one after another without a framing error. -/
def feed : List Byte → State → Option State
  | [], s => some s
  | b :: rest, s =>
    match exec (.characterReceived b false) s with
    | .next t => feed rest t
    | .fault _ | .refused _ => none

/-- A notice kind marked in an event waits in the Notice Set, or its frame has joined the Transmit Queue
behind `q` (R181). -/
def State.noticed (t : State) (k : NoticeKind) (q : List TxFrame) : Prop :=
  k ∈ t.link.notices ∨ ∃ e ∈ t.link.txq.drop q.length, e.frame.kind = kindNote ∧ e.frame.payload.head? = some (BitVec.ofNat 8 k.number)

/-- From `s` to `t` the receiver has dropped the frame in progress, marked FRAME_DROPPED, and nothing else
has changed but for notices queued (R176). -/
def State.dropsFrame (s t : State) : Prop :=
  (∃ notes : List TxFrame, (∀ e ∈ notes, e.frame.kind = kindNote) ∧ t.link.txq = s.link.txq ++ notes)
    ∧ { t.link with txq := s.link.txq, notices := s.link.notices } = s.link.hunt
    ∧ t.noticed .frameDropped s.link.txq ∧ { t with link := s.link } = s

/-! ## The laws of the blocks -/

/-- The array is held in its one canonical form (R1; log 5). -/
abbrev State.arrayOk (s : State) : Prop := s.flash.wf = true

/-- The Transmit Queue holds at most 32 frames (R180), and the gap timer runs exactly inside a frame
(R177). -/
abbrev State.linkOk (s : State) : Prop :=
  s.link.txq.length ≤ Config.maxTx ∧ (s.link.gap = true ↔ s.link.rx ≠ .hunt)

/-- At most 8 requests, no two with one tag; at most 8 cached replies, no two with one tag; no tag with
both a slot and a cached reply (R160, R167). -/
abbrev State.tableOk (s : State) : Prop :=
  s.req.slots.length ≤ Config.maxSlots ∧ (s.req.slots.map (fun sl => sl.tag)).Nodup
    ∧ s.req.cache.length ≤ Config.maxCache ∧ (s.req.cache.map (fun e => e.tag)).Nodup
    ∧ ∀ sl ∈ s.req.slots, ∀ e ∈ s.req.cache, sl.tag ≠ e.tag

/-- The keys of entries rise strictly in key order, so that no key has two entries (R20, R21). -/
abbrev keysRise (es : List Entry) : Prop := es.Pairwise (fun a b => keyLt a.key b.key = true)

/-- The Directory, and the one that mount is building, stand in key order; entries and reserved places
together are at most 3072 (R20, R21, R33, R35). -/
def State.directoryOk (s : State) : Prop :=
  keysRise s.dir.entries ∧ s.places ≤ Config.maxEntries
    ∧ ∀ m, s.mount = some m → keysRise m.entries ∧ m.entries.length ≤ Config.maxEntries

/-- The Write Queue holds at most 24 entries, the Staging Buffer at most 24576 bytes, and an open group at
most 16 members and 16384 bytes (R45, R46, R61). -/
def State.queueOk (s : State) : Prop :=
  s.wq.entries.length ≤ Config.maxQueue ∧ s.wq.charged ≤ Config.stagingBytes
    ∧ ∀ g, s.grp.group = some g → g.members.length ≤ Config.maxMembers ∧ g.bytes ≤ Config.maxStaged

/-- The record bytes of all Write Queue entries: the queued share of admitted bytes (R36). -/
def State.queuedShare (s : State) : Nat := (s.wq.entries.map (fun q => q.recLen)).sum

/-- The staged bytes of the open group: the staged share of admitted bytes (R36). -/
def State.stagedShare (s : State) : Nat :=
  match s.grp.group with
  | some g => g.bytes
  | none => 0

/-- The space accounts agree with what is held: queued counts with the Write Queue (R18, R19), admitted
bytes with the durable, queued and staged shares (R36), the Staging Buffer's charge with the queued and
staged shares (R46), staged bytes with the members (R61). While mount builds the Directory no
FORMAT runs and nothing is admitted (R22, R138), and what it has built has nothing queued. -/
def State.accountOk (s : State) : Prop :=
  keysRise s.dir.entries
    ∧ (∀ e ∈ s.dir.entries, e.queued = s.wq.entries.countP (fun q => q.key == e.key))
    ∧ (∀ q ∈ s.wq.entries, (s.entry q.key).isSome)
    ∧ s.dir.admitted = durableShare s.dir.entries + s.queuedShare + s.stagedShare
    ∧ s.wq.charged = s.queuedShare + s.stagedShare
    ∧ (∀ g, s.grp.group = some g → g.bytes = (g.members.map (fun m => m.recLen)).sum)
    ∧ (∀ m, s.mount = some m → s.dev.state = .mounting ∧ s.sm.format = none ∧ s.wq.entries = []
        ∧ s.grp.group = none ∧ keysRise m.entries ∧ ∀ e ∈ m.entries, e.queued = 0)

/-- The qualification timer runs only in HOLD (R152), and the hold timer only in HOLD with something
queued (R157). -/
abbrev State.timersOk (s : State) : Prop :=
  (s.sup.qualifying = true → s.sup.condition = .hold)
    ∧ (s.sup.holdTimer = true → s.sup.condition = .hold ∧ s.wq.entries ≠ [])

/-- The model's marks are clear between events (log 7). -/
abbrev State.marksOk (s : State) : Prop := s.dev.restartDue = false ∧ s.sm.wearDue = false

/-- Every OPEN sector is the Log Writer's open sector, so that at most one is OPEN; mount's provisional
table has none (R92, R141). -/
def State.openOk (s : State) : Prop :=
  (∀ n, n < s.sm.table.length → (s.sector n).state = .opened → ∃ o, s.lw.openAt = some o ∧ o.sector = n)
    ∧ ∀ m, s.mount = some m → ∀ e ∈ m.table, e.state ≠ .opened

end Sys2Proof.Machine
end

