-- ==== Sys2Proof/Certificates/Slice0/Obligations.lean ====
section
/-! DEFINITION. The statements for the provers. `f.tag`, `f.flags` and the payload of a request command are
those of its frame; byte lists in replies are the bytes of R187. -/

open Sys2Proof Sys2Proof.Machine

/-! ## The machine -/

/-- The command at the front of the queue runs on the state with the queue's rest; an empty queue idles (the
model's choice, log 1). -/
def Obligations.StepRunsFrontCommand : Prop :=
  (∀ (c : Instr) (rest : List Instr) (s : State),
    step { s with pending := c :: rest } = exec c { s with pending := rest })
  ∧ ∀ s : State, s.pending = [] → step s = .next s

/-- No command touches the queue of commands that wait, and none leaves a restart or a wear check of its event
undone (the model's marks, logs 1 and 7). The end of an event that may have changed any block is two rounds of the
blocks' considerations in a fixed order, the wear check, the end of a TIDY and the report of a drain, for a request
that arrives its PENDING, and then the restart if one is due, or else the array's next operation and the Notice Set;
an event that discards a group considers the Admission List, and calls for the rest when that changes it or the Write
Queue, and a request that joins an empty list when it joins the Write Queue. This order is the model's choice (log
17). -/
def Obligations.EventsEndClean : Prop :=
  (∀ (c : Instr) (s t : State), exec c s = .next t → t.pending = s.pending ∧ (s.marksOk → t.marksOk))
  ∧ ∀ (s : State) (tag : Byte),
    let round := fun x : State =>
      x.considerAdmissions.offerHost.arbitrate.advanceWriter.evalLatch.joinBatch.closeBatch.chooseVictim.relieve.requestErase
    let considered := (round (round s)).wearCheck.finishTidy.drainReport
    let ends := fun x : State => if x.dev.restartDue = true then x.restart else x.schedule.consult
    let listed := s.considerAdmissions
    let told := (listed.tellPending tag).consult
    s.settle = ends considered
    ∧ s.settleFor tag = ends (considered.tellPending tag)
    ∧ (listed.wq.entries.length = s.wq.entries.length →
        s.considerArrival tag = told
        ∧ (listed.wq.admission = s.wq.admission → s.afterDiscard = listed.consult)
        ∧ (listed.wq.admission ≠ s.wq.admission → s.afterDiscard = listed.settle))
    ∧ (listed.wq.entries.length ≠ s.wq.entries.length →
        s.considerArrival tag = listed.settleFor tag ∧ s.afterDiscard = listed.settle)

/-- Every command completes at every state whose array operation and erase lie in the array (R1): no command is
refused, and the one fault needs an operation outside the 128 × 4096 words (log 8). -/
def Obligations.EveryCommandCompletes : Prop :=
  ∀ (c : Instr) (s : State),
    (∀ r, s.arr.op = some (.read r) → r.sector < 128 ∧ r.offset / 8 + r.words ≤ 4096) →
    (∀ w, s.arr.op = some (.word w) → w.sector < 128 ∧ w.index < 4096) →
    (∀ r, s.arr.erase = some r → r.req.sector < 128) →
    ∃ t : State, exec c s = .next t

/-! ## Encodings -/

/-- A payload decodes as a request exactly when it is the encoding of that request and the request's fields are
in range; a HELLO's exactly when it is the encoding of a session id 1 to 65535 and of no baud choice or one of
the four rates (R169, R185, R186). -/
def Obligations.RequestsDecodeExactly : Prop :=
  (∀ (k : ReqKind) (bs : List Byte) (r : Request),
    decodeRequest k bs = some r ↔ (r.kind = k ∧ r.wellFormed = true ∧ r.encode = bs))
  ∧ ∀ (bs : List Byte) (id : Nat) (baud : Option Nat),
    decodeHello bs = some (id, baud) ↔
      (1 ≤ id ∧ id ≤ 65535 ∧ (∀ b, baud = some b → b ∈ [115200, 460800, 921600, 2000000]) ∧ encodeHello id baud = bs)

/-- A word is a valid erase word, or a valid open word, exactly when it is the one the part writes for its
fields (R3, R4, R189, R190). -/
def Obligations.SectorWordsDecodeExactly : Prop :=
  (∀ (w : Word) (epoch : BitVec 16) (count : Nat),
    decodeEraseWord w = some (epoch, count) ↔ (count ≤ 16777215 ∧ w = eraseWord epoch count))
  ∧ ∀ (w : Word) (gen : Nat),
    decodeOpenWord w = some gen ↔ (1 ≤ gen ∧ gen ≤ 4294967295 ∧ w = openWord gen)

/-- Every record that can be built is read back by the test of R9 from its own words, corrected words among them
or not, wherever it fits in a sector; its image has the record bytes of R8; and a GET whose descriptor names it
returns its value (R6, R8, R9, R80, R190). -/
def Obligations.RecordRoundTrip : Prop :=
  ∀ (r : Record), r.wellFormed = true →
    8 * r.words.length = r.bytes
    ∧ ∀ (ws : List RawWord), values? ws = some r.words →
      (∀ offset, offset + r.bytes ≤ 32768 → validRecord ws offset = some r)
      ∧ (r.kind = .data → ∀ d : ReadDescriptor,
          d.key = r.key → d.seq = r.seq → d.valLen = r.value.length → d.recLen = r.bytes → getValue ws d = some r.value)

/-- A frame's bytes, received one after another by a receiver in HUNT, hand exactly that frame to the Request
Table in the event of the last one: what follows is the command that the frame is, on the state with the
receiver back in HUNT (R175, R176, R183). -/
def Obligations.FrameThroughReceiver : Prop :=
  ∀ (f : Frame) (s : State),
    f.kind.length = 4 → f.payload.length ≤ 2080 → s.held = false → s.link.rx = .hunt →
    ∃ t : State, feed f.wire s = some t
      ∧ exec (frameCommand f) { s with link := { s.link with rx := .hunt, got := [], gap := false } } = .next t

/-- R183: the fields of every frame on the link in their order, FLAGS bits 1 to 7 of what the part sends as 0,
TAG 0 in notice frames. -/
def Obligations.FrameLayout : Prop :=
  (∀ f : Frame, f.kind.length = 4 → f.payload.length ≤ 2080 →
    ∃ body crc : List Byte, f.wire = [0x5A] ++ body ++ crc
      ∧ body = [BitVec.ofNat 8 f.payload.length, BitVec.ofNat 8 (f.payload.length / 256)] ++ f.kind ++ [f.tag] ++ [f.flags] ++ f.payload
      ∧ crc = [BitVec.ofNat 8 (crc16 body).toNat, BitVec.ofNat 8 ((crc16 body).toNat / 256)])
  ∧ (∀ f : Frame, f.retry = f.flags.getLsbD 0)
  ∧ (∀ tag payload, (replyFrame tag payload).flags = 0 ∧ (pendingFrame tag).flags = 0 ∧ (stillPendingFrame tag).flags = 0)
  ∧ ∀ payload, (noticeFrame payload).flags = 0 ∧ (noticeFrame payload).tag = 0

/-- R188: the payload of every notice, as the values stand when its frame is queued. The Notice Set keeps its kinds
in rising number, each at most once, and a consultation takes them from the lowest on: while 4 frames or fewer wait,
a kind's frame joins the tail of the Transmit Queue and the kind leaves the set (R181). -/
def Obligations.NoticePayloads : Prop :=
  (∀ s : State,
    noticePayload s .state = [1, BitVec.ofNat 8 s.dev.state.code]
    ∧ noticePayload s .supply = [2, BitVec.ofNat 8 s.sup.condition.code]
    ∧ noticePayload s .sectorRetired = [3, BitVec.ofNat 8 (s.sm.table.countP (fun e => e.state == .retired))]
    ∧ noticePayload s .spaceLow = [4] ++ le 4 s.dir.admitted ++ le 4 s.dir.limit
    ∧ noticePayload s .frameDropped = [5]
    ∧ noticePayload s .linkReset = [6] ++ le 4 s.link.rate
    ∧ noticePayload s .wear =
        [7] ++ le 3 (((s.sm.table.filter (fun e => e.state != .retired)).map (fun e => e.eraseCount)).foldl max 0)
            ++ le 3 (lowestCount (fun e => e.state == .full) s.sm.table))
  ∧ (∀ s : State,
    let most := 5 - s.link.txq.length
    let frames := (s.link.notices.take most).map (fun k => TxFrame.mk (noticeFrame (noticePayload s k)) none false)
    s.consult = { s with link := { s.link with txq := s.link.txq ++ frames, notices := s.link.notices.drop most } })
  ∧ ∀ (k : NoticeKind) (l : List NoticeKind), l.Pairwise (fun a b => a.number < b.number) →
    (joinNotice k l).Pairwise (fun a b => a.number < b.number)
    ∧ (∀ j, j ∈ joinNotice k l ↔ j = k ∨ j ∈ l)
    ∧ (k ∈ l → joinNotice k l = l)

/-! ## Laws that every step keeps -/

/-- The model's reset state, with a blank array, the supply NORMAL and epoch 0 (logs 5, 6 and 26), meets every
law below, the canonical form of the array and the model's marks among them (logs 5 and 7); that no sector is OPEN
in mount's provisional table rests on the entries it starts with (log 31). -/
def Obligations.ResetMeetsLaws : Prop :=
  State.reset.arrayOk ∧ State.reset.linkOk ∧ State.reset.tableOk ∧ State.reset.directoryOk ∧ State.reset.queueOk
    ∧ State.reset.accountOk ∧ State.reset.timersOk ∧ State.reset.marksOk ∧ State.reset.openOk

/-- The array is held in its one canonical form (the model's, log 5), whatever a command does to it (R1, R2). -/
def Obligations.ArrayStaysCanonical : Prop :=
  ∀ s t : State, s.arrayOk → step s = .next t → t.arrayOk

/-- The Transmit Queue never holds more than 32 frames (R180), and the gap timer runs exactly while the receiver
is inside a frame (R177). The qualification timer runs only in HOLD (R152), and the hold timer only in HOLD
while something is queued (R157). -/
def Obligations.LinkAndTimersKeepTheirLaws : Prop :=
  (∀ s t : State, s.linkOk → step s = .next t → t.linkOk)
  ∧ (∀ s t : State, s.timersOk → step s = .next t → t.timersOk)

/-- The Request Table holds at most 8 requests and 8 cached replies, no two requests and no two cached replies
with one tag, and no tag has both a slot and a cached reply (R160, R167). -/
def Obligations.RequestTableKeepsItsLaws : Prop :=
  ∀ s t : State, s.tableOk → step s = .next t → t.tableOk

/-- The Directory, and the one mount builds, keeps its entries in key order, one for any key; entries and
reserved places together never exceed 3072 (R20, R21, R33, R35). -/
def Obligations.DirectoryKeepsItsLaws : Prop :=
  ∀ s t : State, s.directoryOk → step s = .next t → t.directoryOk

/-- The Write Queue never holds more than 24 entries, the Staging Buffer never more than 24576 bytes, an open
group never more than 16 members or 16384 bytes (R45, R46, R61). -/
def Obligations.QueuesKeepTheirBounds : Prop :=
  ∀ s t : State, s.queueOk → step s = .next t → t.queueOk

/-- Admitted bytes are always the sum of the durable, the queued and the staged share, and the Staging Buffer's
charge the sum of the last two, with every entry's queued count the number of its key's entries in the Write
Queue (R18, R36, R46, R61). -/
def Obligations.SpaceAccountsAgree : Prop :=
  ∀ s t : State, s.accountOk → step s = .next t → t.accountOk

/-- At most one sector is OPEN at any time: the Log Writer's open sector (R92, R141). -/
def Obligations.OneSectorOpen : Prop :=
  ∀ s t : State, s.openOk → step s = .next t → t.openOk

/-! ## Every request frame (R161, R166, R138) -/

/-- A frame decided as new whose tag is in use is answered TAG_IN_USE, and one that finds all 8 slots in use
TABLE_FULL; nothing else changes, and neither reply is cached (R161, steps 3 and 4; R167). A retry that matches
a slot of the current session is answered STILL_PENDING, one that matches a cached reply is answered by that
reply, and any other is handled as the frame without its RETRY flag (R166). -/
def Obligations.FrameSettledWithoutSlot : Prop :=
  (∀ (s : State) (f : Frame), s.fresh f = true → kindOf f.kind ≠ some .hello →
    ((∃ sl, s.slot f.tag = some sl) → ∃ t : State, exec (frameCommand f) s = .next t ∧ s.toldOff f [8] t)
    ∧ (s.slot f.tag = none → 8 ≤ s.req.slots.length → ∃ t : State, exec (frameCommand f) s = .next t ∧ s.toldOff f [7] t))
  ∧ (∀ (s : State) (f : Frame), s.held = false → f.retry = true → kindOf f.kind ≠ some .hello →
    (∀ sl, s.slot f.tag = some sl → sl.session = .current → sl.digest = f.digest →
      ∃ t : State, exec (frameCommand f) s = .next t
        ∧ s.resent { kind := kindPend, tag := f.tag, flags := 0, payload := [20] } t)
    ∧ (∀ e, s.slot f.tag = none → s.req.cache.find? (fun x => x.tag == f.tag) = some e → e.digest = f.digest →
      ∃ t : State, exec (frameCommand f) s = .next t ∧ s.resent e.frame t)
    ∧ ((∀ sl, s.slot f.tag = some sl → sl.session = .ended ∨ sl.digest ≠ f.digest) →
       (s.slot f.tag = none → ∀ e, s.req.cache.find? (fun x => x.tag == f.tag) = some e → e.digest ≠ f.digest) →
      exec (frameCommand f) s = exec (frameCommand { f with flags := 0 }) s))

/-- The device state and the restart latch refuse a decoded request with the status of R138's table, and it has
no other effect. A frame that takes a slot and whose payload does not decode, or whose KIND is no request, is
answered BAD_REQUEST and has no other effect; UNKNOWN_KIND_FRAME is a frame of the second sort (R161, R186). -/
def Obligations.FramesRefused : Prop :=
  (∀ (s : State) (f : Frame) (k : ReqKind) (r : Request),
    s.accepts f = true → kindOf f.kind = some k → decodeRequest k f.payload = some r →
    let refusedWith := fun (st : Byte) => ∃ t : State, exec (frameCommand f) s = .next t ∧ s.answered f [st] t
    (s.dev.restartLatch = true → refusedWith 9)
    ∧ (s.dev.restartLatch = false →
      (s.dev.state = .mounting ∨ s.dev.state = .formatting → refusedWith 9)
      ∧ (s.dev.state = .unformatted → k ∈ [.get, .stat, .list, .put, .delete, .commit, .fence, .beginGroup, .abort, .tidy] →
          refusedWith 11)
      ∧ (s.dev.state = .readOnly → k ∈ [.put, .delete, .commit, .beginGroup, .tidy] → refusedWith 10)
      ∧ (s.dev.state = .draining → k ∈ [.put, .delete, .commit, .beginGroup, .tidy, .format] → refusedWith 9)))
  ∧ ((∀ (s : State) (f : Frame), s.accepts f = true → kindOf f.kind ≠ some .hello →
    (∀ k, kindOf f.kind = some k → decodeRequest k f.payload = none) →
    ∃ t : State, exec (frameCommand f) s = .next t ∧ s.answered f [6] t)
  ∧ ∀ (s : State) (kind : List Byte) (tag flags : Byte) (payload : List Byte),
    s.accepts { kind := kind, tag := tag, flags := flags, payload := payload } = true → kindOf kind = none →
    ∃ t : State, exec (.unknownKindFrame kind tag flags payload) s = .next t
      ∧ s.answered { kind := kind, tag := tag, flags := flags, payload := payload } [6] t)

/-! ## HELLO (R169 to R171) -/

/-- HELLO: one that does not decode is answered BAD_REQUEST with no other effect; one that decodes orphans every
slot, empties the Replay Cache, discards the open group, sets the session and is answered, in every device state
and with no slot (R73, R169 to R171). That a discarded group's waiting requests are considered after the reply,
and not before it as R170 with step 3 of R73 may be read, is the model's choice (log 17). -/
def Obligations.HelloDecided : Prop :=
  ∀ (s : State) (tag flags : Byte) (payload : List Byte), s.held = false →
    let f := requestFrame .hello tag flags payload
    (decodeHello payload = none → ∃ t : State, exec (.hello tag flags payload) s = .next t ∧ s.toldOff f [6] t)
    ∧ ∀ id baud, decodeHello payload = some (id, baud) →
      ∃ u : State, exec (.hello tag flags payload) s = .next (if s.grp.group.isSome then u.afterDiscard else u.consult)
        ∧ (s.grp.group = none ∨ s.wq.admission = [] → exec (.hello tag flags payload) s = .next u.consult)
        ∧ (let reply := replyFrame tag ([0] ++ [13] ++ identityText ++ [Config.revision] ++ le 2 id
              ++ [BitVec.ofNat 8 s.dev.state.code, 8] ++ le 2 3072 ++ [32] ++ le 2 2000 ++ le 4 s.dir.limit
              ++ le 4 (baud.getD s.link.settledRate))
           u = { s with
             link := { s.link with txq := s.txAfter (TxFrame.mk reply baud false) }
             req := { slots := s.req.slots.map (fun sl => { sl with session := .ended }), cache := [], session := id }
             dir := { s.dir with admitted := s.dir.admitted - s.stagedShare }
             wq := { s.wq with charged := s.wq.charged - s.stagedShare }
             grp := { s.grp with group := none } })

/-! ## Reading (R77 to R89) -/

/-- STAT: NOT_FOUND without an entry; otherwise the entry's newest view, its durable sequence if it has a
durable part, and its queued count (R85). GET at its lookup: NOT_FOUND for a key without an entry or in state
TOMBSTONE, CORRUPT with the sequence for a LOST one, and the value of the key's last Write Queue entry for a key
with a queued write (R77, R78). That the bits of STAT's presence byte without a name are 0 is the model's reading
(log 32). -/
def Obligations.KeyAnsweredAtLookup : Prop :=
  (∀ (s : State) (tag flags : Byte) (payload : List Byte) (k : Key),
    let f := requestFrame .stat tag flags payload
    s.takes .stat f (.stat k) = true →
    ∃ t : State, exec (.stat tag flags payload) s = .next t
      ∧ (s.entry k = none → s.answered f [1] t)
      ∧ ∀ e, s.entry k = some e →
        s.answered f ([0] ++ [if e.durable.isSome then 1 else 0, BitVec.ofNat 8 e.state.code] ++ le 2 e.newestLen
          ++ le 6 e.newestSeq ++ (match e.durable with
            | some d => le 6 d.seq
            | none => []) ++ [BitVec.ofNat 8 e.queued]) t)
  ∧ (∀ (s : State) (tag flags : Byte) (payload : List Byte) (k : Key),
    let f := requestFrame .get tag flags payload
    s.takes .get f (.get k) = true →
    (s.entry k = none → ∃ t : State, exec (.get tag flags payload) s = .next t ∧ s.answered f [1] t)
    ∧ ∀ e, s.entry k = some e →
      (e.state = .tombstone → ∃ t : State, exec (.get tag flags payload) s = .next t ∧ s.answered f [1] t)
      ∧ (e.state = .lost → ∃ t : State, exec (.get tag flags payload) s = .next t ∧ s.answered f ([12] ++ le 6 e.newestSeq) t)
      ∧ ∀ before q after, e.state = .present → 0 < e.queued → s.wq.entries = before ++ q :: after → q.key = k →
          (∀ x ∈ after, x.key ≠ k) →
          ∃ t : State, exec (.get tag flags payload) s = .next t
            ∧ s.answered f ([0] ++ le 2 q.value.length ++ q.value ++ le 6 e.newestSeq ++ [0]) t)

/-- GET of a PRESENT key with nothing queued: a read of its durable record joins class 1, the sector's readers
count rises, and the GET waits with its descriptor and without PENDING; a free array starts the oldest read of
the class (R79, R108, R164). When the read completes, corrected words are counted, the readers count falls, and
the GET is answered from its descriptor with the value read, or CORRUPT when the words do not hold its record
(R80, R109). The blocks it concerns then act. -/
def Obligations.GetReadsTheArray : Prop :=
  (∀ (s : State) (tag flags : Byte) (payload : List Byte) (k : Key) (e : Entry) (d : DurablePart),
    let f := requestFrame .get tag flags payload
    s.takes .get f (.get k) = true → s.entry k = some e → e.state = .present → e.queued = 0 → e.durable = some d →
    let r : ReadReq := { who := .get tag, sector := d.sector, offset := d.offset, words := d.recLen / 8, discard := false }
    let reads := s.arr.gets ++ [r]
    let slot : Slot := { newSlot (some .get) f with
      request := some (.get k), state := .waiting, wait := some .flashRead, progress := .reading
        { key := k, sector := d.sector, offset := d.offset, recLen := d.recLen, seq := d.seq, valLen := d.valLen } }
    ∃ t : State, exec (.get tag flags payload) s = .next t
      ∧ s.queued s.link.txq t
      ∧ t.req = { s.req with slots := s.req.slots ++ [slot], cache := s.req.cache.filter (fun x => x.tag != tag) }
      ∧ t.sm = { s.sm with table := s.sm.table.modify d.sector (fun x => { x with readers := x.readers + 1 }) }
      ∧ t.arr = (if s.arr.free then { s.arr with op := reads.head?.map .read, gets := reads.drop 1 }
                 else { s.arr with gets := reads })
      ∧ { t with link := s.link, req := s.req, sm := s.sm, arr := s.arr } = s)
  ∧ (∀ (s : State) (decayed : List (Nat × RawWord)) (r : ReadReq) (tag : Byte) (sl : Slot) (d : ReadDescriptor),
    s.held = false → s.arr.op = some (.read r) → r.who = .get tag → r.inside = true →
    s.slot tag = some sl → sl.progress = .reading d →
    let flash := s.flash.decay r decayed
    let words := flash.read r
    ∃ u : State, exec (.getReadComplete decayed) s = .next u.settle
      ∧ s.closed sl (match getValue words d with
          | some v => [0] ++ le 2 v.length ++ v ++ le 6 d.seq ++ [1]
          | none => [12] ++ le 6 d.seq) u
      ∧ u.arr = { s.arr with op := none } ∧ u.flash = flash
      ∧ u.sm = { s.sm with table := s.sm.table.modify r.sector (fun e =>
          { e with corrected := min 65535 (e.corrected + words.countP (fun x : RawWord => x.ecc == Ecc.corrected)), readers := e.readers - 1 }) }
      ∧ { u with link := s.link, req := s.req, arr := s.arr, flash := s.flash, sm := s.sm } = s)

/-- LIST takes its first step at once, and LIST_STEP a later one: the listing goes on in its slot, or ends and
is answered with the items it has gathered (R86 to R88). One step, over a Directory in key order, passes exactly
one entry, keeps its items in key order and within its maximum count and 2048 bytes; when it ends with a clear more
flag no PRESENT or LOST key after its cursor is missing from its items, and when it ends with a set one a PRESENT or
LOST key stands behind its cursor and behind every item (R87 to R89). That the flag's byte is 1 or 0 is the model's
reading (log 32). -/
def Obligations.ListingStepsAndEnds : Prop :=
  ((∀ (s : State) (tag flags : Byte) (payload : List Byte) (after : Option Key) (max : Nat),
    let f := requestFrame .list tag flags payload
    s.takes .list f (.list after max) = true →
    ∃ t : State, exec (.list tag flags payload) s = .next t
      ∧ match (Listing.mk after max [] 0).step s.dir.entries with
        | .goesOn l => t = { s with req := { s.req with
            slots := s.req.slots ++ [{ newSlot (some .list) f with request := some (.list after max), progress := .listing l }]
            cache := s.req.cache.filter (fun x => x.tag != tag) } }
        | .ends items more => s.answered f ([0] ++ listFields items more) t)
  ∧ ∀ (s : State) (tag : Byte) (sl : Slot) (l : Listing),
    s.held = false → s.slot tag = some sl → sl.progress = .listing l →
    ∃ t : State, exec (.listStep tag) s = .next t
      ∧ match l.step s.dir.entries with
        | .goesOn l' => t = { s with req := { s.req with
            slots := s.req.slots.map (fun x => if x.tag = tag then { x with progress := .listing l' } else x) } }
        | .ends items more => s.closed sl ([0] ++ listFields items more) t ∧ s.otherwiseSame t)
  ∧ (∀ (es : List Entry) (l : Listing), keysRise es →
    l.items.length < l.max → l.bytes = (l.items.map ListItem.size).sum → l.bytes ≤ 2048 →
    l.items.Pairwise (fun a b => keyLt a.key b.key = true) →
    (∀ i ∈ l.items, ∃ c, l.cursor = some c ∧ (i.key = c ∨ keyLt i.key c = true)) →
    match l.step es with
    | .goesOn l' => l'.max = l.max ∧ l'.items.length < l'.max ∧ l'.bytes = (l'.items.map ListItem.size).sum ∧ l'.bytes ≤ 2048
        ∧ l'.items.Pairwise (fun a b => keyLt a.key b.key = true)
        ∧ (∀ i ∈ l'.items, ∃ c, l'.cursor = some c ∧ (i.key = c ∨ keyLt i.key c = true))
        ∧ ∃ e, entryAfter l.cursor es = some e ∧ l'.cursor = some e.key
          ∧ l'.items = l.items ++ (if e.state = .tombstone then [] else [ListItem.mk e.key e.state e.newestLen e.newestSeq])
    | .ends items more => items.length ≤ l.max ∧ (items.map ListItem.size).sum ≤ 2048 ∧ l.items <+: items
        ∧ items.Pairwise (fun a b => keyLt a.key b.key = true)
        ∧ (more = false → ∀ e ∈ es, e.state ≠ .tombstone →
            (∀ c, l.cursor = some c → keyLt c e.key = true) → ∃ i ∈ items, i.key = e.key ∧ i.seq = e.newestSeq)
        ∧ (more = true → ∃ e ∈ es, e.state ≠ .tombstone ∧ (∀ c, l.cursor = some c → keyLt c e.key = true)
            ∧ ∀ i ∈ items, keyLt i.key e.key = true))

/-! ## Lone PUT and DELETE (R39 to R44, R51) -/

/-- A lone PUT or DELETE considered at once is refused by the first check that fails, in the order of R42 and
R43, and has no other effect; one that finds no room is kept at the head of the Admission List and waits with
PENDING. A PUT, DELETE, FENCE or COMMIT that arrives while requests wait joins the tail and waits with PENDING;
a group-flagged write and a COMMIT are bound to the group open now (R39, R40, R42, R43, R63, R164). -/
def Obligations.WriteNotAdmittedAtOnce : Prop :=
  (∀ (s : State) (deletes : Bool) (tag flags : Byte) (payload : List Byte) (w : WriteFields),
    let f := requestFrame (writeReqKind deletes) tag flags payload
    s.takesWrite deletes f w = true → w.group = false → s.listOpen → s.wq.mediaFault = false →
    let refusedWith := fun (reply : List Byte) =>
      ∃ t : State, exec (writeCommand deletes tag flags payload) s = .next t ∧ s.answered f reply t
    (¬ sizesFit deletes w → refusedWith [5])
    ∧ (sizesFit deletes w → ¬ s.deletable deletes w.key → refusedWith [1])
    ∧ (sizesFit deletes w → s.deletable deletes w.key → ¬ s.condHolds w →
        refusedWith ([2] ++ le 6 (s.checkSeq w.key) ++ [0]))
    ∧ (sizesFit deletes w → s.deletable deletes w.key → s.condHolds w → ¬ s.placeFree w.key → refusedWith [4])
    ∧ (sizesFit deletes w → s.deletable deletes w.key → s.condHolds w → s.placeFree w.key →
        ¬ s.spaceFree (writeBytes deletes w) → refusedWith [3]))
  ∧ ((∀ (s : State) (deletes : Bool) (tag flags : Byte) (payload : List Byte) (w : WriteFields),
    let f := requestFrame (writeReqKind deletes) tag flags payload
    s.takesWrite deletes f w = true → w.group = false → s.listOpen → s.wq.mediaFault = false →
    s.passesLone deletes w → ¬ s.roomFree (writeBytes deletes w) →
    ∃ t : State, exec (writeCommand deletes tag flags payload) s = .next t
      ∧ s.parked f (waitingSlot (writeReqKind deletes) f (writeRequest deletes w) none .admission) t
      ∧ t.wq = { s.wq with admission := [tag] } ∧ { t with link := s.link, req := s.req, wq := s.wq } = s)
  ∧ ∀ (s : State) (k : ReqKind) (tag flags : Byte) (payload : List Byte) (r : Request),
    let f := requestFrame k tag flags payload
    k ∈ [.put, .delete, .fence, .commit] → s.takes k f r = true → s.wq.admission ≠ [] →
    ∃ t : State, exec (requestCommand k tag flags payload) s = .next t
      ∧ s.parked f (waitingSlot k f r (if r.binds then s.grp.group.map (fun g => g.id) else none) .admission) t
      ∧ t.wq = { s.wq with admission := s.wq.admission ++ [tag] } ∧ { t with link := s.link, req := s.req, wq := s.wq } = s)

/-- A lone PUT or DELETE that passes its checks is admitted at once: it takes the next sequence, becomes its
key's newest view, adds its record bytes to admitted bytes and to the Staging Buffer, joins the tail of the
Write Queue, starts the hold timer in HOLD, and is answered OK with its sequence or, with its durable flag,
waits (R14, R23, R38, R44, R51, R157). The blocks it concerns then act, and PENDING follows every reply of the
event if the write still waits (R164; the order is the model's, log 17). -/
def Obligations.LoneWriteAdmitted : Prop :=
  ∀ (s : State) (deletes : Bool) (tag flags : Byte) (payload : List Byte) (w : WriteFields) (seq : Nat),
    let f := requestFrame (writeReqKind deletes) tag flags payload
    s.takesWrite deletes f w = true → w.group = false → s.listOpen → s.wq.mediaFault = false →
    s.passesLone deletes w → s.roomFree (writeBytes deletes w) → s.wq.seqCounter = some seq →
    ∃ u : State, exec (writeCommand deletes tag flags payload) s = .next (u.settleFor tag) ∧ u.tells tag
      ∧ s.admitsLone tag deletes w seq u
      ∧ (if w.durable then
            s.waits f { waitingSlot (writeReqKind deletes) f (writeRequest deletes w) none .durable with pendingSent := false } u
         else s.replied f ([0] ++ le 6 seq) { u with link := { u.link with notices := s.link.notices } })

/-! ## Groups and fences (R40, R52, R62 to R73) -/

/-- BEGIN: a group is opened with the counter's id, no members and no bytes, and the counter advances from 65535
to 1; with a group open it is refused with GROUP_STATE (R62). A group-flagged PUT or DELETE considered at once:
refused by the first check of R64 and R65 that fails, kept for want of Staging Buffer room, or staged as the
group's next member and answered OK with its index (R64 to R66). -/
def Obligations.GroupOpenedAndFilled : Prop :=
  (∀ (s : State) (tag flags : Byte) (payload : List Byte),
    let f := requestFrame .beginGroup tag flags payload
    s.takes .beginGroup f .beginGroup = true →
    ∃ t : State, exec (.beginGroup tag flags payload) s = .next t
      ∧ (∀ g, s.grp.group = some g → s.answered f [13] t)
      ∧ (s.grp.group = none →
          s.replied f ([0] ++ le 2 s.grp.counter) t
          ∧ t.grp = { group := some { id := s.grp.counter, members := [], bytes := 0 },
                      counter := if s.grp.counter = 65535 then 1 else s.grp.counter + 1 }
          ∧ { t with link := s.link, req := s.req, grp := s.grp } = s))
  ∧ (∀ (s : State) (deletes : Bool) (tag flags : Byte) (payload : List Byte) (w : WriteFields),
    let f := requestFrame (writeReqKind deletes) tag flags payload
    s.takesWrite deletes f w = true → w.group = true → s.listOpen → s.wq.mediaFault = false →
    let b := writeBytes deletes w
    ∃ t : State, exec (writeCommand deletes tag flags payload) s = .next t
      ∧ (s.grp.group = none → s.answered f [13] t)
      ∧ ∀ g, s.grp.group = some g →
        (¬ sizesFit deletes w → s.answered f [5] t)
        ∧ (sizesFit deletes w → 16 ≤ g.members.length ∨ 16384 < g.bytes + b → s.answered f [14] t)
        ∧ (sizesFit deletes w → g.members.length < 16 → g.bytes + b ≤ 16384 → ¬ s.spaceFree b → s.answered f [3] t)
        ∧ (sizesFit deletes w → g.members.length < 16 → g.bytes + b ≤ 16384 → s.spaceFree b →
            24576 < s.wq.charged + b →
            s.parked f (waitingSlot (writeReqKind deletes) f (writeRequest deletes w) (some g.id) .admission) t
            ∧ t.wq = { s.wq with admission := [tag] } ∧ { t with link := s.link, req := s.req, wq := s.wq } = s)
        ∧ (sizesFit deletes w → g.members.length < 16 → g.bytes + b ≤ 16384 → s.spaceFree b →
            s.wq.charged + b ≤ 24576 →
            s.replied f [0, BitVec.ofNat 8 (g.members.length + 1)] t
            ∧ t.grp = { s.grp with group := some { g with
                members := g.members ++ [{ key := w.key, kind := writeKind deletes, value := writeValue deletes w,
                                           recLen := b, ifSeq := w.ifSeq }]
                bytes := g.bytes + b } }
            ∧ t.dir = { s.dir with admitted := s.dir.admitted + b }
            ∧ t.wq = { s.wq with charged := s.wq.charged + b }
            ∧ { t with link := s.link, req := s.req, grp := s.grp, dir := s.dir, wq := s.wq } = s))

/-- FENCE considered at once: its outcome starts from the failure note, which it clears; the boundary becomes
the newest sequence; with the queue empty it is answered, otherwise it waits for the queue's tail (R52). -/
def Obligations.FenceDecided : Prop :=
  ∀ (s : State) (tag flags : Byte) (payload : List Byte),
    let f := requestFrame .fence tag flags payload
    s.takes .fence f .fence = true → s.listOpen →
    let wq' := { s.wq with failureNote := false, fenceBoundary := s.wq.seqCounter.getD 1 - 1 }
    ∃ t : State, exec (.fence tag flags payload) s = .next t
      ∧ (s.wq.entries = [] → s.replied f [if s.wq.failureNote then 19 else 0] t ∧ t.wq = wq'
          ∧ { t with link := s.link, req := s.req, wq := s.wq } = s)
      ∧ ∀ before e, s.wq.entries = before ++ [e] →
          s.parked f (waitingSlot .fence f .fence none .fence) t
          ∧ t.wq = { wq' with fences := s.wq.fences ++ [{ tag := tag, mark := e.seq, failed := s.wq.failureNote }] }
          ∧ { t with link := s.link, req := s.req, wq := s.wq } = s

/-- The commit checks take the members in order: a commit passes when every DELETE member's key reads as present
in the commit view (the last earlier member of the key decides, or else the Directory) and every if-sequence is
its key's check sequence in the Directory; otherwise the first failing member decides (R68). COMMIT considered
at once, when nothing joins the Write Queue: without its group it is refused with GROUP_STATE; a failing check,
or more new keys than places, refuses it and discards the group; an empty group commits with no members; a group
that finds too few free entries keeps waiting with reason COMMIT (R63, R68 to R70, R73). That the bits of the reply's
presence byte without a name are 0 is the model's reading (log 32). -/
def Obligations.CommitChecked : Prop :=
  (∀ (s : State) (ms : List Member),
    let present := fun (i : Nat) (k : Key) =>
      match ((ms.take i).reverse).find? (fun m => m.key == k) with
      | some m => m.kind = .data
      | none => s.isAbsent k = false
    let passes := fun (i : Nat) (m : Member) =>
      (m.kind = .tombstone → present i m.key) ∧ ∀ q, m.ifSeq = some q → q = s.checkSeq m.key
    (s.commitCheck ms [] 1 = none ↔ ∀ i m, ms[i]? = some m → passes i m)
    ∧ ∀ st i q, s.commitCheck ms [] 1 = some (st, i, q) →
      ∃ m, 1 ≤ i ∧ ms[i - 1]? = some m ∧ (∀ j x, j + 1 < i → ms[j]? = some x → passes j x)
        ∧ (st = .notFound ∧ m.kind = .tombstone ∧ ¬ present (i - 1) m.key
           ∨ st = .conflict ∧ (m.kind = .tombstone → present (i - 1) m.key) ∧ (∃ x, m.ifSeq = some x ∧ x ≠ q)
             ∧ q = s.checkSeq m.key))
  ∧ (∀ (s : State) (tag flags : Byte) (payload : List Byte),
    let f := requestFrame .commit tag flags payload
    s.takes .commit f .commit = true → s.listOpen → s.wq.mediaFault = false →
    (s.grp.group = none → ∃ t : State, exec (.commit tag flags payload) s = .next t ∧ s.answered f [13] t)
    ∧ ∀ g, s.grp.group = some g →
      let refusedWith := fun (reply : List Byte) => ∃ t : State, exec (.commit tag flags payload) s = .next t
        ∧ s.replied f reply t ∧ t.grp = { s.grp with group := none }
        ∧ t.dir = { s.dir with admitted := s.dir.admitted - g.bytes }
        ∧ t.wq = { s.wq with charged := s.wq.charged - g.bytes }
        ∧ { t with link := s.link, req := s.req, grp := s.grp, dir := s.dir, wq := s.wq } = s
      (∀ i q, s.commitCheck g.members [] 1 = some (.notFound, i, q) → refusedWith ([1] ++ le 1 i))
      ∧ (∀ i q, s.commitCheck g.members [] 1 = some (.conflict, i, q) → refusedWith ([2] ++ le 6 q ++ le 1 i))
      ∧ (s.commitCheck g.members [] 1 = none →
          (3072 - s.places < s.newPlaces g.members → refusedWith [4])
          ∧ (s.newPlaces g.members ≤ 3072 - s.places → 24 - s.wq.entries.length < g.members.length →
              ∃ t : State, exec (.commit tag flags payload) s = .next t
                ∧ s.parked f (waitingSlot .commit f .commit (some g.id) .commit) t
                ∧ t.wq = { s.wq with admission := [tag] } ∧ { t with link := s.link, req := s.req, wq := s.wq } = s)
          ∧ (g.members = [] →
              ∃ t : State, exec (.commit tag flags payload) s = .next t ∧ s.replied f [0, 0, 0] t
                ∧ t.grp = { s.grp with group := none } ∧ { t with link := s.link, req := s.req, grp := s.grp } = s)))

/-- COMMIT of a group that passes: its members take consecutive sequences, join the tail of the Write Queue as
one run with the COMMIT's slot on the last, become their keys' newest views in member order, and the COMMIT
waits; durable parts, flash copies, admitted bytes and the charge stay (R14, R23, R24, R70). The blocks it concerns then act, and PENDING follows
every reply of the event if the COMMIT still waits (R164; the order is the model's, log 17). -/
def Obligations.CommitAdmitted : Prop :=
  ∀ (s : State) (tag flags : Byte) (payload : List Byte) (g : OpenGroup) (seq : Nat),
    let f := requestFrame .commit tag flags payload
    s.takes .commit f .commit = true → s.listOpen → s.wq.mediaFault = false → s.grp.group = some g →
    g.members ≠ [] → s.commitCheck g.members [] 1 = none → s.newPlaces g.members ≤ 3072 - s.places →
    s.wq.entries.length + g.members.length ≤ 24 → s.wq.seqCounter = some seq → keysRise s.dir.entries →
    ∃ u : State, exec (.commit tag flags payload) s = .next (u.settleFor tag) ∧ u.tells tag
      ∧ s.admitsRun tag g seq u
      ∧ s.waits f { waitingSlot .commit f .commit (some g.id) .durable with pendingSent := false } u
      ∧ u.link.notices = s.link.notices

/-- ABORT: the open group is discarded, its bytes leave admitted bytes and the Staging Buffer, and the reply
gives its member count. Without a group it is refused with GROUP_STATE (R72, R73). That the Admission List is
considered after the reply, and not before it as step 3 of R73 may be read, is the model's choice (log 17). -/
def Obligations.AbortDecided : Prop :=
  ∀ (s : State) (tag flags : Byte) (payload : List Byte),
    let f := requestFrame .abort tag flags payload
    s.takes .abort f .abort = true →
    (s.grp.group = none → ∃ t : State, exec (.abort tag flags payload) s = .next t ∧ s.answered f [13] t)
    ∧ ∀ g, s.grp.group = some g →
      ∃ u : State, exec (.abort tag flags payload) s = .next u.afterDiscard
        ∧ (s.wq.admission = [] → exec (.abort tag flags payload) s = .next u.consult)
        ∧ s.replied f ([0] ++ le 1 g.members.length) u
        ∧ u.grp = { s.grp with group := none }
        ∧ u.dir = { s.dir with admitted := s.dir.admitted - g.bytes }
        ∧ u.wq = { s.wq with charged := s.wq.charged - g.bytes }
        ∧ { u with link := s.link, req := s.req, grp := s.grp, dir := s.dir, wq := s.wq } = s

/-- The request at the head of the Admission List, considered again: it is checked in full against the state as
it stands. A PUT, DELETE or COMMIT is refused in READ_ONLY and with the media-fault latch set (R41), the COMMIT
with its group discarded if that is still open (R68); a member or a COMMIT whose group is no longer open is
refused with GROUP_STATE, and the open group is not changed (R63); the checks of its kind then refuse it, keep
it, or admit or stage it (R42, R43, R64 to R66, R68 to R70). A FENCE is admitted (R52). When the head leaves,
the next one is considered in the same event (R40, R74). A list that a RESET has frozen, or that is empty, is
left alone (R59). R41 gives MEDIA_FAULT for the latch set in DRAINING; that ONLINE with the latch set, which no run
reaches, refuses in the same way is the model's choice (log 11), and that the bits of a COMMIT's presence byte without
a name are 0 is its reading (log 32). -/
def Obligations.WaitingHeadConsidered : Prop :=
  (∀ s : State, s.wq.frozen = true ∨ s.wq.admission = [] → s.considerAdmissions = s)
  ∧ ∀ (s : State) (tag : Byte) (rest : List Byte) (sl : Slot),
    s.wq.frozen = false → s.wq.admission = tag :: rest → tag ∉ rest → s.slot tag = some sl →
    let s1 : State := { s with wq := { s.wq with admission := rest } }
    let leavesAs := fun v : State => s.considerAdmissions = v.considerAdmissions
    let waitsFor := fun (why : WaitReason) => s.req.slots.map (fun x =>
      if x.tag = tag then { x with state := .waiting, wait := some why } else x)
    let keptFor := fun (why : WaitReason) => s.considerAdmissions = { s with req := { s.req with slots := waitsFor why } }
    let waitsAs := fun (why : WaitReason) (v : State) =>
      { v.link with notices := s.link.notices } = s.link ∧ v.req = { s.req with slots := waitsFor why }
    let refusedWith := fun reply : List Byte => ∃ v, leavesAs v ∧ s1.repliedAll [(tag, reply)] v
      ∧ v.link.notices = s.link.notices ∧ { v with link := s.link, req := s.req } = s1
    let discardedWith := fun (g : OpenGroup) (reply : List Byte) => ∃ v, leavesAs v ∧ s1.repliedAll [(tag, reply)] v
      ∧ v.link.notices = s.link.notices
      ∧ v.grp = { s.grp with group := none } ∧ v.dir = { s.dir with admitted := s.dir.admitted - g.bytes }
      ∧ v.wq = { s1.wq with charged := s.wq.charged - g.bytes }
      ∧ { v with link := s.link, req := s.req, grp := s.grp, dir := s.dir, wq := s1.wq } = s1
    let bound := fun g : OpenGroup => s.grp.group = some g ∧ sl.bound = some g.id
    let acting := (s.dev.state = .online ∨ s.dev.state = .draining) ∧ s.wq.mediaFault = false
    let stopped := fun st : Byte => (s.dev.state = .readOnly ∧ st = 10)
      ∨ ((s.dev.state = .online ∨ s.dev.state = .draining) ∧ s.wq.mediaFault = true ∧ st = 16)
    (∀ deletes w, sl.request = some (writeRequest deletes w) →
      let b := writeBytes deletes w
      (∀ st, stopped st → refusedWith [st])
      ∧ (acting → w.group = false →
        (¬ sizesFit deletes w → refusedWith [5])
        ∧ (sizesFit deletes w → ¬ s.deletable deletes w.key → refusedWith [1])
        ∧ (sizesFit deletes w → s.deletable deletes w.key → ¬ s.condHolds w →
            refusedWith ([2] ++ le 6 (s.checkSeq w.key) ++ [0]))
        ∧ (sizesFit deletes w → s.deletable deletes w.key → s.condHolds w → ¬ s.placeFree w.key → refusedWith [4])
        ∧ (sizesFit deletes w → s.deletable deletes w.key → s.condHolds w → s.placeFree w.key → ¬ s.spaceFree b →
            refusedWith [3])
        ∧ (s.passesLone deletes w → ¬ s.roomFree b → keptFor .admission)
        ∧ (∀ seq, s.passesLone deletes w → s.roomFree b → s.wq.seqCounter = some seq →
            ∃ v, leavesAs v ∧ s1.admitsLone tag deletes w seq v
              ∧ (if w.durable then waitsAs .durable v else s1.repliedAll [(tag, [0] ++ le 6 seq)] v)))
      ∧ (acting → w.group = true →
        ((∀ g, ¬ bound g) → refusedWith [13])
        ∧ ∀ g, bound g →
          (¬ sizesFit deletes w → refusedWith [5])
          ∧ (sizesFit deletes w → 16 ≤ g.members.length ∨ 16384 < g.bytes + b → refusedWith [14])
          ∧ (sizesFit deletes w → g.members.length < 16 → g.bytes + b ≤ 16384 → ¬ s.spaceFree b → refusedWith [3])
          ∧ (sizesFit deletes w → g.members.length < 16 → g.bytes + b ≤ 16384 → s.spaceFree b →
              24576 < s.wq.charged + b → keptFor .admission)
          ∧ (sizesFit deletes w → g.members.length < 16 → g.bytes + b ≤ 16384 → s.spaceFree b →
              s.wq.charged + b ≤ 24576 →
              ∃ v, leavesAs v ∧ s1.stages deletes w g v ∧ v.link.notices = s.noticesAfter (s.dir.admitted + b)
                ∧ s1.repliedAll [(tag, [0, BitVec.ofNat 8 (g.members.length + 1)])] v)))
    ∧ (sl.request = some .commit →
      (∀ st, stopped st → ((∀ g, ¬ bound g) → refusedWith [st]) ∧ ∀ g, bound g → discardedWith g [st])
      ∧ (acting →
        ((∀ g, ¬ bound g) → refusedWith [13])
        ∧ ∀ g, bound g →
          (∀ i q, s.commitCheck g.members [] 1 = some (.notFound, i, q) → discardedWith g ([1] ++ le 1 i))
          ∧ (∀ i q, s.commitCheck g.members [] 1 = some (.conflict, i, q) → discardedWith g ([2] ++ le 6 q ++ le 1 i))
          ∧ (s.commitCheck g.members [] 1 = none →
            (3072 - s.places < s.newPlaces g.members → discardedWith g [4])
            ∧ (s.newPlaces g.members ≤ 3072 - s.places → 24 - s.wq.entries.length < g.members.length → keptFor .commit)
            ∧ (g.members = [] → ∃ v, leavesAs v ∧ s1.repliedAll [(tag, [0, 0, 0])] v ∧ v.link.notices = s.link.notices
                ∧ v.grp = { s.grp with group := none } ∧ { v with link := s.link, req := s.req, grp := s.grp } = s1)
            ∧ (∀ seq, g.members ≠ [] → s.newPlaces g.members ≤ 3072 - s.places →
                s.wq.entries.length + g.members.length ≤ 24 → s.wq.seqCounter = some seq → keysRise s.dir.entries →
                ∃ v, leavesAs v ∧ s1.admitsRun tag g seq v ∧ waitsAs .durable v ∧ v.link.notices = s.link.notices))))
    ∧ (sl.request = some .fence →
      let wq' := { s1.wq with failureNote := false, fenceBoundary := s.wq.seqCounter.getD 1 - 1 }
      (s.wq.entries = [] → ∃ v, leavesAs v ∧ s1.repliedAll [(tag, [if s.wq.failureNote then 19 else 0])] v
        ∧ v.link.notices = s.link.notices ∧ v.wq = wq' ∧ { v with link := s.link, req := s.req, wq := s1.wq } = s1)
      ∧ ∀ before e, s.wq.entries = before ++ [e] → leavesAs { s with
          req := { s.req with slots := waitsFor .fence }
          wq := { wq' with fences := s.wq.fences ++ [{ tag := tag, mark := e.seq, failed := s.wq.failureNote }] } })

/-! ## SPACE, SECTORS, TIDY (R132 to R135) -/

/-- SPACE reports the sectors by state, admitted bytes and the limit, live and dead bytes, the ERASED sectors
above the reserve, the host stall, the reclaim state and the erase counts; SECTORS the rows asked for, 19 bytes
each, none beyond sector 127 (R132, R133, R187). That the host stall's byte is 1 or 0, and that the bits of a row's
flags byte without a name are 0, are the model's reading (log 32). -/
def Obligations.SpaceAndSectorsAnswered : Prop :=
  (∀ (s : State) (tag flags : Byte) (payload : List Byte),
    let f := requestFrame .space tag flags payload
    s.takes .space f .space = true →
    ∃ t : State, exec (.space tag flags payload) s = .next t
      ∧ s.answered f ([0]
          ++ [BitVec.ofNat 8 (s.count .erased), BitVec.ofNat 8 (s.count .opened), BitVec.ofNat 8 (s.count .full),
              BitVec.ofNat 8 (s.count .reclaiming), BitVec.ofNat 8 (s.count .stale), BitVec.ofNat 8 (s.count .erasing),
              BitVec.ofNat 8 (s.count .retired)]
          ++ le 4 s.dir.admitted ++ le 4 s.dir.limit
          ++ le 4 ((s.sm.table.map (fun e => e.live)).sum) ++ le 4 ((s.sm.table.map (fun e => e.dead)).sum)
          ++ [BitVec.ofNat 8 (s.count .erased - 2), if s.sm.hostStall then 1 else 0, BitVec.ofNat 8 s.sm.engine.code]
          ++ le 3 (lowestCount (fun e => e.state != .retired) s.sm.table)
          ++ le 3 (highestCount (fun e => e.state != .retired) s.sm.table)) t)
  ∧ ∀ (s : State) (tag flags : Byte) (payload : List Byte) (first count : Nat),
    let f := requestFrame .sectors tag flags payload
    s.takes .sectors f (.sectors first count) = true →
    ∃ (t : State) (n : Nat), exec (.sectors tag flags payload) s = .next t ∧ 1 ≤ n ∧ n ≤ count ∧ first + n ≤ 128
      ∧ (n = count ∨ first + n = 128)
      ∧ s.answered f ([0] ++ le 1 n ++ (List.range n).flatMap (fun i =>
          let e := s.sector (first + i)
          [BitVec.ofNat 8 (first + i), BitVec.ofNat 8 e.state.code] ++ le 3 e.eraseCount ++ le 4 (e.openGen.getD 0)
            ++ le 2 e.live ++ le 2 e.dead ++ le 2 (e.appendOffset.getD 0) ++ [BitVec.ofNat 8 e.readers] ++ le 2 e.corrected
            ++ [BitVec.ofNat 8 ((if e.fault then 1 else 0) + (if e.dirty then 2 else 0) + (if e.openGen.isSome then 4 else 0)
                  + (if e.appendOffset.isSome then 8 else 0))])) t

/-- TIDY: refused while one is active; answered at once when no FULL sector reaches the threshold; otherwise it
waits with the list of those sectors, and the blocks it concerns act (R134). PENDING follows every reply of the
event if the TIDY still waits (R164; the order is the model's, log 17). At the end of an event an active TIDY whose
list is empty, and none of whose sectors is still RECLAIMING under the walk, is answered OK with its drained count
and is no longer active; any other goes on (R135). -/
def Obligations.TidyDecided : Prop :=
  (∀ (s : State) (tag flags : Byte) (payload : List Byte) (threshold : Nat),
    let f := requestFrame .tidy tag flags payload
    s.takes .tidy f (.tidy threshold) = true →
    let due := fun n => n < s.sm.table.length ∧ (s.sector n).state = .full ∧ threshold * 32752 ≤ (s.sector n).dead * 100
    (s.sm.tidy.isSome → ∃ t : State, exec (.tidy tag flags payload) s = .next t ∧ s.answered f [17] t)
    ∧ (s.sm.tidy = none → (∀ n, ¬ due n) → ∃ t : State, exec (.tidy tag flags payload) s = .next t ∧ s.answered f [0, 0] t)
    ∧ (s.sm.tidy = none → (∃ n, due n) →
        ∃ (u : State) (list : List Nat), exec (.tidy tag flags payload) s = .next (u.settleFor tag) ∧ u.tells tag
          ∧ (∀ n, n ∈ list ↔ due n) ∧ list.Nodup
          ∧ s.waits f { waitingSlot .tidy f (.tidy threshold) none .tidy with pendingSent := false } u ∧ u.link = s.link
          ∧ u.sm = { s.sm with tidy := some { tag := tag, list := list, drained := 0 } }
          ∧ { u with link := s.link, req := s.req, sm := s.sm } = s))
  ∧ ∀ s : State,
    let walked := ∃ w, s.sm.walk = some w ∧ w.forTidy = true
    (s.sm.tidy = none → s.finishTidy = s)
    ∧ ∀ t, s.sm.tidy = some t →
      (t.list ≠ [] ∨ walked → s.finishTidy = s)
      ∧ (t.list = [] → ¬ walked →
          s.repliedAll [(t.tag, [0, BitVec.ofNat 8 t.drained])] s.finishTidy
          ∧ s.finishTidy.link.notices = s.link.notices
          ∧ s.finishTidy.sm = { s.sm with tidy := none }
          ∧ { s.finishTidy with link := s.link, req := s.req, sm := s.sm } = s)

/-! ## FORMAT and RESET (R58, R145 to R147, R149, R150) -/

/-- R145: FORMAT carries no fields; it is taken in UNFORMATTED, ONLINE and READ_ONLY; it is refused with
NOT_IDLE if another slot is in use, the Write Queue is not empty or a group is open, and then changes nothing.
-/
def Obligations.FormatRefused : Prop :=
  (∀ payload, (∃ r, decodeRequest .format payload = some r) ↔ payload = [])
  ∧ (∀ s : State, s.dev.restartLatch = false →
      (s.gate .format = none ↔ s.dev.state ∈ [.unformatted, .online, .readOnly]))
  ∧ ∀ (s : State) (tag flags : Byte) (payload : List Byte),
    let f := requestFrame .format tag flags payload
    s.takes .format f .format = true → s.req.slots ≠ [] ∨ s.wq.entries ≠ [] ∨ s.grp.group ≠ none →
    ∃ t : State, exec (.format tag flags payload) s = .next t ∧ s.answered f [18] t

/-- FORMAT of an idle device: FORMATTING, an empty Directory, counters at 1, the latches and marks of the Write Queue
clear, the Log Writer's lanes and open sector given up, a word program or reclaim read under way completing with its
outcome discarded and those that only wait withdrawn, an erase under way running on with the epoch and count it names,
the epoch one newer, every sector of the log STALE with no live and no dead bytes, all 128 sectors to be erased, the
low-space latch clear until the numbers it stood for have changed; the FORMAT waits, and the blocks it concerns act
(R17, R22, R61, R110, R118, R146, R148). That an erase under way keeps the old epoch is the model's reading of R3, R17
and R129 by R148 (log 21). That a waiting reclaim read is withdrawn, that the append point is FREE only once a word
under way has ended, that PENDING follows every reply of the event, and that the model keeps the numbers of the latch,
are the model's choices (logs 21, 15, 17 and 33). -/
def Obligations.FormatTakesEffect : Prop :=
  ∀ (s : State) (tag flags : Byte) (payload : List Byte),
    let f := requestFrame .format tag flags payload
    s.takes .format f .format = true → s.req.slots = [] → s.wq.entries = [] → s.grp.group = none →
    let stays := fun n : Nat => (s.sector n).state = .erased ∨ (s.sector n).state = .retired
      ∨ ((s.sector n).state = .erasing ∧ ∃ r, s.arr.erase = some r ∧ r.req.sector = n)
    ∃ u : State, exec (.format tag flags payload) s = .next (u.settleFor tag) ∧ u.tells tag
      ∧ s.waits f { waitingSlot .format f .format none .format with pendingSent := false } u
      ∧ u.link.notices = joinNotice .state s.link.notices
      ∧ u.dev = { s.dev with state := .formatting }
      ∧ u.dir = { s.dir with entries := [], reserved := [], admitted := 0 }
      ∧ u.wq = { s.wq with failureNote := false, fenceBoundary := 0, mediaFault := false, seqCounter := some 1 }
      ∧ u.grp = { s.grp with counter := 1 }
      ∧ u.lw = { openAt := none, hostLane := none, relocLane := none, hostFailures := 0, relocFailures := 0, placement := [],
                 cur := none, genCounter := some 1
                 point := match s.arr.op with
                   | some (.word _) => s.lw.point
                   | some (.read _) | none => .free }
      ∧ u.arr = { s.arr with
          eraseReq := none
          word := none
          walks := s.arr.walks.filter (fun r => r.who != .reclaim)
          op := match s.arr.op with
            | some (.word w) => some (.word { w with discard := true })
            | some (.read r) => some (.read (if r.who = .reclaim then { r with discard := true } else r))
            | none => none }
      ∧ u.sm = { s.sm with
          table := u.sm.table, epoch := s.sm.epoch + 1, engine := .idle, walk := none, lowSpace := false
          latchFor := (s.count .erased, s.count .stale, s.count .erasing), hostStall := false
          relocStall := false, tidy := none, batch := { running := false, members := [], window := false }, staleOrder := []
          format := some { tag := tag, list := List.range 128 } }
      ∧ u.sm.table.length = s.sm.table.length
      ∧ (∀ n, n < s.sm.table.length →
          (stays n → u.sector n = s.sector n)
          ∧ (¬ stays n → u.sector n = { s.sector n with
              state := .stale, openGen := none, appendOffset := none, live := 0, dead := 0 }))
      ∧ { u with link := s.link, req := s.req, dev := s.dev, dir := s.dir, wq := s.wq, grp := s.grp, lw := s.lw,
                 sm := s.sm, arr := s.arr } = s

/-- The erases of a FORMAT: each names the first sector of the format list, the current epoch and the sector's count
plus one, and is requested while no erase of the FORMAT is under way; an erase that ends DONE or with a retirement
takes its sector off the list, and one abandoned by HOLD leaves it there with its dirty flag set. With the last
sector the FORMAT completes: the admission limit is evaluated, the device is ONLINE with 8 or more usable sectors and
READ_ONLY otherwise, the low-space latch is evaluated, and the FORMAT is answered OK with the numbers of ERASED and
RETIRED sectors (R37, R38, R110, R118, R129, R130, R147). The first request is made at once, also while an erase of
the batch is under way (R147), and the count a request names is renewed when its erase begins (log 21). That a sector
keeps its state until its FORMAT erase ends and only becomes dirty when HOLD abandons that erase, and that the latch
may be set by the completion, where R116 gives it as clear, are the model's choices (logs 20 and 29); that the timeout
of a word covers the erase word is its reading (log 24). An erase that fails leaves no valid erase word, and of the
array only that word changed (R100, R110). -/
def Obligations.FormatErases : Prop :=
  (∀ (s : State) (f : FormatRun) (n : Nat) (rest : List Nat),
    s.sm.format = some f → f.list = n :: rest → s.arr.eraseReq = none →
    ((∀ r, s.arr.erase = some r → r.req.forFormat = false) →
      let q : EraseReq :=
        { sector := n, epoch := s.sm.epoch, count := min 16777215 ((s.sector n).eraseCount + 1), forFormat := true }
      s.requestErase = { s with arr := { s.arr with eraseReq := some q } })
    ∧ (∀ r, s.arr.erase = some r → r.req.forFormat = true → s.requestErase = s))
  ∧ ∀ (s : State) (r : EraseRun) (f : FormatRun),
    s.held = false → s.arr.erase = some r → r.req.forFormat = true → r.req.sector < 128 → s.sm.format = some f →
    s.dev.state = .formatting →
    let ended := fun (retires : Bool) (table : List SectorEntry) (notices : List NoticeKind) (u : State) =>
      let count := fun st : SectorState => table.countP (fun e => e.state == st)
      let limit := (128 - count .retired - 4) * 28672
      let crossed := fun (l : List NoticeKind) =>
        if s.dir.admitted * 10 ≤ s.dir.limit * 9 ∧ limit * 9 < s.dir.admitted * 10 then joinNotice .spaceLow l else l
      (f.list.drop 1 ≠ [] →
        u.sm = { s.sm with table := table, wearDue := true, format := some { f with list := f.list.drop 1 } }
        ∧ u.dir = (if retires then { s.dir with limit := limit } else s.dir)
        ∧ u.link = { s.link with notices := if retires then crossed notices else notices }
        ∧ { u with sm := s.sm, arr := s.arr, flash := s.flash, seeds := s.seeds, dir := s.dir, link := s.link } = s)
      ∧ (f.list.drop 1 = [] →
        u.sm = { s.sm with
          table := table
          wearDue := true
          format := none
          lowSpace := if 6 ≤ count .erased + count .stale + count .erasing then false
            else if count .erased ≤ 4 then true
            else s.sm.lowSpace
          latchFor := (count .erased, count .stale, count .erasing) }
        ∧ u.dir = { s.dir with limit := limit }
        ∧ u.dev = { s.dev with state := if 8 ≤ 128 - count .retired then .online else .readOnly }
        ∧ u.link.notices = joinNotice .state (crossed notices)
        ∧ s.repliedAll [(f.tag, [0, BitVec.ofNat 8 (count .erased), BitVec.ofNat 8 (count .retired)])] u
        ∧ { u with sm := s.sm, arr := s.arr, flash := s.flash, seeds := s.seeds, dir := s.dir, dev := s.dev, link := s.link,
                   req := s.req } = s)
    (r.phase = .header → r.req.count ≤ 16777215 → (s.flash.word r.req.sector 0).isBlank = true →
      ∃ u : State, exec (.eraseWordProgramComplete true) s = .next u.settle
        ∧ u.arr = { s.arr with erase := none }
        ∧ (u.flash.word r.req.sector 0).erase? = some (r.req.epoch, r.req.count)
        ∧ (∀ n i, n < 128 → i < 4096 → (n ≠ r.req.sector ∨ i ≠ 0) → u.flash.word n i = s.flash.word n i)
        ∧ ended false (s.sm.table.modify r.req.sector (fun e =>
            { e with state := .erased, eraseCount := r.req.count, openGen := none, live := 0, dead := 0, appendOffset := none,
                     corrected := 0, fault := false, dirty := false })) s.link.notices u)
    ∧ (∀ c : Instr,
        ((c = .eraseTimeout ∧ r.phase = .pulse)
          ∨ (c = .blankCheckComplete ∧ r.phase = .blankCheck
              ∧ ∃ i, i < 4096 ∧ s.flash.word r.req.sector i ≠ { data := BitVec.allOnes 64, ecc := .clean })
          ∨ (c = .eraseWordProgramComplete false ∧ r.phase = .header)
          ∨ (c = .eraseWordProgramComplete true ∧ r.phase = .header ∧ (s.flash.word r.req.sector 0).isBlank = false)
          ∨ (c = .wordProgramTimeout ∧ r.phase = .header ∧ s.arr.op = none)) →
        ∃ u : State, exec c s = .next u.settle
          ∧ u.arr = { s.arr with erase := none } ∧ s.eraseFails c r.req.sector u
          ∧ ended true (s.sm.table.modify r.req.sector (fun e => { e with state := .retired, live := 0, dead := 0 }))
              (joinNotice .sectorRetired s.link.notices) u)
    ∧ (s.sup.condition = .normal → r.phase ≠ .header →
        exec .supplyBelowHold s = .next ({ s with
          sup := { s.sup with condition := .hold, qualifying := false, holdTimer := s.sup.holdTimer || !s.wq.entries.isEmpty }
          link := { s.link with notices := joinNotice .supply s.link.notices }
          arr := { s.arr with erase := none }
          flash := s.flash.wreck r.req.sector s.seeds
          seeds := s.seeds + 1
          sm := { s.sm with table := s.sm.table.modify r.req.sector (fun e => { e with dirty := true }) } } : State).settle)

/-- RESET: refused while one is draining. In DISCARD mode it freezes the Admission List, queues its reply and
sets the restart latch; in DRAIN mode it moves ONLINE to DRAINING, and does the same once nothing is queued or
waiting, and otherwise waits; at the end of every event that leaves the Write Queue and the Admission List
empty, a RESET that waits is answered and the latch set. A reply that finds the Transmit Queue full brings the
restart at once (R58, R59, R149 to R151, R180). What the restart leaves of the supply, and that its STATE notice
and mount's first read belong to it, are the model's reading (logs 18 and 26). -/
def Obligations.ResetDecided : Prop :=
  (∀ (s : State) (tag flags : Byte) (payload : List Byte) (mode : ResetMode),
    let f := requestFrame .reset tag flags payload
    s.takes .reset f (.reset mode) = true → s.dev.restartDue = false →
    let reply := replyFrame tag [0]
    let draining := ∃ sl ∈ s.req.slots, sl.wait = some .drain
    let state' := if mode = .drain ∧ s.dev.state = .online then .draining else s.dev.state
    (draining → ∃ t : State, exec (.reset tag flags payload) s = .next t ∧ s.answered f [17] t)
    ∧ (¬ draining → mode = .discard ∨ (s.wq.entries = [] ∧ s.wq.admission = []) → s.link.txq.length < 32 →
        ∃ t : State, exec (.reset tag flags payload) s = .next t
          ∧ s.queued (s.link.txq ++ [TxFrame.mk reply none true]) t
          ∧ t.req = { s.req with cache := cacheAfter s.req.cache (CacheEntry.mk tag f.digest reply) }
          ∧ t.wq = { s.wq with frozen := s.wq.frozen || decide (mode = .discard) }
          ∧ t.dev = { s.dev with state := state', restartLatch := true }
          ∧ { t with link := s.link, req := s.req, wq := s.wq, dev := s.dev } = s)
    ∧ (¬ draining → mode = .discard ∨ (s.wq.entries = [] ∧ s.wq.admission = []) → 32 ≤ s.link.txq.length →
        ∃ t : State, exec (.reset tag flags payload) s = .next t ∧ s.restartsTo t)
    ∧ (¬ draining → mode = .drain → ¬ (s.wq.entries = [] ∧ s.wq.admission = []) →
        ∃ t : State, exec (.reset tag flags payload) s = .next t
          ∧ s.parked f (waitingSlot .reset f (.reset mode) none .drain) t
          ∧ t.dev = { s.dev with state := state' } ∧ { t with link := s.link, req := s.req, dev := s.dev } = s))
  ∧ (∀ s : State,
    ((∀ sl ∈ s.req.slots, sl.wait ≠ some .drain) ∨ s.wq.entries ≠ [] ∨ s.wq.admission ≠ [] → s.drainReport = s)
    ∧ ∀ before sl after, s.req.slots = before ++ sl :: after → (∀ x ∈ before, x.wait ≠ some .drain ∧ x.tag ≠ sl.tag) →
      sl.wait = some .drain → s.wq.entries = [] → s.wq.admission = [] →
      let reply := replyFrame sl.tag [0]
      let cached := (if s.req.cache.length < 8 then s.req.cache else s.req.cache.drop 1) ++ [CacheEntry.mk sl.tag sl.digest reply]
      s.drainReport = { s with
        link := { s.link with txq :=
          if sl.session = .current ∧ s.link.txq.length < 32 then s.link.txq ++ [TxFrame.mk reply none true] else s.link.txq }
        req := { s.req with
          slots := s.req.slots.filter (fun x => x.tag != sl.tag)
          cache := if sl.session = .current then cached else s.req.cache }
        dev := { s.dev with
          restartLatch := true
          restartDue := s.dev.restartDue || decide (sl.session = .ended ∨ 32 ≤ s.link.txq.length) } })

/-! ## The link (R174 to R181) -/

/-- The receiver: in HUNT only 0x5A begins a frame; inside a frame a framing error, a LENGTH above 2080, a CRC
that does not match and the gap timer's expiry drop the frame and mark FRAME_DROPPED (R175 to R177). The
transmitter and the break: a sent frame leaves, and with it its rate change takes effect, dropping a frame in
progress; a break removes the frame being sent, cancels the rate changes, returns to 115200 and to HUNT and
marks LINK_RESET; the leaving of a RESET reply, sent or not, is the restart (R151, R178 to R180). That an expiry
of a timer that does not run, and the end of a frame with an empty queue, have no effect is the model's choice
(log 10), as is what the restart leaves of the supply and of its notices (logs 18 and 26), and that after a
break's restart no LINK_RESET is marked (log 30). -/
def Obligations.LinkRules : Prop :=
  (∀ s : State, s.held = false →
    (∀ c, s.link.rx = .hunt → c ≠ 0x5A → exec (.characterReceived c false) s = .next s)
    ∧ (∀ c, s.link.rx = .hunt → exec (.characterReceived c true) s = .next s)
    ∧ (s.link.rx = .hunt → exec (.characterReceived 0x5A false) s
        = .next { s with link := { s.link with rx := .header, got := [], gap := true } })
    ∧ (∀ c, s.link.rx ≠ .hunt → ∃ t : State, exec (.characterReceived c true) s = .next t ∧ s.dropsFrame t)
    ∧ (∀ c lo, s.link.rx = .header → s.link.got = [lo] → 2080 < lo.toNat + 256 * c.toNat →
        ∃ t : State, exec (.characterReceived c false) s = .next t ∧ s.dropsFrame t)
    ∧ (∀ (f : Frame) (x c : Byte), s.link.rx = .check → f.kind.length = 4 → f.payload.length ≤ 2080 →
        s.link.got = f.start ++ [f.flags] ++ f.payload ++ [x] → le 2 f.crc.toNat ≠ [x, c] →
        ∃ t : State, exec (.characterReceived c false) s = .next t ∧ s.dropsFrame t)
    ∧ (s.link.gap = true → ∃ t : State, exec .gapTimerExpiry s = .next t ∧ s.dropsFrame t)
    ∧ (s.link.gap = false → exec .gapTimerExpiry s = .next s))
  ∧ (∀ s : State, s.held = false →
    (s.link.txq = [] → exec .frameSent s = .next s)
    ∧ (∀ e rest, s.link.txq = e :: rest → e.restarts = false → e.rateChange = none →
        ∃ t : State, exec .frameSent s = .next t ∧ s.queued rest t ∧ { t with link := s.link } = s)
    ∧ (∀ e rest b, s.link.txq = e :: rest → e.restarts = false → e.rateChange = some b →
        ∃ t : State, exec .frameSent s = .next t
          ∧ (∃ notes : List TxFrame, (∀ x ∈ notes, x.frame.kind = kindNote) ∧ t.link.txq = rest ++ notes)
          ∧ t.link.rate = b ∧ t.link.rx = .hunt ∧ (s.link.rx ≠ .hunt → t.link.got = [] ∧ t.link.gap = false
              ∧ t.noticed .frameDropped rest)
          ∧ { t with link := s.link } = s)
    ∧ (∀ e rest, s.link.txq = e :: rest → e.restarts = true →
        (∃ t : State, exec .frameSent s = .next t ∧ s.restartsTo t)
        ∧ ∃ t : State, exec .breakRecognised s = .next t ∧ s.restartsTo t)
    ∧ ((∀ e, s.link.txq.head? = some e → e.restarts = false) →
        ∃ t : State, exec .breakRecognised s = .next t
          ∧ (∃ notes : List TxFrame, (∀ x ∈ notes, x.frame.kind = kindNote)
              ∧ t.link.txq = (s.link.txq.drop 1).map (fun e => { e with rateChange := none }) ++ notes)
          ∧ t.link.rx = .hunt ∧ t.link.got = [] ∧ t.link.gap = false ∧ t.link.rate = 115200
          ∧ t.noticed .linkReset (s.link.txq.drop 1) ∧ { t with link := s.link } = s))

/-! ## The victim walk (R29 to R33, R109, R115, R120 to R125) -/

/-- A reclaim read completes. Its corrected words are counted, and one that a FORMAT has discarded has no other
effect. A header that decodes asks for the rest of the record. A valid record that its entry names, met by the
walk or asked for by the tail sweep, is handed to the relocation lane with its group fields clear, unless it is
a TOMBSTONE to be dropped. A record that its entry names and that cannot be read is marked LOST and replaced by
a LOSS record (R32, R109, R115, R120, R121, R123, R124, R146). -/
def Obligations.ReclaimReadTaken : Prop :=
  ∀ (s : State) (decayed : List (Nat × RawWord)) (r : ReadReq),
    s.held = false → s.arr.op = some (.read r) → r.who = .reclaim → r.inside = true →
    let flash := s.flash.decay r decayed
    let words := flash.read r
    let sm1 := { s.sm with table := s.sm.table.modify r.sector (fun e =>
      { e with corrected := min 65535 (e.corrected + words.countP (fun x : RawWord => x.ecc == Ecc.corrected)) }) }
    let reads := fun (w : Walk) (rec : Record) =>
      (∃ hdr, w.phase = .body hdr ∧ validRecord (hdr ++ words) w.offset = some rec)
      ∨ (w.phase = .sweepRead ∧ validRecord words w.offset = some rec
          ∧ ∃ e d, entryAt w.victim w.offset s.dir.entries = some e ∧ e.key = rec.key ∧ e.durable = some d ∧ d.seq = rec.seq)
    let unreadable := fun w : Walk =>
      (w.phase = .header ∧ headerWithin words w.offset = none)
      ∨ (∃ hdr, w.phase = .body hdr ∧ validRecord (hdr ++ words) w.offset = none)
      ∨ (w.phase = .sweepRead ∧ ∀ rec, validRecord words w.offset = some rec →
          ∀ e d, entryAt w.victim w.offset s.dir.entries = some e → e.durable = some d → e.key ≠ rec.key ∨ d.seq ≠ rec.seq)
    (r.discard = true → exec (.reclaimReadComplete decayed) s
        = .next ({ s with arr := { s.arr with op := none }, flash := flash, sm := sm1 } : State).settle)
    ∧ ∀ w, r.discard = false → s.sm.walk = some w →
      (∀ h, w.phase = .header → headerWithin words w.offset = some h → (words.head?.any RawWord.allOnes) = false →
        let rest : ReadReq :=
          { who := .reclaim, sector := w.victim, offset := w.offset + 16, words := h.bytes / 8 - 2, discard := false }
        exec (.reclaimReadComplete decayed) s = .next ({ s with
          arr := { s.arr with op := none, walks := s.arr.walks ++ [rest] }
          flash := flash
          sm := { sm1 with walk := some { w with phase := .body words } } } : State).settle)
      ∧ (∀ rec e, reads w rec → s.entry rec.key = some e → e.namesPlace w.victim w.offset = true →
          (e.queued = 0 → e.flashCopies = 1 → rec.kind ≠ .tombstone ∧ e.state ≠ .tombstone) →
          exec (.reclaimReadComplete decayed) s = .next ({ s with
            arr := { s.arr with op := none }
            flash := flash
            dir := { s.dir with entries := putEntry { e with flashCopies := e.flashCopies - 1 } s.dir.entries }
            lw := { s.lw with relocLane := some { record := { rec with group := none }, sector := w.victim, offset := w.offset } }
            sm := { sm1 with walk := some { w with phase := .copying (w.offset + rec.bytes) } } } : State).settle)
      ∧ (∀ e d, unreadable w → entryAt w.victim w.offset s.dir.entries = some e → e.durable = some d →
          let lost : Entry := { e with
            state := if e.queued = 0 then .lost else e.state
            newestSeq := if e.queued = 0 then d.seq else e.newestSeq
            newestLen := if e.queued = 0 then 0 else e.newestLen
            durable := some { d with kind := .loss, valLen := 0 }
            flashCopies := e.flashCopies - 1 }
          let loss : Record := { kind := .loss, key := e.key, value := [], seq := d.seq, group := none }
          exec (.reclaimReadComplete decayed) s = .next ({ s with
            arr := { s.arr with op := none }
            flash := flash
            dir := { s.dir with entries := putEntry lost s.dir.entries }
            lw := { s.lw with relocLane := some { record := loss, sector := w.victim, offset := w.offset } }
            sm := { sm1 with walk := some { w with phase := .copying (w.offset + d.recLen) } } } : State).settle)

/-- A reclaim read completes, and its record needs no copy. An all-ones header word that no entry names ends the
walk, and the victim is drained. A dead record is passed, its key's flash copies one lower, and the walk moves
on; a dropped TOMBSTONE too. An entry that this leaves with no copy, as a TOMBSTONE with nothing queued, leaves
the Directory, its record dead, and its place stays reserved. An invalid record that no entry names begins the
tail sweep, which asks for the next record that an entry does name, or drains the victim (R30, R33, R114, R120,
R122, R124, R125). That a record which the sweep asked for and no entry names any more is passed, and that a
header at the last word is one word, are the model's choices (logs 13 and 12). -/
def Obligations.ReclaimWalkGoesOn : Prop :=
  ∀ (s : State) (decayed : List (Nat × RawWord)) (r : ReadReq),
    s.held = false → s.arr.op = some (.read r) → r.who = .reclaim → r.inside = true →
    let flash := s.flash.decay r decayed
    let words := flash.read r
    let sm1 := { s.sm with table := s.sm.table.modify r.sector (fun e =>
      { e with corrected := min 65535 (e.corrected + words.countP (fun x : RawWord => x.ecc == Ecc.corrected)) }) }
    let reads := fun (w : Walk) (rec : Record) =>
      (∃ hdr, w.phase = .body hdr ∧ validRecord (hdr ++ words) w.offset = some rec)
      ∨ (w.phase = .sweepRead ∧ validRecord words w.offset = some rec
          ∧ ∃ e d, entryAt w.victim w.offset s.dir.entries = some e ∧ e.key = rec.key ∧ e.durable = some d ∧ d.seq = rec.seq)
    let base : State := { s with arr := { s.arr with op := none }, flash := flash, sm := sm1 }
    let next := exec (.reclaimReadComplete decayed) s
    ∀ w, r.discard = false → s.sm.walk = some w →
      (w.phase = .header → (words.head?.any RawWord.allOnes) = true → entryAt w.victim w.offset s.dir.entries = none →
        ∃ u : State, next = .next u.settle ∧ base.drains w u)
      ∧ ((w.phase = .header ∧ headerWithin words w.offset = none ∧ (words.head?.any RawWord.allOnes) = false)
            ∨ (∃ hdr, w.phase = .body hdr ∧ validRecord (hdr ++ words) w.offset = none) →
          entryAt w.victim w.offset s.dir.entries = none →
        ∃ u : State, next = .next u.settle ∧ base.sweeps w u)
      ∧ (∀ rec, (∃ hdr, w.phase = .body hdr ∧ validRecord (hdr ++ words) w.offset = some rec)
            ∨ (w.phase = .sweepRead ∧ validRecord words w.offset = some rec
                ∧ entryAt w.victim w.offset s.dir.entries = none) →
          s.entry rec.key = none →
        ∃ u : State, next = .next u.settle ∧ base.walkGoesOn w (w.offset + rec.bytes) u)
      ∧ (∀ rec e,
          (reads w rec ∧ s.entry rec.key = some e ∧ (e.namesPlace w.victim w.offset = false
              ∨ (rec.kind = .tombstone ∧ e.queued = 0 ∧ e.flashCopies = 1)))
            ∨ (w.phase = .sweepRead ∧ validRecord words w.offset = some rec ∧ s.entry rec.key = some e
                ∧ entryAt w.victim w.offset s.dir.entries = none) →
          (¬ (e.flashCopies = 1 ∧ e.state = .tombstone ∧ e.queued = 0) → ∃ u : State, next = .next u.settle
            ∧ ({ base with dir := { s.dir with
                entries := putEntry { e with flashCopies := e.flashCopies - 1 } s.dir.entries } } : State).walkGoesOn w
                  (w.offset + rec.bytes) u)
          ∧ (e.flashCopies = 1 → e.state = .tombstone → e.queued = 0 → ∃ u : State, next = .next u.settle
            ∧ ({ base with
                dir := { s.dir with
                  entries := s.dir.entries.filter (fun x => x.key != rec.key)
                  reserved := s.dir.reserved ++ [{ key := rec.key, victim := w.victim }]
                  admitted := s.dir.admitted - (match e.durable with
                    | some d => d.recLen
                    | none => 0) }
                sm := { sm1 with table := retired sm1.table e.durable } } : State).walkGoesOn w (w.offset + rec.bytes) u))
      ∧ (w.phase = .sweepRead → validRecord words w.offset = none → entryAt w.victim w.offset s.dir.entries = none →
        ∃ u : State, next = .next u.settle ∧ base.walkGoesOn w w.offset u)

/-! ## Mount (R5, R10 to R17, R35, R139 to R142) -/

/-- A mount read completes. In the header pass the next sector's header is asked for. When the candidate's
remainder has been read, mount completes: the Directory, the Sector Table, the counters and the epoch are
installed, every walked sector is FULL with its live and dead bytes, but the candidate OPEN at its end offset if
every word of the remainder is blank, the admission limit and the low-space latch are evaluated, and the device
state follows R142 (R15 to R17, R36 to R38, R118, R139 to R142). -/
def Obligations.MountReadTaken : Prop :=
  ∀ (s : State) (decayed : List (Nat × RawWord)) (r : ReadReq) (m : Mount),
    s.held = false → s.arr.op = some (.read r) → r.who = .mount → r.inside = true → s.mount = some m →
    let flash := s.flash.decay r decayed
    let words := flash.read r
    let base : State := { s with arr := { s.arr with op := none }, flash := flash }
    let counted := fun n : Nat => m.table.modify n (fun e =>
      { e with corrected := min 65535 (e.corrected + words.countP (fun x : RawWord => x.ecc == Ecc.corrected)) })
    (∀ a b, m.phase = .headers → words = [a, b] → m.heads.length + 1 < 128 →
      ∃ u : State, exec (.mountReadComplete decayed) s = .next u.settle
        ∧ base.mountReads { m with heads := m.heads ++ [(a, b)], table := counted m.heads.length } .headers
            (m.heads.length + 1) 0 2 u)
    ∧ (∀ sector offset, m.phase = .remainder sector offset →
      ∃ u : State, exec (.mountReadComplete decayed) s = .next u.settle
        ∧ base.mountedAs m (if ∀ x ∈ words, x.isBlank = true then some { sector := sector, offset := offset } else none) u)

/-- The header pass has read the last sector's header: the current epoch is decided from all valid erase words,
and each sector takes its entry by the form of its header: STALE and dirty with the estimate without a valid
erase word; with one of the current epoch, ERASED if its open word is blank, to be walked if that is valid, and
STALE otherwise; STALE with one of another epoch. The sectors to be walked stand in order of generation. A data
area that is then found not blank makes its sector STALE. Mount goes on (R4, R5, R16, R17, R139, R140). That a
blank erase word with an open word that is not blank is no header is the model's reading (log 16), and the order
of the reads that follow its choice (log 22). -/
def Obligations.HeaderPassEnds : Prop :=
  ∀ (s : State) (decayed : List (Nat × RawWord)) (r : ReadReq) (m : Mount),
    s.held = false → s.arr.op = some (.read r) → r.who = .mount → r.inside = true → s.mount = some m →
    let flash := s.flash.decay r decayed
    let words := flash.read r
    let base : State := { s with arr := { s.arr with op := none }, flash := flash }
    let counted := fun n : Nat => m.table.modify n (fun e =>
      { e with corrected := min 65535 (e.corrected + words.countP (fun x : RawWord => x.ecc == Ecc.corrected)) })
    (∀ a b, m.phase = .headers → words = [a, b] → m.heads.length = 127 → m.table.length = 128 →
      let heads := m.heads ++ [(a, b)]
      let valid := heads.filterMap (fun h => h.1.erase?)
      let epoch := currentEpoch (valid.map (fun x => x.1))
      let counts := valid.map (fun x => x.2)
      let estimated := if counts = [] then 0 else (counts.sum + counts.length - 1) / counts.length
      let gen := fun n : Nat => ((heads[n]?).bind (fun h => h.2.open?)).getD 0
      let current := fun n : Nat => ∃ h count, heads[n]? = some h ∧ h.1.erase? = some (epoch, count)
      let opened := fun n : Nat => ∃ h g, heads[n]? = some h ∧ h.2.isBlank = false ∧ h.2.open? = some g
      let blank := fun n : Nat => ∃ h, heads[n]? = some h ∧ h.2.isBlank = true
      ∃ (m' : Mount) (u : State), exec (.mountReadComplete decayed) s = .next u.settle ∧ base.mountGoesOn m' u
        ∧ { m' with table := m.table, toCheck := m.toCheck, toWalk := m.toWalk, maxGen := m.maxGen }
            = { m with heads := heads, epoch := epoch }
        ∧ m'.table.length = 128
        ∧ (∀ n h, heads[n]? = some h →
            let e := (counted 127).getD n SectorEntry.initial
            let entered := m'.table.getD n SectorEntry.initial
            (h.1.erase? = none → entered = { e with state := .stale, eraseCount := estimated, dirty := true })
            ∧ ∀ x count, h.1.erase? = some (x, count) →
              (x ≠ epoch → entered = { e with state := .stale, eraseCount := count })
              ∧ (x = epoch → h.2.isBlank = true → entered = { e with state := .erased, eraseCount := count })
              ∧ (x = epoch → h.2.isBlank = false → h.2.open? = none → entered = { e with state := .stale, eraseCount := count })
              ∧ ∀ g, x = epoch → h.2.isBlank = false → h.2.open? = some g →
                  entered = { e with state := .full, eraseCount := count, openGen := some g })
        ∧ (∀ n, n ∈ m'.toCheck ↔ current n ∧ blank n) ∧ m'.toCheck.Pairwise (fun x y => x < y)
        ∧ (∀ n, n ∈ m'.toWalk ↔ current n ∧ opened n)
        ∧ m'.toWalk.Pairwise (fun x y => gen x < gen y ∨ (gen x = gen y ∧ x < y))
        ∧ (∀ n ∈ m'.toWalk, gen n ≤ m'.maxGen) ∧ (m'.maxGen = 0 ∨ ∃ n ∈ m'.toWalk, m'.maxGen = gen n))
    ∧ ∀ n rest, m.phase = .blankCheck → m.toCheck = n :: rest →
      ∃ u : State, exec (.mountReadComplete decayed) s = .next u.settle
        ∧ base.mountGoesOn { m with
            toCheck := rest
            table := if ∀ x ∈ words, x.isBlank = true then m.table else m.table.modify n (fun e => { e with state := .stale }) } u

/-- A mount walk at an offset: a word that reads as all ones ends it at end of data; a header that does not
decode, or a record that would not fit in the data area, ends it at a damaged tail; otherwise the rest of the
record is read, and a valid record is yielded and the walk goes on behind it, or ends at the end of the data
area; an invalid one ends it at a damaged tail. Corrected words are counted. A walk that ends lets mount go on
(R1, R8 to R10, R139 to R142). That the word at the offset is read by itself is the model's choice (log 22). -/
def Obligations.MountWalks : Prop :=
  ∀ (s : State) (decayed : List (Nat × RawWord)) (r : ReadReq) (m : Mount),
    s.held = false → s.arr.op = some (.read r) → r.who = .mount → r.inside = true → s.mount = some m →
    let flash := s.flash.decay r decayed
    let words := flash.read r
    let base : State := { s with arr := { s.arr with op := none }, flash := flash }
    let counted := fun n : Nat => m.table.modify n (fun e =>
      { e with corrected := min 65535 (e.corrected + words.countP (fun x : RawWord => x.ecc == Ecc.corrected)) })
    let counts := fun n : Nat => { m with table := counted n }
    let goesOn := fun m' : Mount => ∃ u : State, exec (.mountReadComplete decayed) s = .next u.settle ∧ base.mountGoesOn m' u
    (∀ sector offset a, m.phase = .walkFirst sector offset → words = [a] →
      (a.value? = some (BitVec.allOnes 64) → goesOn ((counts sector).endWalk sector offset .allOnes a.isBlank))
      ∧ (∀ b, a.value? ≠ some (BitVec.allOnes 64) → extentOf a offset = some b →
          ∃ u : State, exec (.mountReadComplete decayed) s = .next u.settle
            ∧ base.mountReads (counts sector) (.walkRest sector offset a) sector (offset + 8) (b / 8 - 1) u)
      ∧ (a.value? ≠ some (BitVec.allOnes 64) → extentOf a offset = none →
          goesOn ((counts sector).endWalk sector offset .damaged false)))
    ∧ ∀ sector offset first, m.phase = .walkRest sector offset first →
      (∀ rec, validRecord (first :: words) offset = some rec →
        let m' := (counts sector).yield
          { sector := sector, offset := offset, kind := rec.kind, key := rec.key, seq := rec.seq, recLen := rec.bytes,
            valLen := rec.value.length, group := rec.group }
        (offset + rec.bytes < 32768 → ∃ u : State, exec (.mountReadComplete decayed) s = .next u.settle
          ∧ base.mountReads m' (.walkFirst sector (offset + rec.bytes)) sector (offset + rec.bytes) 1 u)
        ∧ (32768 ≤ offset + rec.bytes → goesOn (m'.endWalk sector (offset + rec.bytes) .areaEnd false)))
      ∧ (validRecord (first :: words) offset = none → goesOn ((counts sector).endWalk sector offset .damaged false))

/-- The records that one walk yields are presented to the Directory in walk order, each with the decision of R12
on it: a group member is accepted exactly when the records behind it carry its run to its end. Every record
counts one flash copy of its key and raises the highest sequence seen; an accepted one becomes the durable part
and the newest view unless a higher sequence stands there; a new key finds an entry or, with 3072 of them, an
overflow. The walk's end is torn when its last record is an unfinished member (R11 to R13, R15, R20, R35). -/
def Obligations.MountPresents : Prop :=
  (∀ (m : Mount) (rs : List MountRec) (sector offset : Nat) (how : WalkEnd) (blank : Bool), m.run = [] →
    let after := (rs.foldl (fun x r => x.yield r) m).endWalk sector offset how blank
    let shown := (decided rs).foldl (fun x p => x.present p.1 p.2) m
    let torn := match rs.getLast? with
      | some r => r.group.any (fun g => !g.2)
      | none => false
    after = { shown with
      maxSeq := rs.foldl (fun x r => max x r.seq) m.maxSeq
      ends := m.ends ++ [{ sector := sector, offset := offset, how := how, blank := blank, torn := torn }]
      toWalk := m.toWalk.drop 1 })
  ∧ ∀ (m : Mount) (accepted : Bool) (r : MountRec),
    let d : DurablePart := { sector := r.sector, offset := r.offset, seq := r.seq, kind := r.kind, recLen := r.recLen, valLen := r.valLen }
    let takes := fun e : Entry => { e with
      flashCopies := e.flashCopies + 1, durable := some d, state := r.kind.entryState, newestSeq := r.seq, newestLen := r.valLen }
    let passes := fun e : Entry => { e with flashCopies := e.flashCopies + 1 }
    let fresh : Entry := { key := r.key, state := .tombstone, newestSeq := 0, newestLen := 0, queued := 0, durable := none, flashCopies := 0 }
    (∀ e, findEntry r.key m.entries = some e →
      (accepted = true → (∀ x, e.durable = some x → x.seq ≤ r.seq) →
        m.present accepted r = { m with entries := putEntry (takes e) m.entries })
      ∧ (accepted = false ∨ (∃ x, e.durable = some x ∧ r.seq < x.seq) →
        m.present accepted r = { m with entries := putEntry (passes e) m.entries }))
    ∧ (findEntry r.key m.entries = none →
      (3072 ≤ m.entries.length → m.present accepted r = { m with overflow := true })
      ∧ (m.entries.length < 3072 → m.present accepted r
          = { m with entries := putEntry (if accepted then takes fresh else passes fresh) m.entries }))

/-! ## Word programs (R26, R27, R31, R48, R49, R95, R98 to R104) -/

/-- A word that verifies on a blank word is programmed, and no other word of the array changes; the completed open
word leaves the append point OPENING for its lane with that word done, and a record's word counts as done (R92, R99,
R100). A word whose record or lane has been given up only frees the append point (R91, R106, R146; log 15). The Log
Writer then goes on, but not in HOLD: the record that a completed open word waited for begins at the append offset, and so
does a run's next member behind the member before it, its key's flash copies one higher and its entry PROGRAMMING
(R25, R47, R92, R98, R99); and the record in progress gives its next word to an Array Controller that has no word program
waiting or under way (R99, R105, R156). An empty host lane is offered the entry at the front of the Write Queue or,
with its member count and total record bytes, the run that starts there (R47, R59, R94). That a host record granted
but not begun is held back when a RESET in DISCARD mode comes, and that a run held back between two members keeps
the append point, are the model's reading of R59 and R107 (log 14). -/
def Obligations.WordProgrammed : Prop :=
  (∀ (s : State) (w : WordReq),
    s.held = false → s.arr.op = some (.word w) → w.sector < 128 → w.index < 4096 →
    (s.flash.word w.sector w.index).isBlank = true →
    ∃ u : State, exec (.wordProgramComplete true) s = .next u.settle
      ∧ u.flash.word w.sector w.index = { data := w.data, ecc := .clean }
      ∧ (∀ sector i, sector < 128 → i < 4096 → (sector ≠ w.sector ∨ i ≠ w.index) →
          u.flash.word sector i = s.flash.word sector i)
      ∧ u.arr.op = none
      ∧ (w.discard = true ∨ (w.role = .openWord ∧ s.lw.point = .opening none false) →
          u.lw = { s.lw with point := .free } ∧ { u with flash := s.flash, arr := s.arr, lw := s.lw } = s)
      ∧ (∀ l, w.discard = false → w.role = .openWord → s.lw.point = .opening (some l) false →
          u.lw = { s.lw with point := .opening (some l) true }
          ∧ { u with flash := s.flash, arr := s.arr, lw := s.lw } = s)
      ∧ (∀ c, w.discard = false → w.role = .firstWord ∨ w.role = .innerWord ∨ w.role = .lastWord → s.lw.cur = some c →
            c.done + 1 < c.image.length →
          u.lw = { s.lw with cur := some { c with done := c.done + 1 } }
          ∧ { u with flash := s.flash, arr := s.arr, lw := s.lw } = s))
  ∧ (∀ s : State,
    let counted := fun k : Key => match s.entry k with
      | some e => { s.dir with entries := putEntry { e with flashCopies := e.flashCopies + 1 } s.dir.entries }
      | none => s.dir
    let programming := fun e : QueueEntry => { e with state := if e.state = .waiting then .programming else e.state }
    let heldBack := fun e : QueueEntry => s.wq.frozen = true ∧ e.state = .waiting
    let begins := fun (r : Record) (member : Nat) => CurRecord.mk r.words 0 0 member
    (s.sup.condition = .hold → s.advanceWriter = s)
    ∧ (s.sup.condition = .normal → s.advanceWriter = s.beginNext.giveWord)
    ∧ (∀ o e rest, s.lw.point = .opening (some .host) true → s.lw.openAt = some o → s.wq.entries = e :: rest →
        (heldBack e → s.beginNext = { s with lw := { s.lw with point := .free } })
        ∧ (¬ heldBack e → s.beginNext = { s with
            dir := counted e.key
            wq := { s.wq with entries := programming e :: rest }
            lw := { s.lw with point := .host, cur := some (begins e.record 0),
                              placement := if e.group.isSome then s.lw.placement ++ [o.offset] else s.lw.placement } }))
    ∧ (∀ r, s.lw.point = .opening (some .relocation) true → s.lw.relocLane = some r → s.beginNext = { s with
        dir := counted r.record.key
        lw := { s.lw with point := .relocation, cur := some (begins r.record 0) } })
    ∧ (∀ o e, s.lw.point = .host → s.lw.cur = none → s.lw.placement ≠ [] → s.lw.openAt = some o →
        s.wq.entries[s.lw.placement.length]? = some e → e.group.isSome →
        (heldBack e → s.beginNext = s)
        ∧ (¬ heldBack e → s.beginNext = { s with
            dir := counted e.key
            wq := { s.wq with entries := s.wq.entries.modify s.lw.placement.length programming }
            lw := { s.lw with cur := some (begins e.record s.lw.placement.length),
                              placement := s.lw.placement ++ [o.offset] } }))
    ∧ (s.lw.cur.isSome → (∀ l, s.lw.point ≠ .opening (some l) true) → s.beginNext = s)
    ∧ (s.lw.point = .free ∨ s.lw.point = .relocation ∨ (∃ l, s.lw.point = .opening l false) → s.beginNext = s))
  ∧ (∀ s : State,
    let busy := s.arr.word.isSome ∨ ∃ w, s.arr.op = some (.word w)
    (∀ c o d, s.lw.cur = some c → s.lw.openAt = some o → c.image[c.done]? = some d → ¬ busy →
      let role : WordRole :=
        if c.done = 0 then .firstWord else if c.done + 1 = c.image.length then .lastWord else .innerWord
      let w : WordReq := { sector := o.sector, index := o.offset / 8 + c.done, data := d, role := role, discard := false }
      s.giveWord = { s with arr := { s.arr with word := some w } })
    ∧ (busy ∨ s.lw.cur = none ∨ s.lw.openAt = none → s.giveWord = s))
  ∧ ∀ s : State,
    (s.lw.hostLane.isSome ∨ s.wq.frozen = true ∨ (∀ e, s.wq.entries.head? = some e → e.state ≠ .waiting) →
      s.offerHost = s)
    ∧ (s.lw.hostLane = none → s.wq.frozen = false → (∀ e, s.wq.entries.head? = some e → e.state = .waiting) →
      (∀ e rest, s.wq.entries = e :: rest → e.group = none →
        s.offerHost = { s with lw := { s.lw with hostLane := some { members := 1, total := e.recLen } } })
      ∧ ∀ body last rest, s.wq.entries = body ++ last :: rest → (∀ x ∈ body, ∃ g, x.group = some (g, false)) →
        (∃ g, last.group = some (g, true)) →
        let offer : HostOffer := { members := body.length + 1, total := ((body ++ [last]).map (fun x => x.recLen)).sum }
        s.offerHost = { s with lw := { s.lw with hostLane := some offer } })

/-- The last word of a lone write's record: the write leaves the Write Queue durable at the append point, the
record it replaces leaves admitted bytes and is dead in its sector, its own bytes are live, its Staging Buffer
bytes are released, the append point moves past it and is free, its waiter, if it has one, is answered OK with
its sequence, and after it the fence waiters whose mark has left the queue with their outcome, in admission
order (R26, R48, R53, R99, R114, R157). -/
def Obligations.LoneRecordDurable : Prop :=
  ∀ (s : State) (w : WordReq) (c : CurRecord) (o : OpenSector) (q : QueueEntry) (rest : List QueueEntry) (e : Entry),
    s.endsRecord w c o → c.member = 0 → s.lw.point = .host → s.wq.entries = q :: rest → q.group = none →
    s.entry q.key = some e →
    let written : Entry := { e with
      queued := e.queued - 1
      durable := some { sector := o.sector, offset := o.offset, seq := q.seq, kind := q.kind, recLen := q.recLen,
                        valLen := q.value.length } }
    ∃ u : State, exec (.wordProgramComplete true) s = .next u.settle
      ∧ u.wq = { s.wq with entries := rest, charged := s.wq.charged - q.recLen, fences := fencesLeft rest s.wq.fences }
      ∧ u.dir = { s.dir with
          entries := putEntry written s.dir.entries
          admitted := s.dir.admitted - (match e.durable with
            | some d => d.recLen
            | none => 0) }
      ∧ u.entry q.key = some written ∧ (∀ k, k ≠ q.key → u.entry k = s.entry k)
      ∧ u.lw = { s.lw with openAt := some { sector := o.sector, offset := o.offset + q.recLen }, point := .free,
                           hostLane := none, hostFailures := 0, cur := none }
      ∧ u.sm = { s.sm with
          table := enlivened (retired (placed s.sm.table o.sector o.offset q.recLen) e.durable) o.sector q.recLen }
      ∧ s.repliedAll ((match q.waiter with
          | some tag => [(tag, [0] ++ le 6 q.seq)]
          | none => []) ++ fenceReplies rest s.wq.fences) u
      ∧ u.link.notices = s.link.notices
      ∧ u.sup = { s.sup with holdTimer := s.sup.holdTimer && !rest.isEmpty }
      ∧ { u with wq := s.wq, dir := s.dir, lw := s.lw, sm := s.sm, req := s.req, link := s.link, sup := s.sup } = { s with
          flash := s.programmed w, arr := { s.arr with op := none } }

/-- The last word of a group member's record. Of a member that is not the end of its run: the member is
PROGRAMMED and stays in the queue, its bytes count as dead, and the run keeps the append point. Of the end
member: every member leaves the queue durable at its own place, in member order, the COMMIT is answered OK with
the first sequence and the member count, and after it the fence waiters whose mark has left the queue (R26, R27,
R49, R53, R71, R98, R99, R114, R157). That the bits of the COMMIT's presence byte without a name are 0 is the model's
reading (log 32). -/
def Obligations.RunMemberDurable : Prop :=
  ∀ (s : State) (w : WordReq) (c : CurRecord) (o : OpenSector) (q : QueueEntry),
    s.endsRecord w c o → s.lw.point = .host → s.wq.entries[c.member]? = some q →
    let table := placed s.sm.table o.sector o.offset q.recLen
    let lw' := { s.lw with openAt := some { sector := o.sector, offset := o.offset + q.recLen }, cur := none }
    (∀ g, q.group = some (g, false) → exec (.wordProgramComplete true) s = .next ({ s with
        flash := s.programmed w
        arr := { s.arr with op := none }
        wq := { s.wq with entries := s.wq.entries.modify c.member (fun x => { x with state := .programmed }) }
        lw := lw'
        sm := { s.sm with table := table } } : State).settle)
    ∧ ∀ g first run rest, q.group = some (g, true) → s.wq.entries = (first :: run) ++ rest →
        (first :: run).length = s.lw.placement.length →
        let after := ((first :: run).zip s.lw.placement).foldl (durableStep o.sector) (s.dir.entries, s.dir.admitted, table)
        ∃ u : State, exec (.wordProgramComplete true) s = .next u.settle
          ∧ u.wq = { s.wq with
              entries := rest
              charged := s.wq.charged - ((first :: run).map (fun x => x.recLen)).sum
              fences := fencesLeft rest s.wq.fences }
          ∧ u.dir = { s.dir with entries := after.1, admitted := after.2.1 }
          ∧ u.sm = { s.sm with table := after.2.2 }
          ∧ u.lw = { lw' with point := .free, hostLane := none, hostFailures := 0, placement := [] }
          ∧ s.repliedAll ((match q.waiter with
              | some tag => [(tag, [0, 1, BitVec.ofNat 8 (run.length + 1)] ++ le 6 first.seq)]
              | none => []) ++ fenceReplies rest s.wq.fences) u
          ∧ u.link.notices = s.link.notices
          ∧ u.sup = { s.sup with holdTimer := s.sup.holdTimer && !rest.isEmpty }
          ∧ { u with wq := s.wq, dir := s.dir, lw := s.lw, sm := s.sm, req := s.req, link := s.link, sup := s.sup } = { s with
              flash := s.programmed w, arr := { s.arr with op := none } }

/-- The last word of a relocated copy or LOSS record: if its key's durable part still names the source, it moves
to the copy's place and length, admitted bytes with it, the source dead and the copy live; otherwise the copy is
dead where it lies. The lane is empty, its failure count 0 and the append point free, and the walk that waited
for the copy goes on behind the source (R31, R32, R38, R95, R99, R114, R121, R123 to R125). That a header at the
last word of a sector is one word is the model's choice (log 12). -/
def Obligations.RelocationDurable : Prop :=
  ∀ (s : State) (w : WordReq) (c : CurRecord) (o : OpenSector) (r : RelocRecord),
    s.endsRecord w c o → s.lw.point = .relocation → s.lw.relocLane = some r →
    let b := r.record.bytes
    let names := fun (e : Entry) (d : DurablePart) => s.entry r.record.key = some e ∧ e.durable = some d
      ∧ d.sector = r.sector ∧ d.offset = r.offset
    ∃ base u : State, exec (.wordProgramComplete true) s = .next u.settle
      ∧ (∀ wk next, s.sm.walk = some wk → wk.phase = .copying next → base.walkGoesOn wk next u)
      ∧ ((∀ wk next, s.sm.walk = some wk → wk.phase ≠ .copying next) → u = base)
      ∧ base.lw = { s.lw with openAt := some { sector := o.sector, offset := o.offset + b }, point := .free, cur := none,
                              relocLane := none, relocFailures := 0 }
      ∧ (∀ e d, names e d →
          let admitted := s.dir.admitted - d.recLen + b
          base.dir = { s.dir with
            entries := putEntry { e with durable := some { d with sector := o.sector, offset := o.offset, recLen := b } } s.dir.entries
            admitted := admitted }
          ∧ base.link = { s.link with notices := s.noticesAfter admitted }
          ∧ base.sm = { s.sm with
              table := enlivened (retired (placed s.sm.table o.sector o.offset b) e.durable) o.sector b })
      ∧ ((∀ e d, ¬ names e d) → base.dir = s.dir ∧ base.link = s.link
          ∧ base.sm = { s.sm with table := placed s.sm.table o.sector o.offset b })
      ∧ { base with lw := s.lw, dir := s.dir, link := s.link, sm := s.sm } = { s with
          flash := s.programmed w, arr := { s.arr with op := none } }

/-- A word of a lane's record or its open word that fails, times out, or was found not blank: the open sector is
closed with its fault flag set and the bytes begun counted dead, the append point is free, and the record stays
in its lane with its failure count one higher; the host lane's third failure is a media fault, which fails the
whole Write Queue and sends ONLINE to READ_ONLY; the relocation lane's third drops its record, abandons the walk
and a TIDY, and sends ONLINE and DRAINING to READ_ONLY (R56, R100 to R104, R114). A word whose lane has been
emptied closes its sector and raises no count, and one whose record has been given up only frees the append
point (R91, R106, R146; log 15). -/
def Obligations.WordProgramFails : Prop :=
  ∀ (s : State) (c : Instr) (w : WordReq),
    s.held = false → s.arr.op = some (.word w) → w.sector < 128 → w.index < 4096 →
    (c = .wordProgramComplete false ∨ c = .wordProgramTimeout
      ∨ (c = .wordProgramComplete true ∧ (s.flash.word w.sector w.index).isBlank = false)) →
    ∃ u : State, exec c s = .next u.settle
      ∧ (∀ sector i, sector < 128 → i < 4096 → (sector ≠ w.sector ∨ i ≠ w.index) →
          u.flash.word sector i = s.flash.word sector i)
      ∧ ((s.flash.word w.sector w.index).isBlank = false → u.flash = s.flash ∧ u.seeds = s.seeds)
      ∧ (w.discard = true → { u with flash := s.flash, seeds := s.seeds } = { s with
          arr := { s.arr with op := none }, lw := { s.lw with point := .free } })
      ∧ (∀ o, w.discard = false → s.lw.openAt = some o →
          let begun := match s.lw.cur with
            | some r => 8 * r.begun
            | none => 0
          let lw' := { s.lw with openAt := none, point := .free, cur := none,
                                 placement := if s.lw.point = .host then [] else s.lw.placement }
          let base : State := { s with
            flash := u.flash
            seeds := u.seeds
            arr := { s.arr with op := none }
            lw := lw'
            sm := { s.sm with table := s.sm.table.modify o.sector (fun e =>
              { e with state := .full, appendOffset := none, fault := true, dead := e.dead + begun }) } }
          let host := s.lw.point = .host ∨ ∃ done, s.lw.point = .opening (some .host) done
          let reloc := s.lw.point = .relocation ∨ ∃ done, s.lw.point = .opening (some .relocation) done
          (host → s.lw.hostFailures < 2 → u = { base with lw := { lw' with hostFailures := s.lw.hostFailures + 1 } })
          ∧ (host → 2 ≤ s.lw.hostFailures → base.hostFails u)
          ∧ (reloc → s.lw.relocFailures < 2 → u = { base with lw := { lw' with relocFailures := s.lw.relocFailures + 1 } })
          ∧ (reloc → 2 ≤ s.lw.relocFailures → base.dropsRelocation u)
          ∧ (¬ host → ¬ reloc → u = base))

/-! ## Erases (R110 to R112, R127 to R131) -/

/-- An erase's phases: at its suspension point the pulse gives way to what waits, the oldest read of class 1, a
reclaim read, or a word program; no erase times out while it is suspended, nor past its pulse (R110, R111); the
pulse's end leaves every word of the sector blank but those that did not return to ones, and no other sector changed;
a blank check that passes lets the erase word begin when nothing waits; and the window's expiry closes the gathering
batch (R2, R110 to R112, R128). The Array Controller's choice: nothing while an operation, a pulse or an erase word is
under way; else the oldest GET read, else the oldest reclaim or mount read, else the word program, a record's word
then counting as begun; and with nothing waiting in these classes the erase goes on, its pulse resumed unless a record
or open word is in progress, or the waiting erase starts, its sector indeterminate and without a valid erase word, the
count to be written one more than the Sector Table's at that moment, the places its walk reserved released (R2, R3,
R33, R99, R108, R110, R111, R114). In HOLD reads alone start (R112). That a suspension point that nothing waits for
has no effect, that reads and word programs that wait go before the erase word, and what the words of a cut sector
read as, are the model's choices (logs 10, 27 and 4). -/
def Obligations.ErasePhases : Prop :=
  (∀ (s : State), s.held = false →
    (∀ r g rest, s.arr.erase = some r → r.phase = .pulse → s.arr.op = none → s.arr.gets = g :: rest →
      ∃ t : State, exec .eraseSuspend s = .next t
        ∧ t.arr = { s.arr with op := some (.read g), gets := rest, erase := some { r with phase := .suspended } }
        ∧ s.queued s.link.txq t ∧ { t with link := s.link, arr := s.arr } = s)
    ∧ (∀ r, s.arr.erase = some r → r.phase = .pulse →
        s.arr.gets ≠ [] ∨ s.arr.walks ≠ [] ∨ (s.arr.word.isSome ∧ s.sup.condition = .normal) →
        exec .eraseSuspend s
          = .next (State.schedule { s with arr := { s.arr with erase := some { r with phase := .suspended } } }).consult)
    ∧ (s.arr.gets = [] → s.arr.walks = [] → s.arr.word = none → exec .eraseSuspend s = .next s)
    ∧ ((∀ r, s.arr.erase = some r → r.phase ≠ .pulse) → exec .eraseTimeout s = .next s)
    ∧ (∀ r stuck, s.arr.erase = some r → r.phase = .pulse → r.req.sector < 128 →
        ∃ t : State, exec (.erasePulseComplete stuck) s = .next t
          ∧ (∀ i, i < 4096 → (∀ p ∈ stuck, p.1 ≠ i) → t.flash.word r.req.sector i = { data := BitVec.allOnes 64, ecc := .clean })
          ∧ (∀ sector i, sector < 128 → i < 4096 → sector ≠ r.req.sector → t.flash.word sector i = s.flash.word sector i)
          ∧ t.arr.erase = some { r with phase := .blankCheck }
          ∧ t.req = s.req ∧ t.wq = s.wq ∧ t.dir = s.dir ∧ t.sm = s.sm ∧ t.dev = s.dev ∧ t.sup = s.sup)
    ∧ (∀ r, s.arr.erase = some r → r.phase = .blankCheck → s.sup.condition = .normal →
        (∀ i, i < 4096 → s.flash.word r.req.sector i = { data := BitVec.allOnes 64, ecc := .clean }) →
        ∃ t : State, exec .blankCheckComplete s = .next t
          ∧ t.arr.erase = some { r with phase :=
              if s.arr.op = none ∧ s.arr.gets = [] ∧ s.arr.walks = [] ∧ s.arr.word = none then .header else .checked }
          ∧ t.flash = s.flash ∧ t.req = s.req ∧ t.wq = s.wq ∧ t.dir = s.dir ∧ t.sm = s.sm ∧ t.dev = s.dev)
    ∧ (s.sm.batch.window = true → s.sm.batch.running = false → s.sm.batch.members ≠ [] →
        exec .eraseWindowExpiry s = .next ({ s with sm := { s.sm with batch := { s.sm.batch with running := true, window := false } } } : State).settle))
  ∧ ∀ s : State,
    let free := s.arr.op = none ∧ ∀ r, s.arr.erase = some r → r.phase ≠ .pulse ∧ r.phase ≠ .header
    let quiet := free ∧ s.arr.gets = [] ∧ s.arr.walks = []
    let idle := quiet ∧ s.arr.word = none ∧ s.sup.condition = .normal
    let inProgress := s.lw.cur.isSome ∨ ∃ l, s.lw.point = .opening l false
    let passesTo := fun (r : EraseRun) (p : ErasePhase) =>
      s.schedule = { s with arr := { s.arr with erase := some { r with phase := p } } }
    (¬ free → s.schedule = s)
    ∧ (∀ g rest, free → s.arr.gets = g :: rest →
        s.schedule = { s with arr := { s.arr with op := some (.read g), gets := rest } })
    ∧ (∀ g rest, free → s.arr.gets = [] → s.arr.walks = g :: rest →
        s.schedule = { s with arr := { s.arr with op := some (.read g), walks := rest } })
    ∧ (∀ w, quiet → s.arr.word = some w → s.sup.condition = .normal → s.schedule = { s with
        arr := { s.arr with op := some (.word w), word := none }
        lw := if w.role = .firstWord ∨ w.role = .innerWord ∨ w.role = .lastWord then
            { s.lw with cur := s.lw.cur.map (fun c => { c with begun := c.begun + 1 }) }
          else s.lw })
    ∧ (∀ r, idle → s.arr.erase = some r →
        (r.phase = .checked → passesTo r .header)
        ∧ (r.phase = .suspended → ¬ inProgress → passesTo r .pulse)
        ∧ (r.phase = .suspended → inProgress → s.schedule = s)
        ∧ (r.phase = .blankCheck → s.schedule = s))
    ∧ (∀ q, idle → s.arr.erase = none → s.arr.eraseReq = some q →
        s.schedule = { s with
          arr := { s.arr with
            eraseReq := none
            erase := some { req := { q with count := min 16777215 ((s.sector q.sector).eraseCount + 1) }, phase := .pulse } }
          flash := s.flash.wreck q.sector s.seeds
          seeds := s.seeds + 1
          dir := { s.dir with reserved := s.dir.reserved.filter (fun x => x.victim != q.sector) } }
        ∧ (q.sector < 128 → (s.schedule.flash.word q.sector 0).erase? = none)
        ∧ ∀ sector i, sector < 128 → i < 4096 → sector ≠ q.sector → s.schedule.flash.word sector i = s.flash.word sector i)
    ∧ (idle → s.arr.erase = none → s.arr.eraseReq = none → s.schedule = s)
    ∧ (quiet → s.sup.condition = .hold → s.arr.erase = none → s.schedule = s)

/-- An erase that fails retires its sector: its running time passes 500 ms in the pulse; a word is not blank after it;
or its erase word fails, times out, or is found not blank. Of the array at most that word changes, and it is left
without a valid erase word. A batch's sector then leaves the batch RETIRED,
SECTOR_RETIRED is marked, and the admission limit is evaluated, which marks SPACE_LOW when it falls so far that
admitted bytes pass nine tenths of it, and may send ONLINE and DRAINING to READ_ONLY, with a STATE notice (R37, R38,
R100, R110, R130, R137). That a limit evaluated in READ_ONLY can mark SPACE_LOW is the model's choice (log 28). That
the timeout of a word covers the erase word is the model's reading (log 24). -/
def Obligations.EraseRetires : Prop :=
  ∀ (s : State) (c : Instr) (r : EraseRun),
    s.held = false → s.arr.erase = some r → r.req.sector < 128 → r.req.forFormat = false →
    ((c = .eraseTimeout ∧ r.phase = .pulse)
      ∨ (c = .blankCheckComplete ∧ r.phase = .blankCheck
          ∧ ∃ i, i < 4096 ∧ s.flash.word r.req.sector i ≠ { data := BitVec.allOnes 64, ecc := .clean })
      ∨ (c = .eraseWordProgramComplete false ∧ r.phase = .header)
      ∨ (c = .eraseWordProgramComplete true ∧ r.phase = .header ∧ (s.flash.word r.req.sector 0).isBlank = false)
      ∨ (c = .wordProgramTimeout ∧ r.phase = .header ∧ s.arr.op = none)) →
    let table := s.sm.table.modify r.req.sector (fun e => { e with state := .retired, live := 0, dead := 0 })
    let limit := (128 - table.countP (fun e => e.state == .retired) - 4) * 28672
    let falls := limit < s.dir.admitted ∧ (s.dev.state = .online ∨ s.dev.state = .draining)
    let crosses := s.dir.admitted * 10 ≤ s.dir.limit * 9 ∧ limit * 9 < s.dir.admitted * 10
    let told := joinNotice .sectorRetired s.link.notices
    let spaced := if crosses then joinNotice .spaceLow told else told
    ∃ u : State, exec c s = .next u.settle
      ∧ u.arr = { s.arr with erase := none } ∧ s.eraseFails c r.req.sector u
      ∧ u.sm = { s.sm with
          table := table, wearDue := true
          batch := { s.sm.batch with
            members := s.sm.batch.members.filter (fun n => n != r.req.sector)
            running := s.sm.batch.running && !(s.sm.batch.members.filter (fun n => n != r.req.sector)).isEmpty } }
      ∧ u.link = { s.link with notices := if falls then joinNotice .state spaced else spaced }
      ∧ u.dir = { s.dir with limit := limit }
      ∧ u.dev = { s.dev with state := if falls then .readOnly else s.dev.state }
      ∧ { u with link := s.link, dir := s.dir, arr := s.arr, sm := s.sm, dev := s.dev, flash := s.flash, seeds := s.seeds } = s

/-- An erase of the batch that ends DONE: its sector carries a valid erase word with the epoch and count of the
request and no other word changed, its Sector Table entry is that of a fresh ERASED sector with the count
written, it leaves the batch, and the wear check is due (R3, R110, R129). The request names the current epoch when it
is made (EraseBatchGathers) and keeps it when a FORMAT overtakes the erase (FormatTakesEffect, log 21); its count is
fixed when the erase begins (ErasePhases). -/
def Obligations.EraseDone : Prop :=
  ∀ (s : State) (r : EraseRun),
    s.held = false → s.arr.erase = some r → r.phase = .header → r.req.sector < 128 → r.req.forFormat = false →
    r.req.count ≤ 16777215 → (s.flash.word r.req.sector 0).isBlank = true →
    let fresh := fun e : SectorEntry =>
      { e with state := .erased, eraseCount := r.req.count, openGen := none, live := 0, dead := 0, appendOffset := none,
               corrected := 0, fault := false, dirty := false }
    ∃ u : State, exec (.eraseWordProgramComplete true) s = .next u.settle
      ∧ (u.flash.word r.req.sector 0).erase? = some (r.req.epoch, r.req.count)
      ∧ (∀ sector i, sector < 128 → i < 4096 → (sector ≠ r.req.sector ∨ i ≠ 0) →
          u.flash.word sector i = s.flash.word sector i)
      ∧ u.arr = { s.arr with erase := none }
      ∧ u.sm = { s.sm with
          table := s.sm.table.modify r.req.sector fresh
          wearDue := true
          batch := { s.sm.batch with
            members := s.sm.batch.members.filter (fun n => n != r.req.sector)
            running := s.sm.batch.running && !(s.sm.batch.members.filter (fun n => n != r.req.sector)).isEmpty } }
      ∧ { u with arr := s.arr, flash := s.flash, sm := s.sm } = s

/-- The Erase Batch gathers: sectors leave the head of the stale order for a batch that is not running, up to 4,
each ERASING, and each join starts the window again (R127). It closes at 4 members, or with no ERASED sector
(R128). While it runs, the erase of its first member is requested with the current epoch and its count plus one,
once no GET reads the sector and no erase is under way (R110, R128). Before mount has completed, in UNFORMATTED
and in FORMATTING it does neither (R116, R142, R146). That sectors ready in one event join before the batch
closes is the model's reading (log 19). -/
def Obligations.EraseBatchGathers : Prop :=
  ∀ s : State,
    let active := s.dev.state = .online ∨ s.dev.state = .readOnly ∨ s.dev.state = .draining
    let batch := s.sm.batch
    let joining := s.sm.staleOrder.take (4 - batch.members.length)
    let closes := active ∧ batch.running = false ∧ batch.members ≠ [] ∧ (4 ≤ batch.members.length ∨ s.count .erased = 0)
    (active → batch.running = false → joining ≠ [] → s.joinBatch = { s with sm := { s.sm with
      table := joining.foldl (fun x n => x.modify n (fun e => { e with state := .erasing })) s.sm.table
      batch := { batch with members := batch.members ++ joining, window := true }
      staleOrder := s.sm.staleOrder.drop (4 - batch.members.length) } })
    ∧ (¬ active ∨ batch.running = true ∨ joining = [] → s.joinBatch = s)
    ∧ (closes → s.closeBatch = { s with sm := { s.sm with batch := { batch with running := true, window := false } } })
    ∧ (¬ closes → s.closeBatch = s)
    ∧ ∀ n rest, s.arr.eraseReq = none → s.sm.format = none → batch.members = n :: rest →
      let due := active ∧ batch.running = true ∧ s.arr.erase = none ∧ (s.sector n).readers = 0
      let q : EraseReq :=
        { sector := n, epoch := s.sm.epoch, count := min 16777215 ((s.sector n).eraseCount + 1), forFormat := false }
      (due → s.requestErase = { s with arr := { s.arr with eraseReq := some q } })
      ∧ (¬ due → s.requestErase = s)

/-! ## The supply, power-on reset and nRESET (R136, R152 to R158) -/

/-- The supply condition: a fall below the hold threshold enters HOLD, marks SUPPLY, starts the hold timer if
anything is queued, and abandons an erase whose erase word is not under way; in HOLD a rise above the normal
threshold starts the qualification timer and a fall stops it; its expiry enters NORMAL, marks SUPPLY and stops
the hold timer (R112, R152, R154, R156, R157). A batch's sector whose erase is abandoned becomes STALE and dirty and
joins the stale order, but joins none while the device is FORMATTING (R127, R130, R146). An event that its condition
gives no cause for has no effect (the model's choice, log 10); a held controller follows the condition and the
qualification timer, and nothing else acts (its reading, log 18). -/
def Obligations.SupplyConditions : Prop :=
  (∀ s : State, s.held = false →
    (s.sup.condition = .normal →
      ∃ u : State, exec .supplyBelowHold s = .next u.settle
        ∧ u.sup = { s.sup with condition := .hold, qualifying := false,
                               holdTimer := s.sup.holdTimer || !s.wq.entries.isEmpty }
        ∧ u.link = { s.link with notices := joinNotice .supply s.link.notices }
        ∧ ((∀ r, s.arr.erase = some r → r.phase = .header) → { u with sup := s.sup, link := s.link } = s)
        ∧ (∀ r, s.arr.erase = some r → r.phase ≠ .header → r.req.forFormat = false →
            u.arr = { s.arr with erase := none }
            ∧ u.flash = s.flash.wreck r.req.sector s.seeds
            ∧ u.sm = { s.sm with
                table := s.sm.table.modify r.req.sector (fun e => { e with state := .stale, live := 0, dead := 0, dirty := true })
                staleOrder := if s.storeActive then s.sm.staleOrder ++ [r.req.sector] else s.sm.staleOrder
                batch := { s.sm.batch with
                  members := s.sm.batch.members.filter (fun n => n != r.req.sector)
                  running := s.sm.batch.running && !(s.sm.batch.members.filter (fun n => n != r.req.sector)).isEmpty } }
            ∧ { u with sup := s.sup, link := s.link, arr := s.arr, flash := s.flash, seeds := s.seeds, sm := s.sm } = s))
    ∧ (s.sup.condition = .hold →
        exec .supplyBelowHold s = .next { s with sup := { s.sup with qualifying := false } }
        ∧ exec .supplyAboveNormal s = .next { s with sup := { s.sup with qualifying := true } }
        ∧ exec .supplyFallInQualification s = .next { s with sup := { s.sup with qualifying := false } })
    ∧ (s.sup.condition = .normal → exec .supplyAboveNormal s = .next s)
    ∧ (s.sup.condition = .hold → s.sup.qualifying = true →
        exec .qualificationTimerExpiry s = .next ({ s with
          sup := { s.sup with condition := .normal, qualifying := false, holdTimer := false }
          link := { s.link with notices := joinNotice .supply s.link.notices } } : State).settle)
    ∧ (s.sup.qualifying = false → exec .qualificationTimerExpiry s = .next s))
  ∧ ∀ s : State, s.held = true →
    exec .supplyBelowHold s = .next { s with sup := { s.sup with condition := .hold, qualifying := false } }
    ∧ exec .supplyFallInQualification s = .next { s with sup := { s.sup with qualifying := false } }
    ∧ exec .supplyAboveNormal s = .next (if s.sup.condition = .hold ∧ s.sup.powerOnReset = false then
        { s with sup := { s.sup with qualifying := true } } else s)
    ∧ exec .qualificationTimerExpiry s = .next (if s.sup.condition = .hold ∧ s.sup.qualifying = true then
        { s with sup := { s.sup with condition := .normal, qualifying := false, holdTimer := false } } else s)

/-- The hold timer's expiry: every entry of the Write Queue fails with SUPPLY_LOW and every fence waiter with
FAILED_BEFORE, their replies in that order, and each key goes back to its durable version, is left without a
version while a copy of it is counted, or leaves the Directory; the host lane is emptied with its count and its
stall, and its record or run given up; the open sector is closed, with the bytes begun counted dead, if it holds
words of it; the relocation lane is as it was (R28, R53 to R55, R106, R114, R158). That the append point is
taken until a word under way has ended is the model's choice (log 15). -/
def Obligations.HoldTimerExpires : Prop :=
  ∀ s : State, s.held = false → s.sup.holdTimer = true →
    let hasWords : Bool := match s.lw.point, s.lw.cur with
      | .host, some c => decide (0 < c.begun ∨ 0 < c.member)
      | .host, none => !s.lw.placement.isEmpty
      | _, _ => false
    let begun := match s.lw.cur with
      | some c => 8 * c.begun
      | none => 0
    ∃ u : State, exec .holdTimerExpiry s = .next u.settle
      ∧ s.queueFails 15 u ∧ u.wq.mediaFault = s.wq.mediaFault ∧ u.link.notices = s.link.notices
      ∧ u.lw = { s.lw with
          openAt := if hasWords then none else s.lw.openAt
          point := (match s.lw.point with
            | .host => match s.arr.op with
              | some (.word _) => .host
              | some (.read _) | none => .free
            | .opening (some .host) done => if done then .free else .opening none false
            | p => p)
          cur := if s.lw.point = .host then none else s.lw.cur
          hostLane := none, hostFailures := 0, placement := [] }
      ∧ u.arr = (if s.lw.point = .host then { s.arr with
            word := none
            op := (match s.arr.op with
              | some (.word w) => some (.word { w with discard := true })
              | x => x) }
          else s.arr)
      ∧ u.sm = { s.sm with
          hostStall := false
          table := (match s.lw.openAt with
            | some o => if hasWords then s.sm.table.modify o.sector (fun e =>
                { e with state := .full, appendOffset := none, dead := e.dead + begun }) else s.sm.table
            | none => s.sm.table) }
      ∧ { u with wq := s.wq, req := s.req, link := s.link, dir := s.dir, sup := s.sup, lw := s.lw, arr := s.arr, sm := s.sm } = s

/-- Power-on reset and nRESET: their assertion holds the controller and stops the array operation where it
stands, touching no word but the one under way; a release interval that passes, or nRESET's return, restarts the
part unless the other still holds it; and a held controller is deaf to every other command (R107, R136, R153).
What a held controller and an event without a cause do, and what the restart leaves of the supply and has in its
own event, are the model's choices (logs 10, 18 and 26), as is that the words of a sector past its erase's pulse
are left alone (log 4). -/
def Obligations.RestartEvents : Prop :=
  ∀ s : State,
    (∀ sector i, sector < 128 → i < 4096 → ¬ s.underWay sector i →
      s.cutArray.flash.word sector i = s.flash.word sector i)
    ∧ exec .powerOnResetAsserted s = .next { s with
        flash := s.cutArray.flash, seeds := s.cutArray.seeds, arr := { s.arr with op := none, erase := none }
        sup := { s.sup with powerOnReset := true, releasing := false, qualifying := false } }
    ∧ exec .nresetLow s = .next { s with
        flash := s.cutArray.flash, seeds := s.cutArray.seeds, arr := { s.arr with op := none, erase := none }
        sup := { s.sup with nresetLow := true } }
    ∧ (s.sup.powerOnReset = true →
        exec .supplyAbovePowerOnThreshold s = .next { s with sup := { s.sup with releasing := true } })
    ∧ (s.sup.powerOnReset = false → exec .supplyAbovePowerOnThreshold s = .next s)
    ∧ (∀ above, s.sup.powerOnReset = true → s.sup.releasing = true →
        let sup := { s.sup with condition := if above then SupplyCondition.normal else .hold, qualifying := false, holdTimer := false,
                                powerOnReset := false, releasing := false }
        (s.sup.nresetLow = false → ∃ t : State, exec (.powerOnRelease above) s = .next t
            ∧ ({ s with sup := sup } : State).restartsTo t)
        ∧ (s.sup.nresetLow = true → exec (.powerOnRelease above) s = .next { s with sup := sup }))
    ∧ (∀ above, s.sup.powerOnReset = false ∨ s.sup.releasing = false → exec (.powerOnRelease above) s = .next s)
    ∧ (s.sup.nresetLow = true → s.sup.powerOnReset = false →
        ∃ t : State, exec .nresetHigh s = .next t ∧ ({ s with sup := { s.sup with nresetLow := false } } : State).restartsTo t)
    ∧ (s.sup.nresetLow = true → s.sup.powerOnReset = true →
        exec .nresetHigh s = .next { s with sup := { s.sup with nresetLow := false } })
    ∧ (s.sup.nresetLow = false → exec .nresetHigh s = .next s)
    ∧ (∀ c, s.held = true →
        c ∉ [.supplyBelowHold, .supplyAboveNormal, .supplyFallInQualification, .qualificationTimerExpiry,
             .powerOnResetAsserted, .supplyAbovePowerOnThreshold, .nresetLow, .nresetHigh] →
        (∀ above, c ≠ .powerOnRelease above) → exec c s = .next s)

/-! ## Choices inside the part (R17, R37, R92, R96, R97, R118, R119, R126, R131) -/

/-- The append arbiter: a lane can be placed when its record fits in the open sector or when it may open one,
which takes more than 2 ERASED sectors for the host lane and one for the relocation lane; when both can, the
relocation lane goes first at 2 ERASED sectors or fewer. After a RESET in DISCARD mode a host record that has not been
begun is not placed (R59, R107; the model's reading, log 14). A sector opened is an ERASED one of the lowest erase
count, and of the lowest number among those (R92, R93, R96). The victim: FULL sectors, or those on the TIDY list
when only the TIDY asks; first those with 4 or more corrected words, then those with dead bytes or without live
bytes; the most dead bytes, then the lower erase count, then the lower number; none when no candidate qualifies
(R119). -/
def Obligations.LaneAndVictimChosen : Prop :=
  ((∀ s : State,
    let heldBack := s.wq.frozen = true ∧ ∃ e rest, s.wq.entries = e :: rest ∧ e.state = .waiting
    let fits := fun b => ∃ o, s.lw.openAt = some o ∧ o.offset + b ≤ 32768
    let host := ¬ heldBack ∧ ∃ h, s.lw.hostLane = some h ∧ (fits h.total ∨ 2 < s.count .erased)
    let reloc := ∃ r, s.lw.relocLane = some r ∧ (fits r.record.bytes ∨ 1 ≤ s.count .erased)
    (s.granted = some .host ↔ host ∧ (¬ reloc ∨ 2 < s.count .erased))
    ∧ (s.granted = some .relocation ↔ reloc ∧ (¬ host ∨ s.count .erased ≤ 2))
    ∧ (s.granted = none ↔ ¬ host ∧ ¬ reloc))
  ∧ ∀ (table : List SectorEntry),
    let erased := fun n => n < table.length ∧ (table.getD n SectorEntry.initial).state = .erased
    let count := fun n => (table.getD n SectorEntry.initial).eraseCount
    (∀ n, lowestErased table = some n ↔ erased n ∧ ∀ m, erased m → count n < count m ∨ (count n = count m ∧ n ≤ m))
    ∧ (lowestErased table = none ↔ ∀ n, ¬ erased n))
  ∧ (∀ s : State,
    let onList := fun n => ∃ t, s.sm.tidy = some t ∧ n ∈ t.list
    let candidate := fun n => n < s.sm.table.length ∧ (s.sector n).state = .full
      ∧ (s.sm.lowSpace = true ∨ s.sm.hostStall = true ∨ onList n)
    let scrub := fun n => candidate n ∧ 4 ≤ (s.sector n).corrected
    let worth := fun n => candidate n ∧ (0 < (s.sector n).dead ∨ (s.sector n).live = 0)
    let before := fun a b => (s.sector b).dead < (s.sector a).dead
      ∨ ((s.sector a).dead = (s.sector b).dead ∧ ((s.sector a).eraseCount < (s.sector b).eraseCount
        ∨ ((s.sector a).eraseCount = (s.sector b).eraseCount ∧ a ≤ b)))
    (∀ n, s.victim? = some n ↔
      (scrub n ∧ ∀ m, scrub m → before n m) ∨ ((∀ m, ¬ scrub m) ∧ worth n ∧ ∀ m, worth m → before n m))
    ∧ (s.victim? = none ↔ ∀ m, ¬ scrub m ∧ ¬ worth m))

/-- The low-space latch, when one of the numbers it stands for has changed, is clear at 6 or more sectors ERASED,
STALE or ERASING, else set at 4 or fewer ERASED, else as it was (R118). With a demand and the engine IDLE, the victim
that R119 chooses becomes RECLAIMING and its walk begins. When an erase of the event has ended DONE or with a
retirement, the wear check looks for the FULL sector of the lowest erase count, and with the engine IDLE and a spread
above 2000 from the highest count of a usable sector its walk begins and WEAR is marked (R131). Each acts only in
ONLINE, READ_ONLY or DRAINING, but the latch and the wear check, whose erases need no such state. That the latch is
evaluated while FORMATTING too, and that the model keeps the numbers it stands for, is its reading of R116, R118 and
R146 (logs 29 and 33). -/
def Obligations.DemandsAct : Prop :=
  ∀ s : State,
    let active := s.dev.state = .online ∨ s.dev.state = .readOnly ∨ s.dev.state = .draining
    let free := s.count .erased + s.count .stale + s.count .erasing
    let demand := s.sm.lowSpace = true ∨ s.sm.hostStall = true ∨ ∃ t, s.sm.tidy = some t ∧ t.list ≠ []
    let count := fun n => (s.sector n).eraseCount
    let full := fun n => n < s.sm.table.length ∧ (s.sector n).state = .full
    let usable := fun n => n < s.sm.table.length ∧ (s.sector n).state ≠ .retired
    let cleared : State := { s with sm := { s.sm with wearDue := false } }
    let moves := fun n => s.sm.wearDue = true ∧ s.sm.engine = .idle ∧ full n
      ∧ (∀ k, full k → count n < count k ∨ (count n = count k ∧ n ≤ k)) ∧ ∃ k, usable k ∧ count n + 2000 < count k
    let numbers := (s.count .erased, s.count .stale, s.count .erasing)
    (active ∨ s.dev.state = .formatting → s.sm.latchFor ≠ numbers → s.evalLatch = { s with sm := { s.sm with
      lowSpace := if 6 ≤ free then false else if s.count .erased ≤ 4 then true else s.sm.lowSpace
      latchFor := numbers } })
    ∧ ((¬ active ∧ s.dev.state ≠ .formatting) ∨ s.sm.latchFor = numbers → s.evalLatch = s)
    ∧ (∀ n, active → s.sm.engine = .idle → demand → s.victim? = some n → s.walkBegins n s.chooseVictim)
    ∧ (¬ (active ∧ s.sm.engine = .idle ∧ demand) ∨ s.victim? = none → s.chooseVictim = s)
    ∧ (∀ n, moves n → ∃ t : State, cleared.walkBegins n t
        ∧ s.wearCheck = { t with link := { t.link with notices := joinNotice .wear t.link.notices } })
    ∧ ((∀ n, ¬ moves n) → s.wearCheck = cleared)

/-- A lane that holds a record not yet granted, which does not fit and for which it may not open a sector, is found
stalled, whatever the other lane is doing and in HOLD too. The append arbiter grants nothing in HOLD or while the
append point is taken; a granted lane's stall clears, and its record begins if it
fits, its key's flash copies one higher and its entry PROGRAMMING if it was WAITING (a record or run that is
programmed again after a failure keeps its state, R101, R102), or else the open sector is closed and another opened with the next
generation, its open word given to the array (R4, R25, R92, R93, R96, R97, R99). A relocation record that cannot
be placed, when no erase can help, is dropped; a host stall beyond relief is a media fault (R126). That the host
stall stays until its lane is granted or emptied, and the relocation stall counts for R126 only as it stands, is the
model's reading (log 23). -/
def Obligations.StallsRelieved : Prop :=
  (∀ s : State,
    let fits := fun b => ∃ o, s.lw.openAt = some o ∧ o.offset + b ≤ 32768
    let hostGranted := s.lw.point = .host ∨ ∃ done, s.lw.point = .opening (some .host) done
    let relocGranted := s.lw.point = .relocation ∨ ∃ done, s.lw.point = .opening (some .relocation) done
    let hostStalls := ¬ hostGranted ∧ ∃ h, s.lw.hostLane = some h ∧ ¬ fits h.total ∧ s.count .erased ≤ 2
    let relocStalls := ¬ relocGranted ∧ ∃ r, s.lw.relocLane = some r ∧ ¬ fits r.record.bytes ∧ s.count .erased = 0
    ∃ found : State, { found with sm := { found.sm with hostStall := s.sm.hostStall, relocStall := s.sm.relocStall } } = s
      ∧ (found.sm.hostStall = true ↔ s.sm.hostStall = true ∨ hostStalls)
      ∧ (found.sm.relocStall = true ↔ s.sm.relocStall = true ∨ relocStalls)
      ∧ (s.lw.point ≠ .free ∨ s.sup.condition = .hold ∨ s.granted = none → s.arbitrate = found)
      ∧ ∀ l b, s.lw.point = .free → s.sup.condition = .normal → s.granted = some l →
        (l = .host ∧ (∃ h, s.lw.hostLane = some h ∧ h.total = b)) ∨ (l = .relocation ∧ ∃ r, s.lw.relocLane = some r ∧ r.record.bytes = b) →
        let sm' := { found.sm with
          hostStall := found.sm.hostStall && decide (l ≠ .host)
          relocStall := found.sm.relocStall && decide (l ≠ .relocation) }
        let counted := fun k : Key => match s.entry k with
          | some e => { s.dir with entries := putEntry { e with flashCopies := e.flashCopies + 1 } s.dir.entries }
          | none => s.dir
        (fits b → l = .host → ∀ e rest, s.wq.entries = e :: rest → s.arbitrate = { s with
            sm := sm'
            dir := counted e.key
            wq := { s.wq with entries := { e with state := if e.state = .waiting then .programming else e.state } :: rest }
            lw := { s.lw with
              point := .host
              placement := if e.group.isSome then s.lw.placement ++ [s.appendOffset] else s.lw.placement
              cur := some { image := e.record.words, done := 0, begun := 0, member := 0 } } })
        ∧ (fits b → l = .relocation → ∀ r, s.lw.relocLane = some r → s.arbitrate = { s with
            sm := sm'
            dir := counted r.record.key
            lw := { s.lw with point := .relocation, cur := some { image := r.record.words, done := 0, begun := 0, member := 0 } } })
        ∧ (∀ n gen, ¬ fits b →
            let closed := match s.lw.openAt with
              | some o => s.sm.table.modify o.sector (fun e => { e with state := .full, appendOffset := none })
              | none => s.sm.table
            lowestErased closed = some n → s.lw.genCounter = some gen → s.arbitrate = { s with
              sm := { sm' with table := closed.modify n (fun e =>
                { e with state := .opened, openGen := some gen, appendOffset := some 16 }) }
              lw := { s.lw with openAt := some { sector := n, offset := 16 }, point := .opening (some l) false,
                                genCounter := some (gen + 1) }
              arr := { s.arr with
                word := some { sector := n, index := 1, data := openWord gen, role := .openWord, discard := false } } }))
  ∧ ∀ s : State,
    let active := s.dev.state = .online ∨ s.dev.state = .readOnly ∨ s.dev.state = .draining
    let noErase := s.count .stale = 0 ∧ s.count .erasing = 0
    let relocGranted := s.lw.point = .relocation ∨ ∃ done, s.lw.point = .opening (some .relocation) done
    let unplaceable := active ∧ s.sm.relocStall = true ∧ ¬ relocGranted ∧ s.count .erased = 0 ∧ noErase ∧ ∃ r, s.lw.relocLane = some r
      ∧ ∀ o, s.lw.openAt = some o → 32768 < o.offset + r.record.bytes
    let beyond := active ∧ s.sm.hostStall = true
      ∧ (s.sm.engine = .abandoned ∨ (s.sm.engine = .idle ∧ s.victim? = none ∧ noErase))
    (¬ unplaceable → ¬ beyond → s.relieve = s)
    ∧ (¬ unplaceable → beyond → s.hostFails s.relieve)
    ∧ (unplaceable → s.sm.hostStall = false → s.dropsRelocation s.relieve)
    ∧ (unplaceable → s.sm.hostStall = true → ∃ v : State, s.dropsRelocation v ∧ v.hostFails s.relieve)

/-- The current epoch is the one present that no other is newer than, or else the highest present, and 0 when
none is; and the admission limit is (U - 4) × 28672 bytes for U usable sectors, 0 for 4 or fewer (R17, R37). -/
def Obligations.EpochAndLimit : Prop :=
  (∀ es : List (BitVec 16),
    let newest := fun e => e ∈ es ∧ ∀ f ∈ es, ¬ (1 ≤ (f - e).toNat ∧ (f - e).toNat ≤ 32767)
    (es = [] → currentEpoch es = 0)
    ∧ (∀ e, newest e → (∀ f, newest f → f = e) → currentEpoch es = e)
    ∧ (es ≠ [] → (¬ ∃ e, newest e ∧ ∀ f, newest f → f = e) →
        currentEpoch es ∈ es ∧ ∀ f ∈ es, f.toNat ≤ (currentEpoch es).toNat))
  ∧ (∀ u, 4 ≤ u → admissionLimit u = (u - 4) * 28672) ∧ (∀ u, u ≤ 4 → admissionLimit u = 0)
  ∧ [admissionLimit 128, admissionLimit 127, admissionLimit 125, admissionLimit 118, admissionLimit 8]
      = [3555328, 3526656, 3469312, 3268608, 114688]
end

