-- ==== Sys2Proof/Laws/State.lean ====
section
/-! SUPPORT. What every plain update of the state changes, field by field, each true by `rfl`. Later proofs
rewrite with these and never unfold an update. -/

namespace Sys2Proof.Machine

@[simp] theorem State.nextSeed_fields (s : State) :
    s.nextSeed.seeds = s.seeds + 1 ∧ s.nextSeed.link = s.link ∧ s.nextSeed.req = s.req ∧ s.nextSeed.dir = s.dir ∧
    s.nextSeed.wq = s.wq ∧ s.nextSeed.grp = s.grp ∧ s.nextSeed.lw = s.lw ∧ s.nextSeed.arr = s.arr ∧
    s.nextSeed.flash = s.flash ∧ s.nextSeed.sm = s.sm ∧ s.nextSeed.mount = s.mount ∧ s.nextSeed.sup = s.sup ∧
    s.nextSeed.dev = s.dev ∧ s.nextSeed.pending = s.pending :=
  ⟨rfl, rfl, rfl, rfl, rfl, rfl, rfl, rfl, rfl, rfl, rfl, rfl, rfl, rfl⟩

@[simp] theorem State.modSector_fields (n : Nat) (f : SectorEntry → SectorEntry) (s : State) :
    (s.modSector n f).sm = { s.sm with table := s.sm.table.modify n f } ∧ (s.modSector n f).link = s.link ∧
    (s.modSector n f).req = s.req ∧ (s.modSector n f).dir = s.dir ∧ (s.modSector n f).wq = s.wq ∧
    (s.modSector n f).grp = s.grp ∧ (s.modSector n f).lw = s.lw ∧ (s.modSector n f).arr = s.arr ∧
    (s.modSector n f).flash = s.flash ∧ (s.modSector n f).mount = s.mount ∧ (s.modSector n f).sup = s.sup ∧
    (s.modSector n f).dev = s.dev ∧ (s.modSector n f).seeds = s.seeds ∧ (s.modSector n f).pending = s.pending :=
  ⟨rfl, rfl, rfl, rfl, rfl, rfl, rfl, rfl, rfl, rfl, rfl, rfl, rfl, rfl⟩

@[simp] theorem State.addDead_fields (n b : Nat) (s : State) :
    (s.addDead n b).sm = { s.sm with table := s.sm.table.modify n (fun e => { e with dead := e.dead + b }) } ∧
    (s.addDead n b).link = s.link ∧ (s.addDead n b).req = s.req ∧ (s.addDead n b).dir = s.dir ∧
    (s.addDead n b).wq = s.wq ∧ (s.addDead n b).grp = s.grp ∧ (s.addDead n b).lw = s.lw ∧
    (s.addDead n b).arr = s.arr ∧ (s.addDead n b).flash = s.flash ∧ (s.addDead n b).mount = s.mount ∧
    (s.addDead n b).sup = s.sup ∧ (s.addDead n b).dev = s.dev ∧ (s.addDead n b).seeds = s.seeds ∧
    (s.addDead n b).pending = s.pending :=
  ⟨rfl, rfl, rfl, rfl, rfl, rfl, rfl, rfl, rfl, rfl, rfl, rfl, rfl, rfl⟩

@[simp] theorem State.deadToLive_fields (n b : Nat) (s : State) :
    (s.deadToLive n b).sm = { s.sm with table := s.sm.table.modify n (fun e => { e with dead := e.dead - b, live := e.live + b }) } ∧
    (s.deadToLive n b).link = s.link ∧ (s.deadToLive n b).req = s.req ∧ (s.deadToLive n b).dir = s.dir ∧
    (s.deadToLive n b).wq = s.wq ∧ (s.deadToLive n b).grp = s.grp ∧ (s.deadToLive n b).lw = s.lw ∧
    (s.deadToLive n b).arr = s.arr ∧ (s.deadToLive n b).flash = s.flash ∧ (s.deadToLive n b).mount = s.mount ∧
    (s.deadToLive n b).sup = s.sup ∧ (s.deadToLive n b).dev = s.dev ∧ (s.deadToLive n b).seeds = s.seeds ∧
    (s.deadToLive n b).pending = s.pending :=
  ⟨rfl, rfl, rfl, rfl, rfl, rfl, rfl, rfl, rfl, rfl, rfl, rfl, rfl, rfl⟩

@[simp] theorem State.liveToDead_fields (n b : Nat) (s : State) :
    (s.liveToDead n b).sm = { s.sm with table := s.sm.table.modify n (fun e => { e with live := e.live - b, dead := e.dead + b }) } ∧
    (s.liveToDead n b).link = s.link ∧ (s.liveToDead n b).req = s.req ∧ (s.liveToDead n b).dir = s.dir ∧
    (s.liveToDead n b).wq = s.wq ∧ (s.liveToDead n b).grp = s.grp ∧ (s.liveToDead n b).lw = s.lw ∧
    (s.liveToDead n b).arr = s.arr ∧ (s.liveToDead n b).flash = s.flash ∧ (s.liveToDead n b).mount = s.mount ∧
    (s.liveToDead n b).sup = s.sup ∧ (s.liveToDead n b).dev = s.dev ∧ (s.liveToDead n b).seeds = s.seeds ∧
    (s.liveToDead n b).pending = s.pending :=
  ⟨rfl, rfl, rfl, rfl, rfl, rfl, rfl, rfl, rfl, rfl, rfl, rfl, rfl, rfl⟩

@[simp] theorem State.addCorrected_fields (n k : Nat) (s : State) :
    (s.addCorrected n k).sm = { s.sm with table := s.sm.table.modify n (fun e => { e with corrected := min Config.maxCorrected (e.corrected + k) }) } ∧
    (s.addCorrected n k).link = s.link ∧ (s.addCorrected n k).req = s.req ∧ (s.addCorrected n k).dir = s.dir ∧
    (s.addCorrected n k).wq = s.wq ∧ (s.addCorrected n k).grp = s.grp ∧ (s.addCorrected n k).lw = s.lw ∧
    (s.addCorrected n k).arr = s.arr ∧ (s.addCorrected n k).flash = s.flash ∧
    (s.addCorrected n k).mount = s.mount ∧ (s.addCorrected n k).sup = s.sup ∧ (s.addCorrected n k).dev = s.dev ∧
    (s.addCorrected n k).seeds = s.seeds ∧ (s.addCorrected n k).pending = s.pending :=
  ⟨rfl, rfl, rfl, rfl, rfl, rfl, rfl, rfl, rfl, rfl, rfl, rfl, rfl, rfl⟩

@[simp] theorem State.closeSector_fields (n : Nat) (fault : Bool) (b : Nat) (s : State) :
    (s.closeSector n fault b).sm = { s.sm with table := s.sm.table.modify n (fun e => { e with state := .full, appendOffset := none, fault := e.fault || fault, dead := e.dead + b }) } ∧
    (s.closeSector n fault b).link = s.link ∧ (s.closeSector n fault b).req = s.req ∧
    (s.closeSector n fault b).dir = s.dir ∧ (s.closeSector n fault b).wq = s.wq ∧
    (s.closeSector n fault b).grp = s.grp ∧ (s.closeSector n fault b).lw = s.lw ∧
    (s.closeSector n fault b).arr = s.arr ∧ (s.closeSector n fault b).flash = s.flash ∧
    (s.closeSector n fault b).mount = s.mount ∧ (s.closeSector n fault b).sup = s.sup ∧
    (s.closeSector n fault b).dev = s.dev ∧ (s.closeSector n fault b).seeds = s.seeds ∧
    (s.closeSector n fault b).pending = s.pending :=
  ⟨rfl, rfl, rfl, rfl, rfl, rfl, rfl, rfl, rfl, rfl, rfl, rfl, rfl, rfl⟩

@[simp] theorem State.setEntries_fields (es : List Entry) (s : State) :
    (s.setEntries es).dir = { s.dir with entries := es } ∧ (s.setEntries es).link = s.link ∧
    (s.setEntries es).req = s.req ∧ (s.setEntries es).wq = s.wq ∧ (s.setEntries es).grp = s.grp ∧
    (s.setEntries es).lw = s.lw ∧ (s.setEntries es).arr = s.arr ∧ (s.setEntries es).flash = s.flash ∧
    (s.setEntries es).sm = s.sm ∧ (s.setEntries es).mount = s.mount ∧ (s.setEntries es).sup = s.sup ∧
    (s.setEntries es).dev = s.dev ∧ (s.setEntries es).seeds = s.seeds ∧ (s.setEntries es).pending = s.pending :=
  ⟨rfl, rfl, rfl, rfl, rfl, rfl, rfl, rfl, rfl, rfl, rfl, rfl, rfl, rfl⟩

@[simp] theorem State.putEntry_fields (e : Entry) (s : State) :
    (s.putEntry e).dir = { s.dir with entries := Machine.putEntry e s.dir.entries } ∧
    (s.putEntry e).link = s.link ∧ (s.putEntry e).req = s.req ∧ (s.putEntry e).wq = s.wq ∧
    (s.putEntry e).grp = s.grp ∧ (s.putEntry e).lw = s.lw ∧ (s.putEntry e).arr = s.arr ∧
    (s.putEntry e).flash = s.flash ∧ (s.putEntry e).sm = s.sm ∧ (s.putEntry e).mount = s.mount ∧
    (s.putEntry e).sup = s.sup ∧ (s.putEntry e).dev = s.dev ∧ (s.putEntry e).seeds = s.seeds ∧
    (s.putEntry e).pending = s.pending :=
  ⟨rfl, rfl, rfl, rfl, rfl, rfl, rfl, rfl, rfl, rfl, rfl, rfl, rfl, rfl⟩

@[simp] theorem State.reservePlace_fields (k : Key) (v : Nat) (s : State) :
    (s.reservePlace k v).dir = { s.dir with reserved := s.dir.reserved ++ [{ key := k, victim := v }] } ∧
    (s.reservePlace k v).link = s.link ∧ (s.reservePlace k v).req = s.req ∧ (s.reservePlace k v).wq = s.wq ∧
    (s.reservePlace k v).grp = s.grp ∧ (s.reservePlace k v).lw = s.lw ∧ (s.reservePlace k v).arr = s.arr ∧
    (s.reservePlace k v).flash = s.flash ∧ (s.reservePlace k v).sm = s.sm ∧ (s.reservePlace k v).mount = s.mount ∧
    (s.reservePlace k v).sup = s.sup ∧ (s.reservePlace k v).dev = s.dev ∧ (s.reservePlace k v).seeds = s.seeds ∧
    (s.reservePlace k v).pending = s.pending :=
  ⟨rfl, rfl, rfl, rfl, rfl, rfl, rfl, rfl, rfl, rfl, rfl, rfl, rfl, rfl⟩

@[simp] theorem State.releasePlaces_fields (n : Nat) (s : State) :
    (s.releasePlaces n).dir = { s.dir with reserved := s.dir.reserved.filter (fun r => r.victim != n) } ∧
    (s.releasePlaces n).link = s.link ∧ (s.releasePlaces n).req = s.req ∧ (s.releasePlaces n).wq = s.wq ∧
    (s.releasePlaces n).grp = s.grp ∧ (s.releasePlaces n).lw = s.lw ∧ (s.releasePlaces n).arr = s.arr ∧
    (s.releasePlaces n).flash = s.flash ∧ (s.releasePlaces n).sm = s.sm ∧ (s.releasePlaces n).mount = s.mount ∧
    (s.releasePlaces n).sup = s.sup ∧ (s.releasePlaces n).dev = s.dev ∧ (s.releasePlaces n).seeds = s.seeds ∧
    (s.releasePlaces n).pending = s.pending :=
  ⟨rfl, rfl, rfl, rfl, rfl, rfl, rfl, rfl, rfl, rfl, rfl, rfl, rfl, rfl⟩

@[simp] theorem State.mark_fields (k : NoticeKind) (s : State) :
    (s.mark k).link = { s.link with notices := joinNotice k s.link.notices } ∧ (s.mark k).req = s.req ∧
    (s.mark k).dir = s.dir ∧ (s.mark k).wq = s.wq ∧ (s.mark k).grp = s.grp ∧ (s.mark k).lw = s.lw ∧
    (s.mark k).arr = s.arr ∧ (s.mark k).flash = s.flash ∧ (s.mark k).sm = s.sm ∧ (s.mark k).mount = s.mount ∧
    (s.mark k).sup = s.sup ∧ (s.mark k).dev = s.dev ∧ (s.mark k).seeds = s.seeds ∧ (s.mark k).pending = s.pending :=
  ⟨rfl, rfl, rfl, rfl, rfl, rfl, rfl, rfl, rfl, rfl, rfl, rfl, rfl, rfl⟩

@[simp] theorem State.pushTx_fields (e : TxFrame) (s : State) :
    (s.pushTx e).link = { s.link with txq := s.link.txq ++ [e] } ∧ (s.pushTx e).req = s.req ∧
    (s.pushTx e).dir = s.dir ∧ (s.pushTx e).wq = s.wq ∧ (s.pushTx e).grp = s.grp ∧ (s.pushTx e).lw = s.lw ∧
    (s.pushTx e).arr = s.arr ∧ (s.pushTx e).flash = s.flash ∧ (s.pushTx e).sm = s.sm ∧
    (s.pushTx e).mount = s.mount ∧ (s.pushTx e).sup = s.sup ∧ (s.pushTx e).dev = s.dev ∧
    (s.pushTx e).seeds = s.seeds ∧ (s.pushTx e).pending = s.pending :=
  ⟨rfl, rfl, rfl, rfl, rfl, rfl, rfl, rfl, rfl, rfl, rfl, rfl, rfl, rfl⟩

@[simp] theorem State.dueRestart_fields (s : State) :
    s.dueRestart.dev = { s.dev with restartDue := true } ∧ s.dueRestart.link = s.link ∧ s.dueRestart.req = s.req ∧
    s.dueRestart.dir = s.dir ∧ s.dueRestart.wq = s.wq ∧ s.dueRestart.grp = s.grp ∧ s.dueRestart.lw = s.lw ∧
    s.dueRestart.arr = s.arr ∧ s.dueRestart.flash = s.flash ∧ s.dueRestart.sm = s.sm ∧
    s.dueRestart.mount = s.mount ∧ s.dueRestart.sup = s.sup ∧ s.dueRestart.seeds = s.seeds ∧
    s.dueRestart.pending = s.pending :=
  ⟨rfl, rfl, rfl, rfl, rfl, rfl, rfl, rfl, rfl, rfl, rfl, rfl, rfl, rfl⟩

@[simp] theorem State.modSlot_fields (tag : Byte) (f : Slot → Slot) (s : State) :
    (s.modSlot tag f).req = { s.req with slots := s.req.slots.map (fun sl => if sl.tag = tag then f sl else sl) } ∧
    (s.modSlot tag f).link = s.link ∧ (s.modSlot tag f).dir = s.dir ∧ (s.modSlot tag f).wq = s.wq ∧
    (s.modSlot tag f).grp = s.grp ∧ (s.modSlot tag f).lw = s.lw ∧ (s.modSlot tag f).arr = s.arr ∧
    (s.modSlot tag f).flash = s.flash ∧ (s.modSlot tag f).sm = s.sm ∧ (s.modSlot tag f).mount = s.mount ∧
    (s.modSlot tag f).sup = s.sup ∧ (s.modSlot tag f).dev = s.dev ∧ (s.modSlot tag f).seeds = s.seeds ∧
    (s.modSlot tag f).pending = s.pending :=
  ⟨rfl, rfl, rfl, rfl, rfl, rfl, rfl, rfl, rfl, rfl, rfl, rfl, rfl, rfl⟩

@[simp] theorem State.freeSlot_fields (tag : Byte) (s : State) :
    (s.freeSlot tag).req = { s.req with slots := s.req.slots.filter (fun sl => sl.tag != tag) } ∧
    (s.freeSlot tag).link = s.link ∧ (s.freeSlot tag).dir = s.dir ∧ (s.freeSlot tag).wq = s.wq ∧
    (s.freeSlot tag).grp = s.grp ∧ (s.freeSlot tag).lw = s.lw ∧ (s.freeSlot tag).arr = s.arr ∧
    (s.freeSlot tag).flash = s.flash ∧ (s.freeSlot tag).sm = s.sm ∧ (s.freeSlot tag).mount = s.mount ∧
    (s.freeSlot tag).sup = s.sup ∧ (s.freeSlot tag).dev = s.dev ∧ (s.freeSlot tag).seeds = s.seeds ∧
    (s.freeSlot tag).pending = s.pending :=
  ⟨rfl, rfl, rfl, rfl, rfl, rfl, rfl, rfl, rfl, rfl, rfl, rfl, rfl, rfl⟩

@[simp] theorem State.cacheReply_fields (e : CacheEntry) (s : State) :
    (s.cacheReply e).req = { s.req with cache := (if s.req.cache.length < Config.maxCache then s.req.cache else s.req.cache.drop 1) ++ [e] } ∧
    (s.cacheReply e).link = s.link ∧ (s.cacheReply e).dir = s.dir ∧ (s.cacheReply e).wq = s.wq ∧
    (s.cacheReply e).grp = s.grp ∧ (s.cacheReply e).lw = s.lw ∧ (s.cacheReply e).arr = s.arr ∧
    (s.cacheReply e).flash = s.flash ∧ (s.cacheReply e).sm = s.sm ∧ (s.cacheReply e).mount = s.mount ∧
    (s.cacheReply e).sup = s.sup ∧ (s.cacheReply e).dev = s.dev ∧ (s.cacheReply e).seeds = s.seeds ∧
    (s.cacheReply e).pending = s.pending :=
  ⟨rfl, rfl, rfl, rfl, rfl, rfl, rfl, rfl, rfl, rfl, rfl, rfl, rfl, rfl⟩

@[simp] theorem State.uncache_fields (tag : Byte) (s : State) :
    (s.uncache tag).req = { s.req with cache := s.req.cache.filter (fun e => e.tag != tag) } ∧
    (s.uncache tag).link = s.link ∧ (s.uncache tag).dir = s.dir ∧ (s.uncache tag).wq = s.wq ∧
    (s.uncache tag).grp = s.grp ∧ (s.uncache tag).lw = s.lw ∧ (s.uncache tag).arr = s.arr ∧
    (s.uncache tag).flash = s.flash ∧ (s.uncache tag).sm = s.sm ∧ (s.uncache tag).mount = s.mount ∧
    (s.uncache tag).sup = s.sup ∧ (s.uncache tag).dev = s.dev ∧ (s.uncache tag).seeds = s.seeds ∧
    (s.uncache tag).pending = s.pending :=
  ⟨rfl, rfl, rfl, rfl, rfl, rfl, rfl, rfl, rfl, rfl, rfl, rfl, rfl, rfl⟩

@[simp] theorem State.takeSlot_fields (kind : Option ReqKind) (f : Frame) (s : State) :
    (s.takeSlot kind f).req = { s.req with slots := s.req.slots ++ [newSlot kind f], cache := s.req.cache.filter (fun e => e.tag != f.tag) } ∧
    (s.takeSlot kind f).link = s.link ∧ (s.takeSlot kind f).dir = s.dir ∧ (s.takeSlot kind f).wq = s.wq ∧
    (s.takeSlot kind f).grp = s.grp ∧ (s.takeSlot kind f).lw = s.lw ∧ (s.takeSlot kind f).arr = s.arr ∧
    (s.takeSlot kind f).flash = s.flash ∧ (s.takeSlot kind f).sm = s.sm ∧ (s.takeSlot kind f).mount = s.mount ∧
    (s.takeSlot kind f).sup = s.sup ∧ (s.takeSlot kind f).dev = s.dev ∧ (s.takeSlot kind f).seeds = s.seeds ∧
    (s.takeSlot kind f).pending = s.pending :=
  ⟨rfl, rfl, rfl, rfl, rfl, rfl, rfl, rfl, rfl, rfl, rfl, rfl, rfl, rfl⟩

@[simp] theorem State.recordRequest_fields (tag : Byte) (r : Request) (s : State) :
    (s.recordRequest tag r).req = { s.req with slots := s.req.slots.map (fun sl => if sl.tag = tag then { sl with request := some r, bound := if r.binds then s.grp.group.map (fun g => g.id) else none } else sl) } ∧
    (s.recordRequest tag r).link = s.link ∧ (s.recordRequest tag r).dir = s.dir ∧
    (s.recordRequest tag r).wq = s.wq ∧ (s.recordRequest tag r).grp = s.grp ∧ (s.recordRequest tag r).lw = s.lw ∧
    (s.recordRequest tag r).arr = s.arr ∧ (s.recordRequest tag r).flash = s.flash ∧
    (s.recordRequest tag r).sm = s.sm ∧ (s.recordRequest tag r).mount = s.mount ∧
    (s.recordRequest tag r).sup = s.sup ∧ (s.recordRequest tag r).dev = s.dev ∧
    (s.recordRequest tag r).seeds = s.seeds ∧ (s.recordRequest tag r).pending = s.pending :=
  ⟨rfl, rfl, rfl, rfl, rfl, rfl, rfl, rfl, rfl, rfl, rfl, rfl, rfl, rfl⟩

@[simp] theorem State.orphanSlots_fields (s : State) :
    s.orphanSlots.req = { s.req with slots := s.req.slots.map (fun sl => { sl with session := .ended }) } ∧
    s.orphanSlots.link = s.link ∧ s.orphanSlots.dir = s.dir ∧ s.orphanSlots.wq = s.wq ∧ s.orphanSlots.grp = s.grp ∧
    s.orphanSlots.lw = s.lw ∧ s.orphanSlots.arr = s.arr ∧ s.orphanSlots.flash = s.flash ∧ s.orphanSlots.sm = s.sm ∧
    s.orphanSlots.mount = s.mount ∧ s.orphanSlots.sup = s.sup ∧ s.orphanSlots.dev = s.dev ∧
    s.orphanSlots.seeds = s.seeds ∧ s.orphanSlots.pending = s.pending :=
  ⟨rfl, rfl, rfl, rfl, rfl, rfl, rfl, rfl, rfl, rfl, rfl, rfl, rfl, rfl⟩

@[simp] theorem State.modQueue_fields (f : WriteQueue → WriteQueue) (s : State) :
    (s.modQueue f).wq = f s.wq ∧ (s.modQueue f).link = s.link ∧ (s.modQueue f).req = s.req ∧
    (s.modQueue f).dir = s.dir ∧ (s.modQueue f).grp = s.grp ∧ (s.modQueue f).lw = s.lw ∧
    (s.modQueue f).arr = s.arr ∧ (s.modQueue f).flash = s.flash ∧ (s.modQueue f).sm = s.sm ∧
    (s.modQueue f).mount = s.mount ∧ (s.modQueue f).sup = s.sup ∧ (s.modQueue f).dev = s.dev ∧
    (s.modQueue f).seeds = s.seeds ∧ (s.modQueue f).pending = s.pending :=
  ⟨rfl, rfl, rfl, rfl, rfl, rfl, rfl, rfl, rfl, rfl, rfl, rfl, rfl, rfl⟩

@[simp] theorem State.leaveList_fields (tag : Byte) (s : State) :
    (s.leaveList tag).wq = { s.wq with admission := s.wq.admission.filter (fun t => t != tag) } ∧
    (s.leaveList tag).link = s.link ∧ (s.leaveList tag).req = s.req ∧ (s.leaveList tag).dir = s.dir ∧
    (s.leaveList tag).grp = s.grp ∧ (s.leaveList tag).lw = s.lw ∧ (s.leaveList tag).arr = s.arr ∧
    (s.leaveList tag).flash = s.flash ∧ (s.leaveList tag).sm = s.sm ∧ (s.leaveList tag).mount = s.mount ∧
    (s.leaveList tag).sup = s.sup ∧ (s.leaveList tag).dev = s.dev ∧ (s.leaveList tag).seeds = s.seeds ∧
    (s.leaveList tag).pending = s.pending :=
  ⟨rfl, rfl, rfl, rfl, rfl, rfl, rfl, rfl, rfl, rfl, rfl, rfl, rfl, rfl⟩

@[simp] theorem State.charge_fields (b : Nat) (s : State) :
    (s.charge b).wq = { s.wq with charged := s.wq.charged + b } ∧ (s.charge b).link = s.link ∧
    (s.charge b).req = s.req ∧ (s.charge b).dir = s.dir ∧ (s.charge b).grp = s.grp ∧ (s.charge b).lw = s.lw ∧
    (s.charge b).arr = s.arr ∧ (s.charge b).flash = s.flash ∧ (s.charge b).sm = s.sm ∧
    (s.charge b).mount = s.mount ∧ (s.charge b).sup = s.sup ∧ (s.charge b).dev = s.dev ∧
    (s.charge b).seeds = s.seeds ∧ (s.charge b).pending = s.pending :=
  ⟨rfl, rfl, rfl, rfl, rfl, rfl, rfl, rfl, rfl, rfl, rfl, rfl, rfl, rfl⟩

@[simp] theorem State.release_fields (b : Nat) (s : State) :
    (s.release b).wq = { s.wq with charged := s.wq.charged - b } ∧ (s.release b).link = s.link ∧
    (s.release b).req = s.req ∧ (s.release b).dir = s.dir ∧ (s.release b).grp = s.grp ∧ (s.release b).lw = s.lw ∧
    (s.release b).arr = s.arr ∧ (s.release b).flash = s.flash ∧ (s.release b).sm = s.sm ∧
    (s.release b).mount = s.mount ∧ (s.release b).sup = s.sup ∧ (s.release b).dev = s.dev ∧
    (s.release b).seeds = s.seeds ∧ (s.release b).pending = s.pending :=
  ⟨rfl, rfl, rfl, rfl, rfl, rfl, rfl, rfl, rfl, rfl, rfl, rfl, rfl, rfl⟩

@[simp] theorem State.takeSeqs_fields (n : Nat) (s : State) :
    (s.takeSeqs n).wq = { s.wq with seqCounter := some (s.nextSeq + n) } ∧ (s.takeSeqs n).link = s.link ∧
    (s.takeSeqs n).req = s.req ∧ (s.takeSeqs n).dir = s.dir ∧ (s.takeSeqs n).grp = s.grp ∧
    (s.takeSeqs n).lw = s.lw ∧ (s.takeSeqs n).arr = s.arr ∧ (s.takeSeqs n).flash = s.flash ∧
    (s.takeSeqs n).sm = s.sm ∧ (s.takeSeqs n).mount = s.mount ∧ (s.takeSeqs n).sup = s.sup ∧
    (s.takeSeqs n).dev = s.dev ∧ (s.takeSeqs n).seeds = s.seeds ∧ (s.takeSeqs n).pending = s.pending :=
  ⟨rfl, rfl, rfl, rfl, rfl, rfl, rfl, rfl, rfl, rfl, rfl, rfl, rfl, rfl⟩

@[simp] theorem State.modEntryAt_fields (i : Nat) (f : QueueEntry → QueueEntry) (s : State) :
    (s.modEntryAt i f).wq = { s.wq with entries := s.wq.entries.modify i f } ∧ (s.modEntryAt i f).link = s.link ∧
    (s.modEntryAt i f).req = s.req ∧ (s.modEntryAt i f).dir = s.dir ∧ (s.modEntryAt i f).grp = s.grp ∧
    (s.modEntryAt i f).lw = s.lw ∧ (s.modEntryAt i f).arr = s.arr ∧ (s.modEntryAt i f).flash = s.flash ∧
    (s.modEntryAt i f).sm = s.sm ∧ (s.modEntryAt i f).mount = s.mount ∧ (s.modEntryAt i f).sup = s.sup ∧
    (s.modEntryAt i f).dev = s.dev ∧ (s.modEntryAt i f).seeds = s.seeds ∧ (s.modEntryAt i f).pending = s.pending :=
  ⟨rfl, rfl, rfl, rfl, rfl, rfl, rfl, rfl, rfl, rfl, rfl, rfl, rfl, rfl⟩

@[simp] theorem State.modManager_fields (f : SectorManager → SectorManager) (s : State) :
    (s.modManager f).sm = f s.sm ∧ (s.modManager f).link = s.link ∧ (s.modManager f).req = s.req ∧
    (s.modManager f).dir = s.dir ∧ (s.modManager f).wq = s.wq ∧ (s.modManager f).grp = s.grp ∧
    (s.modManager f).lw = s.lw ∧ (s.modManager f).arr = s.arr ∧ (s.modManager f).flash = s.flash ∧
    (s.modManager f).mount = s.mount ∧ (s.modManager f).sup = s.sup ∧ (s.modManager f).dev = s.dev ∧
    (s.modManager f).seeds = s.seeds ∧ (s.modManager f).pending = s.pending :=
  ⟨rfl, rfl, rfl, rfl, rfl, rfl, rfl, rfl, rfl, rfl, rfl, rfl, rfl, rfl⟩

@[simp] theorem State.modBatch_fields (f : EraseBatch → EraseBatch) (s : State) :
    (s.modBatch f).sm = { s.sm with batch := f s.sm.batch } ∧ (s.modBatch f).link = s.link ∧
    (s.modBatch f).req = s.req ∧ (s.modBatch f).dir = s.dir ∧ (s.modBatch f).wq = s.wq ∧
    (s.modBatch f).grp = s.grp ∧ (s.modBatch f).lw = s.lw ∧ (s.modBatch f).arr = s.arr ∧
    (s.modBatch f).flash = s.flash ∧ (s.modBatch f).mount = s.mount ∧ (s.modBatch f).sup = s.sup ∧
    (s.modBatch f).dev = s.dev ∧ (s.modBatch f).seeds = s.seeds ∧ (s.modBatch f).pending = s.pending :=
  ⟨rfl, rfl, rfl, rfl, rfl, rfl, rfl, rfl, rfl, rfl, rfl, rfl, rfl, rfl⟩

@[simp] theorem State.runBatch_fields (s : State) :
    s.runBatch.sm = { s.sm with batch := { s.sm.batch with running := true, window := false } } ∧
    s.runBatch.link = s.link ∧ s.runBatch.req = s.req ∧ s.runBatch.dir = s.dir ∧ s.runBatch.wq = s.wq ∧
    s.runBatch.grp = s.grp ∧ s.runBatch.lw = s.lw ∧ s.runBatch.arr = s.arr ∧ s.runBatch.flash = s.flash ∧
    s.runBatch.mount = s.mount ∧ s.runBatch.sup = s.sup ∧ s.runBatch.dev = s.dev ∧ s.runBatch.seeds = s.seeds ∧
    s.runBatch.pending = s.pending :=
  ⟨rfl, rfl, rfl, rfl, rfl, rfl, rfl, rfl, rfl, rfl, rfl, rfl, rfl, rfl⟩

@[simp] theorem State.dueWear_fields (s : State) :
    s.dueWear.sm = { s.sm with wearDue := true } ∧ s.dueWear.link = s.link ∧ s.dueWear.req = s.req ∧
    s.dueWear.dir = s.dir ∧ s.dueWear.wq = s.wq ∧ s.dueWear.grp = s.grp ∧ s.dueWear.lw = s.lw ∧
    s.dueWear.arr = s.arr ∧ s.dueWear.flash = s.flash ∧ s.dueWear.mount = s.mount ∧ s.dueWear.sup = s.sup ∧
    s.dueWear.dev = s.dev ∧ s.dueWear.seeds = s.seeds ∧ s.dueWear.pending = s.pending :=
  ⟨rfl, rfl, rfl, rfl, rfl, rfl, rfl, rfl, rfl, rfl, rfl, rfl, rfl, rfl⟩

@[simp] theorem State.findStalls_fields (s : State) :
    s.findStalls.sm = { s.sm with hostStall := s.sm.hostStall || s.stalled .host, relocStall := s.sm.relocStall || s.stalled .relocation } ∧
    s.findStalls.link = s.link ∧ s.findStalls.req = s.req ∧ s.findStalls.dir = s.dir ∧ s.findStalls.wq = s.wq ∧
    s.findStalls.grp = s.grp ∧ s.findStalls.lw = s.lw ∧ s.findStalls.arr = s.arr ∧ s.findStalls.flash = s.flash ∧
    s.findStalls.mount = s.mount ∧ s.findStalls.sup = s.sup ∧ s.findStalls.dev = s.dev ∧
    s.findStalls.seeds = s.seeds ∧ s.findStalls.pending = s.pending :=
  ⟨rfl, rfl, rfl, rfl, rfl, rfl, rfl, rfl, rfl, rfl, rfl, rfl, rfl, rfl⟩

@[simp] theorem State.modWriter_fields (f : LogWriter → LogWriter) (s : State) :
    (s.modWriter f).lw = f s.lw ∧ (s.modWriter f).link = s.link ∧ (s.modWriter f).req = s.req ∧
    (s.modWriter f).dir = s.dir ∧ (s.modWriter f).wq = s.wq ∧ (s.modWriter f).grp = s.grp ∧
    (s.modWriter f).arr = s.arr ∧ (s.modWriter f).flash = s.flash ∧ (s.modWriter f).sm = s.sm ∧
    (s.modWriter f).mount = s.mount ∧ (s.modWriter f).sup = s.sup ∧ (s.modWriter f).dev = s.dev ∧
    (s.modWriter f).seeds = s.seeds ∧ (s.modWriter f).pending = s.pending :=
  ⟨rfl, rfl, rfl, rfl, rfl, rfl, rfl, rfl, rfl, rfl, rfl, rfl, rfl, rfl⟩

@[simp] theorem State.modArray_fields (f : ArrayCtl → ArrayCtl) (s : State) :
    (s.modArray f).arr = f s.arr ∧ (s.modArray f).link = s.link ∧ (s.modArray f).req = s.req ∧
    (s.modArray f).dir = s.dir ∧ (s.modArray f).wq = s.wq ∧ (s.modArray f).grp = s.grp ∧ (s.modArray f).lw = s.lw ∧
    (s.modArray f).flash = s.flash ∧ (s.modArray f).sm = s.sm ∧ (s.modArray f).mount = s.mount ∧
    (s.modArray f).sup = s.sup ∧ (s.modArray f).dev = s.dev ∧ (s.modArray f).seeds = s.seeds ∧
    (s.modArray f).pending = s.pending :=
  ⟨rfl, rfl, rfl, rfl, rfl, rfl, rfl, rfl, rfl, rfl, rfl, rfl, rfl, rfl⟩

@[simp] theorem State.walkAsks_fields (v o n : Nat) (s : State) :
    (s.walkAsks v o n).arr = { s.arr with walks := s.arr.walks ++ [{ who := .reclaim, sector := v, offset := o, words := n, discard := false }] } ∧
    (s.walkAsks v o n).link = s.link ∧ (s.walkAsks v o n).req = s.req ∧ (s.walkAsks v o n).dir = s.dir ∧
    (s.walkAsks v o n).wq = s.wq ∧ (s.walkAsks v o n).grp = s.grp ∧ (s.walkAsks v o n).lw = s.lw ∧
    (s.walkAsks v o n).flash = s.flash ∧ (s.walkAsks v o n).sm = s.sm ∧ (s.walkAsks v o n).mount = s.mount ∧
    (s.walkAsks v o n).sup = s.sup ∧ (s.walkAsks v o n).dev = s.dev ∧ (s.walkAsks v o n).seeds = s.seeds ∧
    (s.walkAsks v o n).pending = s.pending :=
  ⟨rfl, rfl, rfl, rfl, rfl, rfl, rfl, rfl, rfl, rfl, rfl, rfl, rfl, rfl⟩

/-- A FORMAT leaves the erase under way, its epoch and count included, the GET reads and the waiting word as they
are (R110, R146). -/
@[simp] theorem ArrayCtl.atFormat_fields (a : ArrayCtl) :
    a.atFormat.erase = a.erase ∧ a.atFormat.eraseReq = none ∧ a.atFormat.gets = a.gets ∧ a.atFormat.word = a.word ∧
    a.atFormat.walks = a.walks.filter (fun r => r.who != .reclaim) :=
  ⟨rfl, rfl, rfl, rfl, rfl⟩

@[simp] theorem State.askErase_fields (n : Nat) (b : Bool) (s : State) :
    (s.askErase n b).arr = { s.arr with eraseReq := some { sector := n, epoch := s.sm.epoch, count := nextEraseCount (s.sector n).eraseCount, forFormat := b } } ∧
    (s.askErase n b).link = s.link ∧ (s.askErase n b).req = s.req ∧ (s.askErase n b).dir = s.dir ∧
    (s.askErase n b).wq = s.wq ∧ (s.askErase n b).grp = s.grp ∧ (s.askErase n b).lw = s.lw ∧
    (s.askErase n b).flash = s.flash ∧ (s.askErase n b).sm = s.sm ∧ (s.askErase n b).mount = s.mount ∧
    (s.askErase n b).sup = s.sup ∧ (s.askErase n b).dev = s.dev ∧ (s.askErase n b).seeds = s.seeds ∧
    (s.askErase n b).pending = s.pending :=
  ⟨rfl, rfl, rfl, rfl, rfl, rfl, rfl, rfl, rfl, rfl, rfl, rfl, rfl, rfl⟩

@[simp] theorem State.startRead_fields (r : ReadReq) (s : State) :
    (s.startRead r).arr = { s.arr with op := some (.read r) } ∧ (s.startRead r).link = s.link ∧
    (s.startRead r).req = s.req ∧ (s.startRead r).dir = s.dir ∧ (s.startRead r).wq = s.wq ∧
    (s.startRead r).grp = s.grp ∧ (s.startRead r).lw = s.lw ∧ (s.startRead r).flash = s.flash ∧
    (s.startRead r).sm = s.sm ∧ (s.startRead r).mount = s.mount ∧ (s.startRead r).sup = s.sup ∧
    (s.startRead r).dev = s.dev ∧ (s.startRead r).seeds = s.seeds ∧ (s.startRead r).pending = s.pending :=
  ⟨rfl, rfl, rfl, rfl, rfl, rfl, rfl, rfl, rfl, rfl, rfl, rfl, rfl, rfl⟩

@[simp] theorem State.erasePhase_fields (p : ErasePhase) (s : State) :
    (s.erasePhase p).arr = { s.arr with erase := s.arr.erase.map (fun r => { r with phase := p }) } ∧
    (s.erasePhase p).link = s.link ∧ (s.erasePhase p).req = s.req ∧ (s.erasePhase p).dir = s.dir ∧
    (s.erasePhase p).wq = s.wq ∧ (s.erasePhase p).grp = s.grp ∧ (s.erasePhase p).lw = s.lw ∧
    (s.erasePhase p).flash = s.flash ∧ (s.erasePhase p).sm = s.sm ∧ (s.erasePhase p).mount = s.mount ∧
    (s.erasePhase p).sup = s.sup ∧ (s.erasePhase p).dev = s.dev ∧ (s.erasePhase p).seeds = s.seeds ∧
    (s.erasePhase p).pending = s.pending :=
  ⟨rfl, rfl, rfl, rfl, rfl, rfl, rfl, rfl, rfl, rfl, rfl, rfl, rfl, rfl⟩

@[simp] theorem State.modLink_fields (f : Link → Link) (s : State) :
    (s.modLink f).link = f s.link ∧ (s.modLink f).req = s.req ∧ (s.modLink f).dir = s.dir ∧
    (s.modLink f).wq = s.wq ∧ (s.modLink f).grp = s.grp ∧ (s.modLink f).lw = s.lw ∧ (s.modLink f).arr = s.arr ∧
    (s.modLink f).flash = s.flash ∧ (s.modLink f).sm = s.sm ∧ (s.modLink f).mount = s.mount ∧
    (s.modLink f).sup = s.sup ∧ (s.modLink f).dev = s.dev ∧ (s.modLink f).seeds = s.seeds ∧
    (s.modLink f).pending = s.pending :=
  ⟨rfl, rfl, rfl, rfl, rfl, rfl, rfl, rfl, rfl, rfl, rfl, rfl, rfl, rfl⟩

@[simp] theorem State.storeByte_fields (rx : RxState) (got : List Byte) (s : State) :
    (s.storeByte rx got).link = { s.link with rx := rx, got := got, gap := true } ∧
    (s.storeByte rx got).req = s.req ∧ (s.storeByte rx got).dir = s.dir ∧ (s.storeByte rx got).wq = s.wq ∧
    (s.storeByte rx got).grp = s.grp ∧ (s.storeByte rx got).lw = s.lw ∧ (s.storeByte rx got).arr = s.arr ∧
    (s.storeByte rx got).flash = s.flash ∧ (s.storeByte rx got).sm = s.sm ∧ (s.storeByte rx got).mount = s.mount ∧
    (s.storeByte rx got).sup = s.sup ∧ (s.storeByte rx got).dev = s.dev ∧ (s.storeByte rx got).seeds = s.seeds ∧
    (s.storeByte rx got).pending = s.pending :=
  ⟨rfl, rfl, rfl, rfl, rfl, rfl, rfl, rfl, rfl, rfl, rfl, rfl, rfl, rfl⟩

@[simp] theorem State.popTx_fields (s : State) :
    s.popTx.link = { s.link with txq := s.link.txq.drop 1 } ∧ s.popTx.req = s.req ∧ s.popTx.dir = s.dir ∧
    s.popTx.wq = s.wq ∧ s.popTx.grp = s.grp ∧ s.popTx.lw = s.lw ∧ s.popTx.arr = s.arr ∧ s.popTx.flash = s.flash ∧
    s.popTx.sm = s.sm ∧ s.popTx.mount = s.mount ∧ s.popTx.sup = s.sup ∧ s.popTx.dev = s.dev ∧
    s.popTx.seeds = s.seeds ∧ s.popTx.pending = s.pending :=
  ⟨rfl, rfl, rfl, rfl, rfl, rfl, rfl, rfl, rfl, rfl, rfl, rfl, rfl, rfl⟩

@[simp] theorem State.modSupply_fields (f : Supply → Supply) (s : State) :
    (s.modSupply f).sup = f s.sup ∧ (s.modSupply f).link = s.link ∧ (s.modSupply f).req = s.req ∧
    (s.modSupply f).dir = s.dir ∧ (s.modSupply f).wq = s.wq ∧ (s.modSupply f).grp = s.grp ∧
    (s.modSupply f).lw = s.lw ∧ (s.modSupply f).arr = s.arr ∧ (s.modSupply f).flash = s.flash ∧
    (s.modSupply f).sm = s.sm ∧ (s.modSupply f).mount = s.mount ∧ (s.modSupply f).dev = s.dev ∧
    (s.modSupply f).seeds = s.seeds ∧ (s.modSupply f).pending = s.pending :=
  ⟨rfl, rfl, rfl, rfl, rfl, rfl, rfl, rfl, rfl, rfl, rfl, rfl, rfl, rfl⟩

@[simp] theorem State.setLatch_fields (s : State) :
    s.setLatch.dev = { s.dev with restartLatch := true } ∧ s.setLatch.link = s.link ∧ s.setLatch.req = s.req ∧
    s.setLatch.dir = s.dir ∧ s.setLatch.wq = s.wq ∧ s.setLatch.grp = s.grp ∧ s.setLatch.lw = s.lw ∧
    s.setLatch.arr = s.arr ∧ s.setLatch.flash = s.flash ∧ s.setLatch.sm = s.sm ∧ s.setLatch.mount = s.mount ∧
    s.setLatch.sup = s.sup ∧ s.setLatch.seeds = s.seeds ∧ s.setLatch.pending = s.pending :=
  ⟨rfl, rfl, rfl, rfl, rfl, rfl, rfl, rfl, rfl, rfl, rfl, rfl, rfl, rfl⟩

@[simp] theorem State.withQueue_fields (q : List Instr) (s : State) :
    (s.withQueue q).pending = q ∧ (s.withQueue q).link = s.link ∧ (s.withQueue q).req = s.req ∧
    (s.withQueue q).dir = s.dir ∧ (s.withQueue q).wq = s.wq ∧ (s.withQueue q).grp = s.grp ∧
    (s.withQueue q).lw = s.lw ∧ (s.withQueue q).arr = s.arr ∧ (s.withQueue q).flash = s.flash ∧
    (s.withQueue q).sm = s.sm ∧ (s.withQueue q).mount = s.mount ∧ (s.withQueue q).sup = s.sup ∧
    (s.withQueue q).dev = s.dev ∧ (s.withQueue q).seeds = s.seeds :=
  ⟨rfl, rfl, rfl, rfl, rfl, rfl, rfl, rfl, rfl, rfl, rfl, rfl, rfl, rfl⟩

end Sys2Proof.Machine
end

