-- ==== Sys2Proof/Laws/Directory.lean ====
section
/-! SUPPORT. Key order, and the Directory as a list in key order: finding, putting and dropping entries (R18
to R21, R36). -/

namespace Sys2Proof.Machine

/-! ## Key order (Conventions, Keys) -/

theorem keyLt_irrefl (k : Key) : keyLt k k = false := by
  induction k with
  | nil => rfl
  | cons a k ih => simp [keyLt, ih]

theorem keyLt_trans {a b c : Key} (h : keyLt a b = true) (h' : keyLt b c = true) : keyLt a c = true := by
  induction a generalizing b c with
  | nil => cases b <;> cases c <;> simp_all [keyLt]
  | cons x a ih =>
    cases b with
    | nil => simp [keyLt] at h
    | cons y b =>
      cases c with
      | nil => simp [keyLt] at h'
      | cons z c =>
        simp only [keyLt] at h h' ⊢
        by_cases hxy : x = y
        · subst hxy
          by_cases hxz : x = z
          · subst hxz; simp only [if_true] at *; exact ih h h'
          · simpa [hxz] using h'
        · by_cases hyz : y = z
          · subst hyz; simpa [hxy] using h
          · simp only [hxy, hyz, if_false, decide_eq_true_eq] at h h'
            have hxz : x ≠ z := by rintro rfl; omega
            simp only [hxz, if_false, decide_eq_true_eq]; omega

theorem keyLt_ne {a b : Key} (h : keyLt a b = true) : a ≠ b := by
  rintro rfl; rw [keyLt_irrefl] at h; cases h

theorem keyLt_total {a b : Key} (h : a ≠ b) : keyLt a b = true ∨ keyLt b a = true := by
  induction a generalizing b with
  | nil => cases b <;> simp_all [keyLt]
  | cons x a ih =>
    cases b with
    | nil => exact .inr rfl
    | cons y b =>
      by_cases hxy : x = y
      · subst hxy
        have : a ≠ b := by rintro rfl; exact h rfl
        simpa [keyLt] using ih this
      · have : x.toNat ≠ y.toNat := by simpa [BitVec.toNat_inj] using hxy
        simp only [keyLt, hxy, Ne.symm hxy, if_false, decide_eq_true_eq]; omega

/-! ## Finding -/

theorem findEntry_key {k : Key} {es : List Entry} {e : Entry} (h : findEntry k es = some e) : e.key = k := by
  simpa using List.find?_some h

theorem findEntry_mem {k : Key} {es : List Entry} {e : Entry} (h : findEntry k es = some e) : e ∈ es :=
  List.mem_of_find?_eq_some h

theorem findEntry_none {k : Key} {es : List Entry} : findEntry k es = none ↔ ∀ e ∈ es, e.key ≠ k := by
  simp [findEntry]

/-- The entry put is found under its key. -/
theorem findEntry_put (e : Entry) (es : List Entry) : findEntry e.key (putEntry e es) = some e := by
  induction es with
  | nil => simp [putEntry, findEntry]
  | cons x es ih =>
    simp only [putEntry]
    split
    · simp [findEntry]
    · split
      · simp [findEntry]
      · rename_i h _; simpa [findEntry, h] using ih

/-- No other key's entry changes. -/
theorem findEntry_put_other {e : Entry} {k : Key} (h : k ≠ e.key) (es : List Entry) :
    findEntry k (putEntry e es) = findEntry k es := by
  induction es with
  | nil => simp [putEntry, findEntry, Ne.symm h]
  | cons x es ih =>
    simp only [putEntry]
    split
    · rename_i hx; simp [findEntry, Ne.symm h, hx]
    · split
      · simp [findEntry, Ne.symm h]
      · simp only [findEntry, List.find?_cons] at ih ⊢; rw [ih]

theorem findEntry_drop (k : Key) (es : List Entry) : findEntry k (dropEntry k es) = none := by
  simp [findEntry, dropEntry]

theorem findEntry_drop_other {k j : Key} (h : k ≠ j) (es : List Entry) :
    findEntry k (dropEntry j es) = findEntry k es := by
  induction es with
  | nil => rfl
  | cons x es ih =>
    simp only [dropEntry, findEntry] at ih ⊢
    by_cases hx : x.key = j
    · have : x.key ≠ k := by rw [hx]; exact Ne.symm h
      simp_all
    · by_cases hk : x.key = k
      · simp [hk, h]
      · simp [hx, hk, ih]

/-! ## Key order of the whole list -/

theorem mem_put {e x : Entry} {es : List Entry} (h : x ∈ putEntry e es) : x = e ∨ x ∈ es := by
  induction es with
  | nil => exact .inl (by simpa [putEntry] using h)
  | cons y es ih =>
    simp only [putEntry] at h
    split at h
    · simp only [List.mem_cons] at h ⊢; exact h.imp_right .inr
    · split at h
      · simpa [List.mem_cons] using h
      · simp only [List.mem_cons] at h ⊢
        rcases h with h | h
        · exact .inr (.inl h)
        · exact (ih h).imp_right .inr

theorem keysRise_drop {es : List Entry} (h : keysRise es) (k : Key) : keysRise (dropEntry k es) := List.Pairwise.filter _ h

/-- Where the keys rise, an entry is put in the one place of its key: in place of the key's entry, or between
its neighbours. -/
theorem putEntry_split {es : List Entry} (h : keysRise es) (e : Entry) :
    (∃ l r x, es = l ++ x :: r ∧ x.key = e.key ∧ findEntry e.key es = some x
      ∧ putEntry e es = l ++ e :: r ∧ dropEntry e.key es = l ++ r)
    ∨ (∃ l r, es = l ++ r ∧ findEntry e.key es = none ∧ putEntry e es = l ++ e :: r
      ∧ (∀ x ∈ l, keyLt x.key e.key = true) ∧ ∀ x ∈ r, keyLt e.key x.key = true) := by
  induction es with
  | nil => exact .inr ⟨[], [], rfl, rfl, rfl, by simp, by simp⟩
  | cons y es ih =>
    obtain ⟨hy, hr⟩ := List.pairwise_cons.1 h
    by_cases hk : y.key = e.key
    · refine .inl ⟨[], es, y, rfl, hk, by simp [findEntry, hk], by simp [putEntry, hk], ?_⟩
      have : dropEntry e.key es = es := by
        rw [dropEntry, List.filter_eq_self]
        intro x hx
        have := keyLt_ne (hy x hx)
        rw [hk] at this
        simpa using this.symm
      simp [dropEntry, hk] at this ⊢; exact this
    · by_cases hl : keyLt e.key y.key = true
      · refine .inr ⟨[], y :: es, rfl, ?_, by simp [putEntry, hk, hl], by simp, ?_⟩
        · rw [findEntry_none]
          intro x hx
          rcases List.mem_cons.1 hx with rfl | hx
          · exact hk
          · exact (keyLt_ne (keyLt_trans hl (hy x hx))).symm
        · intro x hx
          rcases List.mem_cons.1 hx with rfl | hx
          · exact hl
          · exact keyLt_trans hl (hy x hx)
      · have hlt : keyLt y.key e.key = true := (keyLt_total hk).resolve_right hl
        rcases ih hr with ⟨l, r, x, h1, h2, h3, h4, h5⟩ | ⟨l, r, h1, h2, h3, h4, h5⟩
        · refine .inl ⟨y :: l, r, x, by simp [h1], h2, ?_, by simp [putEntry, hk, hl, h4], ?_⟩
          · simpa [findEntry, hk] using h3
          · simpa [dropEntry, hk] using h5
        · refine .inr ⟨y :: l, r, by simp [h1], ?_, by simp [putEntry, hk, hl, h3], ?_, h5⟩
          · simpa [findEntry, hk] using h2
          · intro x hx
            rcases List.mem_cons.1 hx with rfl | hx
            · exact hlt
            · exact h4 x hx

/-- Putting an entry keeps the keys rising. -/
theorem keysRise_put {es : List Entry} (h : keysRise es) (e : Entry) : keysRise (putEntry e es) := by
  rcases putEntry_split h e with ⟨l, r, x, h1, h2, _, h4, _⟩ | ⟨l, r, h1, _, h3, h4, h5⟩
  · rw [h4]; rw [h1] at h
    simp only [keysRise, List.pairwise_append, List.pairwise_cons, List.mem_cons] at h ⊢
    obtain ⟨a, ⟨b, c⟩, d⟩ := h
    refine ⟨a, ⟨fun z hz => h2 ▸ b z hz, c⟩, ?_⟩
    rintro w hw z (rfl | hz)
    · exact h2 ▸ d w hw x (.inl rfl)
    · exact d w hw z (.inr hz)
  · rw [h3]; rw [h1] at h
    simp only [keysRise, List.pairwise_append, List.pairwise_cons, List.mem_cons] at h ⊢
    obtain ⟨a, b, d⟩ := h
    refine ⟨a, ⟨h5, b⟩, ?_⟩
    rintro w hw z (rfl | hz)
    · exact h4 w hw
    · exact d w hw z hz

/-- Where the keys rise, an entry is found under its own key. -/
theorem findEntry_of_mem {es : List Entry} (h : keysRise es) {e : Entry} (he : e ∈ es) : findEntry e.key es = some e := by
  induction es with
  | nil => cases he
  | cons y es ih =>
    obtain ⟨hy, hr⟩ := List.pairwise_cons.1 h
    rcases List.mem_cons.1 he with rfl | he
    · simp [findEntry]
    · have := keyLt_ne (hy e he)
      simpa [findEntry, this] using ih hr he

/-! ## Lengths and the durable share (R21, R36) -/

theorem length_put_some {es : List Entry} (h : keysRise es) {e x : Entry} (hf : findEntry e.key es = some x) :
    (putEntry e es).length = es.length := by
  rcases putEntry_split h e with ⟨l, r, y, h1, _, _, h4, _⟩ | ⟨l, r, _, h2, _⟩
  · rw [h4, h1]; simp
  · rw [h2] at hf; cases hf

theorem length_put_none {es : List Entry} (h : keysRise es) {e : Entry} (hf : findEntry e.key es = none) :
    (putEntry e es).length = es.length + 1 := by
  rcases putEntry_split h e with ⟨l, r, y, _, _, h3, _⟩ | ⟨l, r, h1, _, h3, _⟩
  · rw [h3] at hf; cases hf
  · rw [h3, h1]; simp; omega

theorem length_drop_some {es : List Entry} (h : keysRise es) {k : Key} {x : Entry} (hf : findEntry k es = some x) :
    (dropEntry k es).length + 1 = es.length := by
  have hk := findEntry_key hf
  subst hk
  rcases putEntry_split h x with ⟨l, r, y, h1, _, _, _, h5⟩ | ⟨l, r, _, h2, _⟩
  · rw [h5, h1]; simp; omega
  · rw [h2] at hf; cases hf

/-- The durable share once an entry has taken the place of its key's entry. -/
theorem durableShare_put_some {es : List Entry} (h : keysRise es) {e x : Entry} (hf : findEntry e.key es = some x) :
    durableShare (putEntry e es) + durableLen x.durable = durableShare es + durableLen e.durable := by
  rcases putEntry_split h e with ⟨l, r, y, h1, _, h3, h4, _⟩ | ⟨l, r, _, h2, _⟩
  · rw [h3] at hf; cases hf
    have h1' := congrArg durableShare h1
    rw [h4, h1']
    simp [durableShare]; omega
  · rw [h2] at hf; cases hf

theorem durableShare_put_none {es : List Entry} (h : keysRise es) {e : Entry} (hf : findEntry e.key es = none) :
    durableShare (putEntry e es) = durableShare es + durableLen e.durable := by
  rcases putEntry_split h e with ⟨l, r, y, _, _, h3, _⟩ | ⟨l, r, h1, _, h3, _⟩
  · rw [h3] at hf; cases hf
  · rw [h3, h1]; simp [durableShare]; omega

theorem durableShare_drop_some {es : List Entry} (h : keysRise es) {k : Key} {x : Entry} (hf : findEntry k es = some x) :
    durableShare (dropEntry k es) + durableLen x.durable = durableShare es := by
  have hk := findEntry_key hf
  subst hk
  rcases putEntry_split h x with ⟨l, r, y, h1, _, h3, _, h5⟩ | ⟨l, r, _, h2, _⟩
  · rw [h3] at hf; cases hf
    have h1' := congrArg durableShare h1
    rw [h5, h1']
    simp [durableShare]; omega
  · rw [h2] at hf; cases hf

theorem durableLen_le_share {es : List Entry} {x : Entry} (hx : x ∈ es) : durableLen x.durable ≤ durableShare es := by
  obtain ⟨l, r, rfl⟩ := List.append_of_mem hx
  simp [durableShare]; omega

/-! ## The state's Directory -/

@[simp] theorem State.putEntry_entry (e : Entry) (s : State) : (s.putEntry e).entry e.key = some e := findEntry_put e _

theorem State.putEntry_entry_other {e : Entry} {k : Key} (h : k ≠ e.key) (s : State) :
    (s.putEntry e).entry k = s.entry k := findEntry_put_other h _

theorem State.entry_key {s : State} {k : Key} {e : Entry} (h : s.entry k = some e) : e.key = k := findEntry_key h

end Sys2Proof.Machine
end

