-- ==== Sys2Proof/Laws/Flash.lean ====
section
/-! SUPPORT. The array: reading after writing, and the canonical form that every operation keeps (R1, R2). -/

namespace Sys2Proof.Machine

/-! ## Rising association lists -/

theorem assocGet_put {α : Type} (k : Nat) (v : α) (l : List (Nat × α)) : assocGet k (assocPut k v l) = some v := by
  induction l with
  | nil => simp [assocPut, assocGet]
  | cons p l ih =>
    obtain ⟨j, w⟩ := p
    simp only [assocPut]
    split
    · simp [assocGet]
    · split
      · simp [assocGet]
      · rename_i h; simp [assocGet, Ne.symm h, ih]

theorem assocGet_put_other {α : Type} {k m : Nat} (h : m ≠ k) (v : α) (l : List (Nat × α)) :
    assocGet m (assocPut k v l) = assocGet m l := by
  induction l with
  | nil => simp [assocPut, assocGet, Ne.symm h]
  | cons p l ih =>
    obtain ⟨j, w⟩ := p
    simp only [assocPut]
    split
    · simp [assocGet, Ne.symm h]
    · split
      · rename_i hkj; subst hkj; simp [assocGet, Ne.symm h]
      · simp [assocGet, ih]

/-- Dropping the entries that fail a test leaves what is read at a key whose entries pass it. -/
theorem assocGet_filter {α : Type} {p : Nat × α → Bool} {m : Nat} (h : ∀ v, p (m, v) = true) (l : List (Nat × α)) :
    assocGet m (l.filter p) = assocGet m l := by
  induction l with
  | nil => rfl
  | cons q l ih =>
    obtain ⟨j, w⟩ := q
    by_cases hj : j = m
    · subst hj; simp [h, assocGet]
    · by_cases hp : p (j, w) = true
      · simp [hp, assocGet, hj, ih]
      · simp [hp, assocGet, hj, ih]

theorem assocGet_filter_none {α : Type} {p : Nat × α → Bool} {m : Nat} (h : ∀ v, p (m, v) = false) (l : List (Nat × α)) :
    assocGet m (l.filter p) = none := by
  induction l with
  | nil => rfl
  | cons q l ih =>
    obtain ⟨j, w⟩ := q
    by_cases hj : j = m
    · subst hj; simp [h, ih]
    · by_cases hp : p (j, w) = true
      · simp [hp, assocGet, hj, ih]
      · simp [hp, ih]

theorem assocGet_del {α : Type} (k : Nat) (l : List (Nat × α)) : assocGet k (assocDel k l) = none :=
  assocGet_filter_none (by simp) l

theorem assocGet_del_other {α : Type} {k m : Nat} (h : m ≠ k) (l : List (Nat × α)) :
    assocGet m (assocDel k l) = assocGet m l :=
  assocGet_filter (by simp [h]) l

/-- Rising keys, as a relation between every two entries. -/
theorem assocRising_iff {α : Type} (l : List (Nat × α)) :
    assocRising l = true ↔ l.Pairwise (fun a b => a.1 < b.1) := by
  induction l with
  | nil => simp [assocRising]
  | cons a l ih =>
    cases l with
    | nil => simp [assocRising]
    | cons b l =>
      obtain ⟨j, v⟩ := a
      obtain ⟨k, w⟩ := b
      simp only [assocRising, Bool.and_eq_true, decide_eq_true_eq, ih, List.pairwise_cons, List.mem_cons]
      constructor
      · rintro ⟨h, h1, h2⟩
        refine ⟨?_, h1, h2⟩
        rintro p (rfl | hp)
        · exact h
        · exact Nat.lt_trans h (h1 p hp)
      · rintro ⟨h, h1, h2⟩
        exact ⟨h _ (.inl rfl), h1, h2⟩

theorem mem_assocPut {α : Type} {k : Nat} {v : α} {l : List (Nat × α)} {p : Nat × α} (h : p ∈ assocPut k v l) :
    p = (k, v) ∨ p ∈ l := by
  induction l with
  | nil => simp only [assocPut, List.mem_singleton] at h; exact .inl h
  | cons q l ih =>
    obtain ⟨j, w⟩ := q
    simp only [assocPut] at h
    split at h
    · simp only [List.mem_cons] at h ⊢; exact h
    · split at h
      · simp only [List.mem_cons] at h ⊢; rcases h with h | h
        · exact .inl h
        · exact .inr (.inr h)
      · simp only [List.mem_cons] at h ⊢
        rcases h with h | h
        · exact .inr (.inl h)
        · exact (ih h).imp_right .inr

theorem assocRising_put {α : Type} (k : Nat) (v : α) {l : List (Nat × α)} (h : assocRising l = true) :
    assocRising (assocPut k v l) = true := by
  rw [assocRising_iff] at h ⊢
  induction l with
  | nil => simp [assocPut]
  | cons q l ih =>
    obtain ⟨j, w⟩ := q
    rw [List.pairwise_cons] at h
    simp only [assocPut]
    split
    · rename_i hk
      rw [List.pairwise_cons]
      refine ⟨?_, List.pairwise_cons.2 h⟩
      intro p hp
      rcases List.mem_cons.1 hp with rfl | hp
      · exact hk
      · exact Nat.lt_trans hk (h.1 p hp)
    · split
      · rename_i hk; subst hk; exact List.pairwise_cons.2 h
      · rw [List.pairwise_cons]
        refine ⟨?_, ih h.2⟩
        intro p hp
        rcases mem_assocPut hp with rfl | hp
        · simp only; omega
        · exact h.1 p hp

theorem assocRising_filter {α : Type} (p : Nat × α → Bool) {l : List (Nat × α)} (h : assocRising l = true) :
    assocRising (l.filter p) = true := by
  rw [assocRising_iff] at h ⊢
  exact h.filter p

/-! ## Reading after writing -/

theorem wordAddr_inj {a b i j : Nat} (hi : i < Config.sectorWords) (hj : j < Config.sectorWords)
    (h : wordAddr a i = wordAddr b j) : a = b ∧ i = j := by
  simp only [wordAddr, Config.sectorWords] at *; omega

theorem wordAddr_sector {a i : Nat} (hi : i < Config.sectorWords) : wordAddr a i / Config.sectorWords = a := by
  simp only [wordAddr, Config.sectorWords] at *; omega

/-- What an unlisted word reads as depends on the wrecked sectors alone. -/
theorem Flash.unlisted_cells (f : Flash) (cells : List (Nat × Cell)) (sector : Nat) :
    ({ f with cells := cells } : Flash).unlisted sector = f.unlisted sector := rfl

theorem Flash.put_wrecks (f : Flash) (sector index : Nat) (c : Cell) : (f.put sector index c).wrecks = f.wrecks := by
  simp only [Flash.put]; (repeat' split) <;> rfl

theorem Flash.unlisted_put (f : Flash) (sector index : Nat) (c : Cell) (n : Nat) :
    (f.put sector index c).unlisted n = f.unlisted n := by
  simp [Flash.unlisted, Flash.put_wrecks]

/-- A word that exists holds what has been put there. -/
theorem Flash.cell_put {f : Flash} {sector index : Nat} (h : wordExists sector index = true) (c : Cell) :
    (f.put sector index c).cell sector index = c := by
  rw [Flash.cell, Flash.unlisted_put]
  by_cases hc : c = f.unlisted sector
  · simp only [Flash.put, h, hc, if_true, assocGet_del]
  · simp only [Flash.put, h, hc, if_true, if_false, assocGet_put]

/-- Every other word holds what it held. -/
theorem Flash.cell_put_other {f : Flash} {sector index n i : Nat} (hi : i < Config.sectorWords)
    (h : n ≠ sector ∨ i ≠ index) (c : Cell) : (f.put sector index c).cell n i = f.cell n i := by
  rw [Flash.cell, Flash.unlisted_put, Flash.cell]
  by_cases he : wordExists sector index = true
  · have hx : index < Config.sectorWords := by simp only [wordExists, decide_eq_true_eq] at he; exact he.2
    have hne : wordAddr n i ≠ wordAddr sector index := by
      intro hw; have := wordAddr_inj hi hx hw; omega
    by_cases hc : c = f.unlisted sector
    · simp only [Flash.put, he, hc, if_true, assocGet_del_other hne]
    · simp only [Flash.put, he, hc, if_true, if_false, assocGet_put_other hne]
  · simp only [Flash.put, he, if_false, Bool.false_eq_true]

theorem Flash.word_put {f : Flash} {sector index : Nat} (h : wordExists sector index = true) (c : Cell) :
    (f.put sector index c).word sector index = c.view index := by rw [Flash.word, Flash.cell_put h]

theorem Flash.word_put_other {f : Flash} {sector index n i : Nat} (hi : i < Config.sectorWords)
    (h : n ≠ sector ∨ i ≠ index) (c : Cell) : (f.put sector index c).word n i = f.word n i := by
  rw [Flash.word, Flash.cell_put_other hi h, Flash.word]

/-- Putting stored words at indices of a sector changes no word of another sector, and no word of that
sector at another index. -/
theorem Flash.word_putAll_other {sector n i : Nat} (hi : i < Config.sectorWords) (ws : List (Nat × RawWord)) (f : Flash)
    (h : n ≠ sector ∨ ∀ p ∈ ws, p.1 ≠ i) : (f.putAll sector ws).word n i = f.word n i := by
  induction ws generalizing f with
  | nil => rfl
  | cons p ws ih =>
    obtain ⟨j, w⟩ := p
    rw [Flash.putAll, ih _ (h.imp_right fun h q hq => h q (List.mem_cons_of_mem _ hq)), Flash.word_put_other hi]
    exact h.imp_right fun h => Ne.symm (h (j, w) List.mem_cons_self)

/-- After an erase's pulse every word of the sector is blank. -/
theorem Flash.word_clear (f : Flash) (sector i : Nat) (hi : i < Config.sectorWords) :
    (f.clear sector).word sector i = blankWord := by
  have h1 : assocGet (wordAddr sector i) (f.outside sector) = none :=
    assocGet_filter_none (by simp [wordAddr_sector hi]) _
  simp [Flash.word, Flash.cell, Flash.clear, Flash.unlisted, h1, assocGet_del, blankCell, Cell.view]

/-- No other sector changes. -/
theorem Flash.word_clear_other {f : Flash} {sector n i : Nat} (hi : i < Config.sectorWords) (h : n ≠ sector) :
    (f.clear sector).word n i = f.word n i := by
  have h1 : assocGet (wordAddr n i) (f.outside sector) = assocGet (wordAddr n i) f.cells :=
    assocGet_filter (by simp [wordAddr_sector hi, h]) _
  simp [Flash.word, Flash.cell, Flash.clear, Flash.unlisted, h1, assocGet_del_other h]

/-- The erase word of a sector whose erase was cut short is not valid (R2). -/
theorem Flash.erase_wreck (f : Flash) {sector : Nat} (h : sector < Config.sectors) (seed : Nat) :
    ((f.wreck sector seed).word sector 0).erase? = none := by
  have hd : wordAddr sector 0 / Config.sectorWords = sector := by simp [wordAddr, Config.sectorWords]
  have hc : assocGet (wordAddr sector 0) (f.outside sector) = none := assocGet_filter_none (by intro v; simp [hd]) _
  simp only [Flash.word, Flash.cell, Flash.wreck, if_pos h, hc, Flash.unlisted, assocGet_put, Cell.view, if_true,
    RawWord.withoutEraseWord, RawWord.unless]
  split
  · rfl
  · simp_all

/-- A sector left indeterminate changes no other sector. -/
theorem Flash.word_wreck_other {f : Flash} {sector n i : Nat} (hi : i < Config.sectorWords) (h : n ≠ sector) (seed : Nat) :
    (f.wreck sector seed).word n i = f.word n i := by
  have h1 : assocGet (wordAddr n i) (f.outside sector) = assocGet (wordAddr n i) f.cells :=
    assocGet_filter (by simp [wordAddr_sector hi, h]) _
  simp only [Flash.wreck]
  split
  · simp [Flash.word, Flash.cell, Flash.unlisted, h1, assocGet_put_other h]
  · rfl

/-! ## The canonical form -/

theorem Flash.wf_iff (f : Flash) : f.wf = true ↔
    assocRising f.cells = true ∧ assocRising f.wrecks = true
    ∧ (∀ p ∈ f.cells, p.1 < Config.sectors * Config.sectorWords ∧ p.2 ≠ f.unlisted (p.1 / Config.sectorWords))
    ∧ ∀ p ∈ f.wrecks, p.1 < Config.sectors := by
  simp [Flash.wf, and_assoc, List.all_eq_true]

/-- Writing a word keeps the canonical form. -/
theorem Flash.wf_put {f : Flash} (h : f.wf = true) (sector index : Nat) (c : Cell) : (f.put sector index c).wf = true := by
  obtain ⟨h1, h2, h3, h4⟩ := f.wf_iff.1 h
  rw [Flash.wf_iff]
  simp only [Flash.unlisted_put, Flash.put_wrecks]
  simp only [Flash.put]
  split
  · rename_i he
    simp only [wordExists, decide_eq_true_eq] at he
    split
    · exact ⟨assocRising_filter _ h1, h2, fun p hp => h3 p (List.mem_filter.1 hp).1, h4⟩
    · rename_i hc
      refine ⟨assocRising_put _ _ h1, h2, ?_, h4⟩
      intro p hp
      rcases mem_assocPut hp with rfl | hp
      · simp only [wordAddr_sector he.2]
        refine ⟨?_, hc⟩
        have := he.1; have := he.2
        simp only [wordAddr, Config.sectorWords, Config.sectors] at *; omega
      · exact h3 p hp
  · exact ⟨h1, h2, h3, h4⟩

theorem Flash.wf_putAll (sector : Nat) (ws : List (Nat × RawWord)) {f : Flash} (h : f.wf = true) :
    (f.putAll sector ws).wf = true := by
  induction ws generalizing f with
  | nil => exact h
  | cons p ws ih => exact ih (Flash.wf_put h _ _ _)

/-- An erase's pulse keeps the canonical form. -/
theorem Flash.wf_clear {f : Flash} (h : f.wf = true) (sector : Nat) : (f.clear sector).wf = true := by
  obtain ⟨h1, h2, h3, h4⟩ := f.wf_iff.1 h
  rw [Flash.wf_iff]
  refine ⟨assocRising_filter _ h1, assocRising_filter _ h2, ?_, fun p hp => h4 p (List.mem_filter.1 hp).1⟩
  intro p hp
  obtain ⟨hp, hs⟩ := List.mem_filter.1 hp
  have hne : p.1 / Config.sectorWords ≠ sector := by simpa using hs
  have := h3 p hp
  simpa [Flash.unlisted, Flash.clear, assocGet_del_other hne] using this

/-- An erase cut short keeps the canonical form. -/
theorem Flash.wf_wreck {f : Flash} (h : f.wf = true) (sector seed : Nat) : (f.wreck sector seed).wf = true := by
  simp only [Flash.wreck]
  split
  · rename_i hs
    obtain ⟨h1, h2, h3, h4⟩ := f.wf_iff.1 h
    rw [Flash.wf_iff]
    refine ⟨assocRising_filter _ h1, assocRising_put _ _ h2, ?_, ?_⟩
    · intro p hp
      obtain ⟨hp, hq⟩ := List.mem_filter.1 hp
      have hne : p.1 / Config.sectorWords ≠ sector := by simpa using hq
      have := h3 p hp
      simpa [Flash.unlisted, assocGet_put_other hne] using this
    · intro p hp
      rcases mem_assocPut hp with rfl | hp
      · exact hs
      · exact h4 p hp
  · exact h

/-- The array right after reset is in canonical form. -/
theorem State.reset_wf : State.reset.flash.wf = true := rfl

/-! ## Indeterminate words (R2, R100, R101, R107, R110) -/

/-- A word whose program was cut short never reads as the spec says it cannot. -/
theorem Cell.view_cut (seed : Nat) (data : Word) (role : WordRole) (i : Nat) :
    role.notCut data ((Cell.cut seed data role).view i) = false := by
  simp only [Cell.view, RawWord.unless]
  split
  · cases role <;> simp [WordRole.notCut, RawWord.keepsOnes, RawWord.value?, RawWord.erase?]
  · simp_all

/-- A word whose program failed never reads as the spec says it cannot. -/
theorem Cell.view_failed (seed : Nat) (data : Word) (role : WordRole) (i : Nat) :
    role.notFailed data ((Cell.failed seed data role).view i) = false := by
  simp only [Cell.view, RawWord.unless]
  split
  · cases role <;> simp [WordRole.notFailed, RawWord.isBlank, RawWord.value?, RawWord.erase?, RawWord.open?, RawWord.allOnes, blankWord]
  · simp_all

end Sys2Proof.Machine
end

