-- ==== Sys2Proof/Laws/Frames.lean ====
section
/-! SUPPORT. What every shared operation leaves alone: one lemma per operation. Every component of the state
that an operation's lemma does not name may change. -/

namespace Sys2Proof.Machine

/-- The state a consideration of the head leaves, whether the head left the Admission List or was kept. -/
def Consideration.state : Consideration → State
  | .left s => s
  | .kept s => s

@[simp] theorem Consideration.state_left (s : State) : (Consideration.left s).state = s := rfl
@[simp] theorem Consideration.state_kept (s : State) : (Consideration.kept s).state = s := rfl

/-- A reply that is not the RESET reply leaves the device state block alone. -/
theorem State.sendReply_dev {e : TxFrame} (h : e.restarts = false) (s : State) :
    (s.sendReply e).dev = s.dev := by
  simp only [State.sendReply, h]; split <;> simp

@[simp] theorem State.sendPlain_dev (f : Frame) (s : State) : (s.sendReply (plainTx f)).dev = s.dev :=
  State.sendReply_dev rfl s

@[simp] theorem State.sendRate_dev (f : Frame) (r : Option Nat) (s : State) :
    (s.sendReply { frame := f, rateChange := r, restarts := false }).dev = s.dev :=
  State.sendReply_dev rfl s

/-- A final reply other than RESET's leaves the device state block alone. -/
@[simp] theorem State.finish_dev (tag : Byte) (payload : List Byte) (s : State) :
    (s.finish tag payload false).dev = s.dev := by
  simp only [State.finish]; (repeat' split) <;> simp_all

@[simp] theorem State.cutWord_frame (sector index : Nat) (data : Word) (role : WordRole) (s : State) :
    (s.cutWord sector index data role).link = s.link ∧ (s.cutWord sector index data role).req = s.req ∧
    (s.cutWord sector index data role).dir = s.dir ∧ (s.cutWord sector index data role).wq = s.wq ∧
    (s.cutWord sector index data role).grp = s.grp ∧ (s.cutWord sector index data role).lw = s.lw ∧
    (s.cutWord sector index data role).arr = s.arr ∧ (s.cutWord sector index data role).sm = s.sm ∧
    (s.cutWord sector index data role).mount = s.mount ∧ (s.cutWord sector index data role).sup = s.sup ∧
    (s.cutWord sector index data role).dev = s.dev ∧ (s.cutWord sector index data role).pending = s.pending := by
  simp only [State.cutWord]; simp

@[simp] theorem State.failWord_frame (sector index : Nat) (data : Word) (role : WordRole) (s : State) :
    (s.failWord sector index data role).link = s.link ∧ (s.failWord sector index data role).req = s.req ∧
    (s.failWord sector index data role).dir = s.dir ∧ (s.failWord sector index data role).wq = s.wq ∧
    (s.failWord sector index data role).grp = s.grp ∧ (s.failWord sector index data role).lw = s.lw ∧
    (s.failWord sector index data role).arr = s.arr ∧ (s.failWord sector index data role).sm = s.sm ∧
    (s.failWord sector index data role).mount = s.mount ∧ (s.failWord sector index data role).sup = s.sup ∧
    (s.failWord sector index data role).dev = s.dev ∧ (s.failWord sector index data role).pending = s.pending := by
  simp only [State.failWord]; simp

@[simp] theorem State.wreckSector_frame (sector : Nat) (s : State) :
    (s.wreckSector sector).link = s.link ∧ (s.wreckSector sector).req = s.req ∧
    (s.wreckSector sector).dir = s.dir ∧ (s.wreckSector sector).wq = s.wq ∧ (s.wreckSector sector).grp = s.grp ∧
    (s.wreckSector sector).lw = s.lw ∧ (s.wreckSector sector).arr = s.arr ∧ (s.wreckSector sector).sm = s.sm ∧
    (s.wreckSector sector).mount = s.mount ∧ (s.wreckSector sector).sup = s.sup ∧
    (s.wreckSector sector).dev = s.dev ∧ (s.wreckSector sector).pending = s.pending := by
  simp only [State.wreckSector]; simp

@[simp] theorem State.setDevice_frame (d : DeviceState) (s : State) :
    (s.setDevice d).link.rx = s.link.rx ∧ (s.setDevice d).link.got = s.link.got ∧
    (s.setDevice d).link.gap = s.link.gap ∧ (s.setDevice d).link.rate = s.link.rate ∧ (s.setDevice d).req = s.req ∧
    (s.setDevice d).dir = s.dir ∧ (s.setDevice d).wq = s.wq ∧ (s.setDevice d).grp = s.grp ∧
    (s.setDevice d).lw = s.lw ∧ (s.setDevice d).arr = s.arr ∧ (s.setDevice d).flash = s.flash ∧
    (s.setDevice d).sm = s.sm ∧ (s.setDevice d).mount = s.mount ∧ (s.setDevice d).sup = s.sup ∧
    (s.setDevice d).dev.restartDue = s.dev.restartDue ∧ (s.setDevice d).dev.restartLatch = s.dev.restartLatch ∧
    (s.setDevice d).seeds = s.seeds ∧ (s.setDevice d).pending = s.pending := by
  simp only [State.setDevice]; (repeat' split) <;> simp

@[simp] theorem State.toReadOnly_frame (s : State) :
    s.toReadOnly.link.rx = s.link.rx ∧ s.toReadOnly.link.got = s.link.got ∧ s.toReadOnly.link.gap = s.link.gap ∧
    s.toReadOnly.link.rate = s.link.rate ∧ s.toReadOnly.req = s.req ∧ s.toReadOnly.dir = s.dir ∧
    s.toReadOnly.wq = s.wq ∧ s.toReadOnly.grp = s.grp ∧ s.toReadOnly.lw = s.lw ∧ s.toReadOnly.arr = s.arr ∧
    s.toReadOnly.flash = s.flash ∧ s.toReadOnly.sm = s.sm ∧ s.toReadOnly.mount = s.mount ∧
    s.toReadOnly.sup = s.sup ∧ s.toReadOnly.dev.restartDue = s.dev.restartDue ∧
    s.toReadOnly.dev.restartLatch = s.dev.restartLatch ∧ s.toReadOnly.seeds = s.seeds ∧
    s.toReadOnly.pending = s.pending := by
  simp only [State.toReadOnly]; (repeat' split) <;> simp

@[simp] theorem State.hostFaultState_frame (s : State) :
    s.hostFaultState.link.rx = s.link.rx ∧ s.hostFaultState.link.got = s.link.got ∧
    s.hostFaultState.link.gap = s.link.gap ∧ s.hostFaultState.link.rate = s.link.rate ∧
    s.hostFaultState.req = s.req ∧ s.hostFaultState.dir = s.dir ∧ s.hostFaultState.wq = s.wq ∧
    s.hostFaultState.grp = s.grp ∧ s.hostFaultState.lw = s.lw ∧ s.hostFaultState.arr = s.arr ∧
    s.hostFaultState.flash = s.flash ∧ s.hostFaultState.sm = s.sm ∧ s.hostFaultState.mount = s.mount ∧
    s.hostFaultState.sup = s.sup ∧ s.hostFaultState.dev.restartDue = s.dev.restartDue ∧
    s.hostFaultState.dev.restartLatch = s.dev.restartLatch ∧ s.hostFaultState.seeds = s.seeds ∧
    s.hostFaultState.pending = s.pending := by
  simp only [State.hostFaultState]; (repeat' split) <;> simp

@[simp] theorem State.crossMark_frame (before after : Bool) (s : State) :
    (s.crossMark before after).link.rx = s.link.rx ∧ (s.crossMark before after).link.got = s.link.got ∧
    (s.crossMark before after).link.gap = s.link.gap ∧ (s.crossMark before after).link.rate = s.link.rate ∧
    (s.crossMark before after).req = s.req ∧ (s.crossMark before after).dir = s.dir ∧
    (s.crossMark before after).wq = s.wq ∧ (s.crossMark before after).grp = s.grp ∧
    (s.crossMark before after).lw = s.lw ∧ (s.crossMark before after).arr = s.arr ∧
    (s.crossMark before after).flash = s.flash ∧ (s.crossMark before after).sm = s.sm ∧
    (s.crossMark before after).mount = s.mount ∧ (s.crossMark before after).sup = s.sup ∧
    (s.crossMark before after).dev = s.dev ∧ (s.crossMark before after).seeds = s.seeds ∧
    (s.crossMark before after).pending = s.pending := by
  simp only [State.crossMark]; (repeat' split) <;> simp

@[simp] theorem State.setAdmitted_frame (n : Nat) (s : State) :
    (s.setAdmitted n).link.rx = s.link.rx ∧ (s.setAdmitted n).link.got = s.link.got ∧
    (s.setAdmitted n).link.gap = s.link.gap ∧ (s.setAdmitted n).link.rate = s.link.rate ∧
    (s.setAdmitted n).req = s.req ∧ (s.setAdmitted n).dir.entries = s.dir.entries ∧
    (s.setAdmitted n).dir.limit = s.dir.limit ∧ (s.setAdmitted n).wq = s.wq ∧ (s.setAdmitted n).grp = s.grp ∧
    (s.setAdmitted n).lw = s.lw ∧ (s.setAdmitted n).arr = s.arr ∧ (s.setAdmitted n).flash = s.flash ∧
    (s.setAdmitted n).sm = s.sm ∧ (s.setAdmitted n).mount = s.mount ∧ (s.setAdmitted n).sup = s.sup ∧
    (s.setAdmitted n).dev = s.dev ∧ (s.setAdmitted n).seeds = s.seeds ∧ (s.setAdmitted n).pending = s.pending := by
  simp only [State.setAdmitted]; simp

@[simp] theorem State.evalLimit_frame (s : State) :
    s.evalLimit.link.rx = s.link.rx ∧ s.evalLimit.link.got = s.link.got ∧ s.evalLimit.link.gap = s.link.gap ∧
    s.evalLimit.link.rate = s.link.rate ∧ s.evalLimit.req = s.req ∧ s.evalLimit.dir.entries = s.dir.entries ∧
    s.evalLimit.wq = s.wq ∧ s.evalLimit.grp = s.grp ∧ s.evalLimit.lw = s.lw ∧ s.evalLimit.arr = s.arr ∧
    s.evalLimit.flash = s.flash ∧ s.evalLimit.sm = s.sm ∧ s.evalLimit.mount = s.mount ∧ s.evalLimit.sup = s.sup ∧
    s.evalLimit.dev.restartDue = s.dev.restartDue ∧ s.evalLimit.dev.restartLatch = s.dev.restartLatch ∧
    s.evalLimit.seeds = s.seeds ∧ s.evalLimit.pending = s.pending := by
  simp only [State.evalLimit]; (repeat' split) <;> simp

@[simp] theorem State.retireDurable_frame (d : Option DurablePart) (s : State) :
    (s.retireDurable d).link = s.link ∧ (s.retireDurable d).req = s.req ∧ (s.retireDurable d).dir = s.dir ∧
    (s.retireDurable d).wq = s.wq ∧ (s.retireDurable d).grp = s.grp ∧ (s.retireDurable d).lw = s.lw ∧
    (s.retireDurable d).arr = s.arr ∧ (s.retireDurable d).flash = s.flash ∧
    (s.retireDurable d).sm.wearDue = s.sm.wearDue ∧ (s.retireDurable d).sm.epoch = s.sm.epoch ∧
    (s.retireDurable d).mount = s.mount ∧ (s.retireDurable d).sup = s.sup ∧ (s.retireDurable d).dev = s.dev ∧
    (s.retireDurable d).seeds = s.seeds ∧ (s.retireDurable d).pending = s.pending := by
  simp only [State.retireDurable]; (repeat' split) <;> simp

@[simp] theorem State.removeEntry_frame (e : Entry) (s : State) :
    (s.removeEntry e).link.rx = s.link.rx ∧ (s.removeEntry e).link.got = s.link.got ∧
    (s.removeEntry e).link.gap = s.link.gap ∧ (s.removeEntry e).link.rate = s.link.rate ∧
    (s.removeEntry e).req = s.req ∧ (s.removeEntry e).dir.limit = s.dir.limit ∧ (s.removeEntry e).wq = s.wq ∧
    (s.removeEntry e).grp = s.grp ∧ (s.removeEntry e).lw = s.lw ∧ (s.removeEntry e).arr = s.arr ∧
    (s.removeEntry e).flash = s.flash ∧ (s.removeEntry e).sm.wearDue = s.sm.wearDue ∧
    (s.removeEntry e).sm.epoch = s.sm.epoch ∧ (s.removeEntry e).mount = s.mount ∧ (s.removeEntry e).sup = s.sup ∧
    (s.removeEntry e).dev = s.dev ∧ (s.removeEntry e).seeds = s.seeds ∧ (s.removeEntry e).pending = s.pending := by
  simp only [State.removeEntry]; simp

@[simp] theorem State.copyBegun_frame (k : Key) (s : State) :
    (s.copyBegun k).link = s.link ∧ (s.copyBegun k).req = s.req ∧ (s.copyBegun k).dir.limit = s.dir.limit ∧
    (s.copyBegun k).wq = s.wq ∧ (s.copyBegun k).grp = s.grp ∧ (s.copyBegun k).lw = s.lw ∧
    (s.copyBegun k).arr = s.arr ∧ (s.copyBegun k).flash = s.flash ∧ (s.copyBegun k).sm = s.sm ∧
    (s.copyBegun k).mount = s.mount ∧ (s.copyBegun k).sup = s.sup ∧ (s.copyBegun k).dev = s.dev ∧
    (s.copyBegun k).seeds = s.seeds ∧ (s.copyBegun k).pending = s.pending := by
  simp only [State.copyBegun]; (repeat' split) <;> simp

@[simp] theorem State.passRecord_frame (k : Key) (victim : Nat) (s : State) :
    (s.passRecord k victim).link.rx = s.link.rx ∧ (s.passRecord k victim).link.got = s.link.got ∧
    (s.passRecord k victim).link.gap = s.link.gap ∧ (s.passRecord k victim).link.rate = s.link.rate ∧
    (s.passRecord k victim).req = s.req ∧ (s.passRecord k victim).dir.limit = s.dir.limit ∧
    (s.passRecord k victim).wq = s.wq ∧ (s.passRecord k victim).grp = s.grp ∧ (s.passRecord k victim).lw = s.lw ∧
    (s.passRecord k victim).arr = s.arr ∧ (s.passRecord k victim).flash = s.flash ∧
    (s.passRecord k victim).sm.wearDue = s.sm.wearDue ∧ (s.passRecord k victim).sm.epoch = s.sm.epoch ∧
    (s.passRecord k victim).mount = s.mount ∧ (s.passRecord k victim).sup = s.sup ∧
    (s.passRecord k victim).dev = s.dev ∧ (s.passRecord k victim).seeds = s.seeds ∧
    (s.passRecord k victim).pending = s.pending := by
  simp only [State.passRecord]; (repeat' split) <;> simp

@[simp] theorem State.makeDurable_frame (k : Key) (d : DurablePart) (s : State) :
    (s.makeDurable k d).link.rx = s.link.rx ∧ (s.makeDurable k d).link.got = s.link.got ∧
    (s.makeDurable k d).link.gap = s.link.gap ∧ (s.makeDurable k d).link.rate = s.link.rate ∧
    (s.makeDurable k d).req = s.req ∧ (s.makeDurable k d).dir.limit = s.dir.limit ∧ (s.makeDurable k d).wq = s.wq ∧
    (s.makeDurable k d).grp = s.grp ∧ (s.makeDurable k d).lw = s.lw ∧ (s.makeDurable k d).arr = s.arr ∧
    (s.makeDurable k d).flash = s.flash ∧ (s.makeDurable k d).sm.wearDue = s.sm.wearDue ∧
    (s.makeDurable k d).sm.epoch = s.sm.epoch ∧ (s.makeDurable k d).mount = s.mount ∧
    (s.makeDurable k d).sup = s.sup ∧ (s.makeDurable k d).dev = s.dev ∧ (s.makeDurable k d).seeds = s.seeds ∧
    (s.makeDurable k d).pending = s.pending := by
  simp only [State.makeDurable]; (repeat' split) <;> simp

@[simp] theorem State.copyComplete_frame (r : RelocRecord) (sector offset : Nat) (s : State) :
    (s.copyComplete r sector offset).link.rx = s.link.rx ∧ (s.copyComplete r sector offset).link.got = s.link.got ∧
    (s.copyComplete r sector offset).link.gap = s.link.gap ∧
    (s.copyComplete r sector offset).link.rate = s.link.rate ∧ (s.copyComplete r sector offset).req = s.req ∧
    (s.copyComplete r sector offset).dir.limit = s.dir.limit ∧ (s.copyComplete r sector offset).wq = s.wq ∧
    (s.copyComplete r sector offset).grp = s.grp ∧ (s.copyComplete r sector offset).lw = s.lw ∧
    (s.copyComplete r sector offset).arr = s.arr ∧ (s.copyComplete r sector offset).flash = s.flash ∧
    (s.copyComplete r sector offset).sm.wearDue = s.sm.wearDue ∧
    (s.copyComplete r sector offset).sm.epoch = s.sm.epoch ∧ (s.copyComplete r sector offset).mount = s.mount ∧
    (s.copyComplete r sector offset).sup = s.sup ∧ (s.copyComplete r sector offset).dev = s.dev ∧
    (s.copyComplete r sector offset).seeds = s.seeds ∧ (s.copyComplete r sector offset).pending = s.pending := by
  simp only [State.copyComplete]; (repeat' split) <;> simp

@[simp] theorem State.markLost_frame (e : Entry) (d : DurablePart) (s : State) :
    (s.markLost e d).link = s.link ∧ (s.markLost e d).req = s.req ∧ (s.markLost e d).dir.limit = s.dir.limit ∧
    (s.markLost e d).wq = s.wq ∧ (s.markLost e d).grp = s.grp ∧ (s.markLost e d).lw = s.lw ∧
    (s.markLost e d).arr = s.arr ∧ (s.markLost e d).flash = s.flash ∧ (s.markLost e d).sm = s.sm ∧
    (s.markLost e d).mount = s.mount ∧ (s.markLost e d).sup = s.sup ∧ (s.markLost e d).dev = s.dev ∧
    (s.markLost e d).seeds = s.seeds ∧ (s.markLost e d).pending = s.pending := by
  simp only [State.markLost]; (repeat' split) <;> simp

@[simp] theorem State.sendReply_frame (e : TxFrame) (s : State) :
    (s.sendReply e).link.rx = s.link.rx ∧ (s.sendReply e).link.got = s.link.got ∧
    (s.sendReply e).link.gap = s.link.gap ∧ (s.sendReply e).link.rate = s.link.rate ∧ (s.sendReply e).req = s.req ∧
    (s.sendReply e).dir = s.dir ∧ (s.sendReply e).wq = s.wq ∧ (s.sendReply e).grp = s.grp ∧
    (s.sendReply e).lw = s.lw ∧ (s.sendReply e).arr = s.arr ∧ (s.sendReply e).flash = s.flash ∧
    (s.sendReply e).sm = s.sm ∧ (s.sendReply e).mount = s.mount ∧ (s.sendReply e).sup = s.sup ∧
    (s.sendReply e).dev.state = s.dev.state ∧ (s.sendReply e).dev.restartLatch = s.dev.restartLatch ∧
    (s.sendReply e).seeds = s.seeds ∧ (s.sendReply e).pending = s.pending := by
  simp only [State.sendReply]; (repeat' split) <;> simp

@[simp] theorem State.sendRetry_frame (f : Frame) (s : State) :
    (s.sendRetry f).link.rx = s.link.rx ∧ (s.sendRetry f).link.got = s.link.got ∧
    (s.sendRetry f).link.gap = s.link.gap ∧ (s.sendRetry f).link.rate = s.link.rate ∧ (s.sendRetry f).req = s.req ∧
    (s.sendRetry f).dir = s.dir ∧ (s.sendRetry f).wq = s.wq ∧ (s.sendRetry f).grp = s.grp ∧
    (s.sendRetry f).lw = s.lw ∧ (s.sendRetry f).arr = s.arr ∧ (s.sendRetry f).flash = s.flash ∧
    (s.sendRetry f).sm = s.sm ∧ (s.sendRetry f).mount = s.mount ∧ (s.sendRetry f).sup = s.sup ∧
    (s.sendRetry f).dev = s.dev ∧ (s.sendRetry f).seeds = s.seeds ∧ (s.sendRetry f).pending = s.pending := by
  simp only [State.sendRetry]; (repeat' split) <;> simp

@[simp] theorem State.waitFor_frame (tag : Byte) (why : WaitReason) (s : State) :
    (s.waitFor tag why).link = s.link ∧ (s.waitFor tag why).req.cache = s.req.cache ∧
    (s.waitFor tag why).req.session = s.req.session ∧ (s.waitFor tag why).dir = s.dir ∧
    (s.waitFor tag why).wq = s.wq ∧ (s.waitFor tag why).grp = s.grp ∧ (s.waitFor tag why).lw = s.lw ∧
    (s.waitFor tag why).arr = s.arr ∧ (s.waitFor tag why).flash = s.flash ∧ (s.waitFor tag why).sm = s.sm ∧
    (s.waitFor tag why).mount = s.mount ∧ (s.waitFor tag why).sup = s.sup ∧ (s.waitFor tag why).dev = s.dev ∧
    (s.waitFor tag why).seeds = s.seeds ∧ (s.waitFor tag why).pending = s.pending := by
  simp only [State.waitFor]; simp

@[simp] theorem State.tellPending_frame (tag : Byte) (s : State) :
    (s.tellPending tag).link.rx = s.link.rx ∧ (s.tellPending tag).link.got = s.link.got ∧
    (s.tellPending tag).link.gap = s.link.gap ∧ (s.tellPending tag).link.rate = s.link.rate ∧
    (s.tellPending tag).req.cache = s.req.cache ∧
    (s.tellPending tag).req.session = s.req.session ∧ (s.tellPending tag).dir = s.dir ∧
    (s.tellPending tag).wq = s.wq ∧ (s.tellPending tag).grp = s.grp ∧ (s.tellPending tag).lw = s.lw ∧
    (s.tellPending tag).arr = s.arr ∧ (s.tellPending tag).flash = s.flash ∧ (s.tellPending tag).sm = s.sm ∧
    (s.tellPending tag).mount = s.mount ∧ (s.tellPending tag).sup = s.sup ∧ (s.tellPending tag).dev = s.dev ∧
    (s.tellPending tag).seeds = s.seeds ∧ (s.tellPending tag).pending = s.pending := by
  simp only [State.tellPending]; (repeat' split) <;> simp

@[simp] theorem State.finish_frame (tag : Byte) (payload : List Byte) (restarts : Bool) (s : State) :
    (s.finish tag payload restarts).link.rx = s.link.rx ∧ (s.finish tag payload restarts).link.got = s.link.got ∧
    (s.finish tag payload restarts).link.gap = s.link.gap ∧
    (s.finish tag payload restarts).link.rate = s.link.rate ∧
    (s.finish tag payload restarts).req.session = s.req.session ∧ (s.finish tag payload restarts).dir = s.dir ∧
    (s.finish tag payload restarts).wq = s.wq ∧ (s.finish tag payload restarts).grp = s.grp ∧
    (s.finish tag payload restarts).lw = s.lw ∧ (s.finish tag payload restarts).arr = s.arr ∧
    (s.finish tag payload restarts).flash = s.flash ∧ (s.finish tag payload restarts).sm = s.sm ∧
    (s.finish tag payload restarts).mount = s.mount ∧ (s.finish tag payload restarts).sup = s.sup ∧
    (s.finish tag payload restarts).dev.state = s.dev.state ∧
    (s.finish tag payload restarts).dev.restartLatch = s.dev.restartLatch ∧
    (s.finish tag payload restarts).seeds = s.seeds ∧ (s.finish tag payload restarts).pending = s.pending := by
  simp only [State.finish]; (repeat' split) <;> simp

@[simp] theorem State.answer_frame (tag : Byte) (st : Status) (fields : List Byte) (s : State) :
    (s.answer tag st fields).link.rx = s.link.rx ∧ (s.answer tag st fields).link.got = s.link.got ∧
    (s.answer tag st fields).link.gap = s.link.gap ∧ (s.answer tag st fields).link.rate = s.link.rate ∧
    (s.answer tag st fields).req.session = s.req.session ∧ (s.answer tag st fields).dir = s.dir ∧
    (s.answer tag st fields).wq = s.wq ∧ (s.answer tag st fields).grp = s.grp ∧
    (s.answer tag st fields).lw = s.lw ∧ (s.answer tag st fields).arr = s.arr ∧
    (s.answer tag st fields).flash = s.flash ∧ (s.answer tag st fields).sm = s.sm ∧
    (s.answer tag st fields).mount = s.mount ∧ (s.answer tag st fields).sup = s.sup ∧
    (s.answer tag st fields).dev = s.dev ∧ (s.answer tag st fields).seeds = s.seeds ∧
    (s.answer tag st fields).pending = s.pending := by
  simp only [State.answer]; simp

@[simp] theorem State.answerUnslotted_frame (tag : Byte) (st : Status) (s : State) :
    (s.answerUnslotted tag st).link.rx = s.link.rx ∧ (s.answerUnslotted tag st).link.got = s.link.got ∧
    (s.answerUnslotted tag st).link.gap = s.link.gap ∧ (s.answerUnslotted tag st).link.rate = s.link.rate ∧
    (s.answerUnslotted tag st).req = s.req ∧ (s.answerUnslotted tag st).dir = s.dir ∧
    (s.answerUnslotted tag st).wq = s.wq ∧ (s.answerUnslotted tag st).grp = s.grp ∧
    (s.answerUnslotted tag st).lw = s.lw ∧ (s.answerUnslotted tag st).arr = s.arr ∧
    (s.answerUnslotted tag st).flash = s.flash ∧ (s.answerUnslotted tag st).sm = s.sm ∧
    (s.answerUnslotted tag st).mount = s.mount ∧ (s.answerUnslotted tag st).sup = s.sup ∧
    (s.answerUnslotted tag st).dev = s.dev ∧ (s.answerUnslotted tag st).seeds = s.seeds ∧
    (s.answerUnslotted tag st).pending = s.pending := by
  simp only [State.answerUnslotted]; simp

@[simp] theorem State.consultUpTo_frame (n : Nat) (s : State) :
    (s.consultUpTo n).link.rx = s.link.rx ∧ (s.consultUpTo n).link.got = s.link.got ∧
    (s.consultUpTo n).link.gap = s.link.gap ∧ (s.consultUpTo n).link.rate = s.link.rate ∧
    (s.consultUpTo n).req = s.req ∧ (s.consultUpTo n).dir = s.dir ∧ (s.consultUpTo n).wq = s.wq ∧
    (s.consultUpTo n).grp = s.grp ∧ (s.consultUpTo n).lw = s.lw ∧ (s.consultUpTo n).arr = s.arr ∧
    (s.consultUpTo n).flash = s.flash ∧ (s.consultUpTo n).sm = s.sm ∧ (s.consultUpTo n).mount = s.mount ∧
    (s.consultUpTo n).sup = s.sup ∧ (s.consultUpTo n).dev = s.dev ∧ (s.consultUpTo n).seeds = s.seeds ∧
    (s.consultUpTo n).pending = s.pending := by
  induction n generalizing s <;> simp only [State.consultUpTo] <;> (repeat' split) <;> simp [*]

@[simp] theorem State.consult_frame (s : State) :
    s.consult.link.rx = s.link.rx ∧ s.consult.link.got = s.link.got ∧ s.consult.link.gap = s.link.gap ∧
    s.consult.link.rate = s.link.rate ∧ s.consult.req = s.req ∧ s.consult.dir = s.dir ∧ s.consult.wq = s.wq ∧
    s.consult.grp = s.grp ∧ s.consult.lw = s.lw ∧ s.consult.arr = s.arr ∧ s.consult.flash = s.flash ∧
    s.consult.sm = s.sm ∧ s.consult.mount = s.mount ∧ s.consult.sup = s.sup ∧ s.consult.dev = s.dev ∧
    s.consult.seeds = s.seeds ∧ s.consult.pending = s.pending := by
  simp only [State.consult]; simp

@[simp] theorem State.startHoldTimer_frame (s : State) :
    s.startHoldTimer.link = s.link ∧ s.startHoldTimer.req = s.req ∧ s.startHoldTimer.dir = s.dir ∧
    s.startHoldTimer.wq = s.wq ∧ s.startHoldTimer.grp = s.grp ∧ s.startHoldTimer.lw = s.lw ∧
    s.startHoldTimer.arr = s.arr ∧ s.startHoldTimer.flash = s.flash ∧ s.startHoldTimer.sm = s.sm ∧
    s.startHoldTimer.mount = s.mount ∧ s.startHoldTimer.sup.condition = s.sup.condition ∧
    s.startHoldTimer.dev = s.dev ∧ s.startHoldTimer.seeds = s.seeds ∧ s.startHoldTimer.pending = s.pending := by
  simp only [State.startHoldTimer]; (repeat' split) <;> simp

@[simp] theorem State.stopHoldTimer_frame (s : State) :
    s.stopHoldTimer.link = s.link ∧ s.stopHoldTimer.req = s.req ∧ s.stopHoldTimer.dir = s.dir ∧
    s.stopHoldTimer.wq = s.wq ∧ s.stopHoldTimer.grp = s.grp ∧ s.stopHoldTimer.lw = s.lw ∧
    s.stopHoldTimer.arr = s.arr ∧ s.stopHoldTimer.flash = s.flash ∧ s.stopHoldTimer.sm = s.sm ∧
    s.stopHoldTimer.mount = s.mount ∧ s.stopHoldTimer.sup.condition = s.sup.condition ∧
    s.stopHoldTimer.dev = s.dev ∧ s.stopHoldTimer.seeds = s.seeds ∧ s.stopHoldTimer.pending = s.pending := by
  simp only [State.stopHoldTimer]; (repeat' split) <;> simp

@[simp] theorem State.dirTake_frame (k : Key) (kind : RecordKind) (seq valLen : Nat) (s : State) :
    (s.dirTake k kind seq valLen).link = s.link ∧ (s.dirTake k kind seq valLen).req = s.req ∧
    (s.dirTake k kind seq valLen).dir.limit = s.dir.limit ∧ (s.dirTake k kind seq valLen).wq = s.wq ∧
    (s.dirTake k kind seq valLen).grp = s.grp ∧ (s.dirTake k kind seq valLen).lw = s.lw ∧
    (s.dirTake k kind seq valLen).arr = s.arr ∧ (s.dirTake k kind seq valLen).flash = s.flash ∧
    (s.dirTake k kind seq valLen).sm = s.sm ∧ (s.dirTake k kind seq valLen).mount = s.mount ∧
    (s.dirTake k kind seq valLen).sup = s.sup ∧ (s.dirTake k kind seq valLen).dev = s.dev ∧
    (s.dirTake k kind seq valLen).seeds = s.seeds ∧ (s.dirTake k kind seq valLen).pending = s.pending := by
  simp only [State.dirTake]; simp

@[simp] theorem State.enqueue_frame (e : QueueEntry) (s : State) :
    (s.enqueue e).link = s.link ∧ (s.enqueue e).req = s.req ∧ (s.enqueue e).dir = s.dir ∧
    (s.enqueue e).wq.admission = s.wq.admission ∧ (s.enqueue e).wq.charged = s.wq.charged ∧
    (s.enqueue e).wq.frozen = s.wq.frozen ∧ (s.enqueue e).grp = s.grp ∧ (s.enqueue e).lw = s.lw ∧
    (s.enqueue e).arr = s.arr ∧ (s.enqueue e).flash = s.flash ∧ (s.enqueue e).sm = s.sm ∧
    (s.enqueue e).mount = s.mount ∧ (s.enqueue e).sup.condition = s.sup.condition ∧ (s.enqueue e).dev = s.dev ∧
    (s.enqueue e).seeds = s.seeds ∧ (s.enqueue e).pending = s.pending := by
  simp only [State.enqueue]; simp

@[simp] theorem State.admitLone_frame (tag : Byte) (deletes : Bool) (w : WriteFields) (s : State) :
    (s.admitLone tag deletes w).link.rx = s.link.rx ∧ (s.admitLone tag deletes w).link.got = s.link.got ∧
    (s.admitLone tag deletes w).link.gap = s.link.gap ∧ (s.admitLone tag deletes w).link.rate = s.link.rate ∧
    (s.admitLone tag deletes w).req.session = s.req.session ∧ (s.admitLone tag deletes w).dir.limit = s.dir.limit ∧
    (s.admitLone tag deletes w).wq.admission = s.wq.admission ∧
    (s.admitLone tag deletes w).wq.frozen = s.wq.frozen ∧ (s.admitLone tag deletes w).grp = s.grp ∧
    (s.admitLone tag deletes w).lw = s.lw ∧ (s.admitLone tag deletes w).arr = s.arr ∧
    (s.admitLone tag deletes w).flash = s.flash ∧ (s.admitLone tag deletes w).sm = s.sm ∧
    (s.admitLone tag deletes w).mount = s.mount ∧ (s.admitLone tag deletes w).sup.condition = s.sup.condition ∧
    (s.admitLone tag deletes w).dev = s.dev ∧ (s.admitLone tag deletes w).seeds = s.seeds ∧
    (s.admitLone tag deletes w).pending = s.pending := by
  simp only [State.admitLone]; (repeat' split) <;> simp

@[simp] theorem State.discardGroup_frame (s : State) :
    s.discardGroup.link.rx = s.link.rx ∧ s.discardGroup.link.got = s.link.got ∧
    s.discardGroup.link.gap = s.link.gap ∧ s.discardGroup.link.rate = s.link.rate ∧ s.discardGroup.req = s.req ∧
    s.discardGroup.dir.entries = s.dir.entries ∧ s.discardGroup.dir.limit = s.dir.limit ∧
    s.discardGroup.wq.entries = s.wq.entries ∧ s.discardGroup.wq.admission = s.wq.admission ∧
    s.discardGroup.wq.frozen = s.wq.frozen ∧ s.discardGroup.lw = s.lw ∧ s.discardGroup.arr = s.arr ∧
    s.discardGroup.flash = s.flash ∧ s.discardGroup.sm = s.sm ∧ s.discardGroup.mount = s.mount ∧
    s.discardGroup.sup = s.sup ∧ s.discardGroup.dev = s.dev ∧ s.discardGroup.seeds = s.seeds ∧
    s.discardGroup.pending = s.pending := by
  simp only [State.discardGroup]; (repeat' split) <;> simp

@[simp] theorem State.stageMember_frame (tag : Byte) (deletes : Bool) (w : WriteFields) (g : OpenGroup) (s : State) :
    (s.stageMember tag deletes w g).link.rx = s.link.rx ∧ (s.stageMember tag deletes w g).link.got = s.link.got ∧
    (s.stageMember tag deletes w g).link.gap = s.link.gap ∧
    (s.stageMember tag deletes w g).link.rate = s.link.rate ∧
    (s.stageMember tag deletes w g).req.session = s.req.session ∧
    (s.stageMember tag deletes w g).dir.entries = s.dir.entries ∧
    (s.stageMember tag deletes w g).dir.limit = s.dir.limit ∧
    (s.stageMember tag deletes w g).wq.entries = s.wq.entries ∧
    (s.stageMember tag deletes w g).wq.admission = s.wq.admission ∧
    (s.stageMember tag deletes w g).wq.frozen = s.wq.frozen ∧ (s.stageMember tag deletes w g).lw = s.lw ∧
    (s.stageMember tag deletes w g).arr = s.arr ∧ (s.stageMember tag deletes w g).flash = s.flash ∧
    (s.stageMember tag deletes w g).sm = s.sm ∧ (s.stageMember tag deletes w g).mount = s.mount ∧
    (s.stageMember tag deletes w g).sup = s.sup ∧ (s.stageMember tag deletes w g).dev = s.dev ∧
    (s.stageMember tag deletes w g).seeds = s.seeds ∧ (s.stageMember tag deletes w g).pending = s.pending := by
  simp only [State.stageMember]; simp

@[simp] theorem State.admitMembers_frame (gid : Nat) (tag : Byte) (l : List Member) (seq : Nat) (s : State) :
    (s.admitMembers gid tag l seq).link = s.link ∧ (s.admitMembers gid tag l seq).req = s.req ∧
    (s.admitMembers gid tag l seq).dir.limit = s.dir.limit ∧
    (s.admitMembers gid tag l seq).wq.admission = s.wq.admission ∧
    (s.admitMembers gid tag l seq).wq.charged = s.wq.charged ∧
    (s.admitMembers gid tag l seq).wq.frozen = s.wq.frozen ∧ (s.admitMembers gid tag l seq).grp = s.grp ∧
    (s.admitMembers gid tag l seq).lw = s.lw ∧ (s.admitMembers gid tag l seq).arr = s.arr ∧
    (s.admitMembers gid tag l seq).flash = s.flash ∧ (s.admitMembers gid tag l seq).sm = s.sm ∧
    (s.admitMembers gid tag l seq).mount = s.mount ∧
    (s.admitMembers gid tag l seq).sup.condition = s.sup.condition ∧ (s.admitMembers gid tag l seq).dev = s.dev ∧
    (s.admitMembers gid tag l seq).seeds = s.seeds ∧ (s.admitMembers gid tag l seq).pending = s.pending := by
  induction l generalizing seq s <;> simp only [State.admitMembers] <;> (repeat' split) <;> simp [*]

@[simp] theorem State.admitGroup_frame (tag : Byte) (g : OpenGroup) (s : State) :
    (s.admitGroup tag g).link.rx = s.link.rx ∧ (s.admitGroup tag g).link.got = s.link.got ∧
    (s.admitGroup tag g).link.gap = s.link.gap ∧ (s.admitGroup tag g).link.rate = s.link.rate ∧
    (s.admitGroup tag g).req.session = s.req.session ∧ (s.admitGroup tag g).dir.limit = s.dir.limit ∧
    (s.admitGroup tag g).wq.admission = s.wq.admission ∧ (s.admitGroup tag g).wq.charged = s.wq.charged ∧
    (s.admitGroup tag g).wq.frozen = s.wq.frozen ∧ (s.admitGroup tag g).lw = s.lw ∧
    (s.admitGroup tag g).arr = s.arr ∧ (s.admitGroup tag g).flash = s.flash ∧ (s.admitGroup tag g).sm = s.sm ∧
    (s.admitGroup tag g).mount = s.mount ∧ (s.admitGroup tag g).sup.condition = s.sup.condition ∧
    (s.admitGroup tag g).dev = s.dev ∧ (s.admitGroup tag g).seeds = s.seeds ∧
    (s.admitGroup tag g).pending = s.pending := by
  simp only [State.admitGroup]; (repeat' split) <;> simp

@[simp] theorem State.admitFence_frame (tag : Byte) (s : State) :
    (s.admitFence tag).link.rx = s.link.rx ∧ (s.admitFence tag).link.got = s.link.got ∧
    (s.admitFence tag).link.gap = s.link.gap ∧ (s.admitFence tag).link.rate = s.link.rate ∧
    (s.admitFence tag).req.session = s.req.session ∧ (s.admitFence tag).dir = s.dir ∧
    (s.admitFence tag).wq.entries = s.wq.entries ∧ (s.admitFence tag).wq.admission = s.wq.admission ∧
    (s.admitFence tag).wq.charged = s.wq.charged ∧ (s.admitFence tag).wq.frozen = s.wq.frozen ∧
    (s.admitFence tag).grp = s.grp ∧ (s.admitFence tag).lw = s.lw ∧ (s.admitFence tag).arr = s.arr ∧
    (s.admitFence tag).flash = s.flash ∧ (s.admitFence tag).sm = s.sm ∧ (s.admitFence tag).mount = s.mount ∧
    (s.admitFence tag).sup = s.sup ∧ (s.admitFence tag).dev = s.dev ∧ (s.admitFence tag).seeds = s.seeds ∧
    (s.admitFence tag).pending = s.pending := by
  simp only [State.admitFence]; (repeat' split) <;> simp

@[simp] theorem State.refuse_frame (tag : Byte) (st : Status) (fields : List Byte) (s : State) :
    (s.refuse tag st fields).state.link.rx = s.link.rx ∧ (s.refuse tag st fields).state.link.got = s.link.got ∧
    (s.refuse tag st fields).state.link.gap = s.link.gap ∧ (s.refuse tag st fields).state.link.rate = s.link.rate ∧
    (s.refuse tag st fields).state.req.session = s.req.session ∧ (s.refuse tag st fields).state.dir = s.dir ∧
    (s.refuse tag st fields).state.wq.entries = s.wq.entries ∧
    (s.refuse tag st fields).state.wq.charged = s.wq.charged ∧
    (s.refuse tag st fields).state.wq.frozen = s.wq.frozen ∧ (s.refuse tag st fields).state.grp = s.grp ∧
    (s.refuse tag st fields).state.lw = s.lw ∧ (s.refuse tag st fields).state.arr = s.arr ∧
    (s.refuse tag st fields).state.flash = s.flash ∧ (s.refuse tag st fields).state.sm = s.sm ∧
    (s.refuse tag st fields).state.mount = s.mount ∧ (s.refuse tag st fields).state.sup = s.sup ∧
    (s.refuse tag st fields).state.dev = s.dev ∧ (s.refuse tag st fields).state.seeds = s.seeds ∧
    (s.refuse tag st fields).state.pending = s.pending := by
  simp only [State.refuse]; simp

@[simp] theorem State.considerLone_frame (tag : Byte) (deletes : Bool) (w : WriteFields) (s : State) :
    (s.considerLone tag deletes w).state.link.rx = s.link.rx ∧
    (s.considerLone tag deletes w).state.link.got = s.link.got ∧
    (s.considerLone tag deletes w).state.link.gap = s.link.gap ∧
    (s.considerLone tag deletes w).state.link.rate = s.link.rate ∧
    (s.considerLone tag deletes w).state.req.session = s.req.session ∧
    (s.considerLone tag deletes w).state.dir.limit = s.dir.limit ∧
    (s.considerLone tag deletes w).state.wq.frozen = s.wq.frozen ∧
    (s.considerLone tag deletes w).state.grp = s.grp ∧ (s.considerLone tag deletes w).state.lw = s.lw ∧
    (s.considerLone tag deletes w).state.arr = s.arr ∧ (s.considerLone tag deletes w).state.flash = s.flash ∧
    (s.considerLone tag deletes w).state.sm = s.sm ∧ (s.considerLone tag deletes w).state.mount = s.mount ∧
    (s.considerLone tag deletes w).state.sup.condition = s.sup.condition ∧
    (s.considerLone tag deletes w).state.dev = s.dev ∧ (s.considerLone tag deletes w).state.seeds = s.seeds ∧
    (s.considerLone tag deletes w).state.pending = s.pending := by
  simp only [State.considerLone]; (repeat' split) <;> simp

@[simp] theorem State.considerMember_frame (tag : Byte) (deletes : Bool) (w : WriteFields) (bound : Option Nat) (s : State) :
    (s.considerMember tag deletes w bound).state.link.rx = s.link.rx ∧
    (s.considerMember tag deletes w bound).state.link.got = s.link.got ∧
    (s.considerMember tag deletes w bound).state.link.gap = s.link.gap ∧
    (s.considerMember tag deletes w bound).state.link.rate = s.link.rate ∧
    (s.considerMember tag deletes w bound).state.req.session = s.req.session ∧
    (s.considerMember tag deletes w bound).state.dir.entries = s.dir.entries ∧
    (s.considerMember tag deletes w bound).state.dir.limit = s.dir.limit ∧
    (s.considerMember tag deletes w bound).state.wq.entries = s.wq.entries ∧
    (s.considerMember tag deletes w bound).state.wq.frozen = s.wq.frozen ∧
    (s.considerMember tag deletes w bound).state.lw = s.lw ∧
    (s.considerMember tag deletes w bound).state.arr = s.arr ∧
    (s.considerMember tag deletes w bound).state.flash = s.flash ∧
    (s.considerMember tag deletes w bound).state.sm = s.sm ∧
    (s.considerMember tag deletes w bound).state.mount = s.mount ∧
    (s.considerMember tag deletes w bound).state.sup = s.sup ∧
    (s.considerMember tag deletes w bound).state.dev = s.dev ∧
    (s.considerMember tag deletes w bound).state.seeds = s.seeds ∧
    (s.considerMember tag deletes w bound).state.pending = s.pending := by
  simp only [State.considerMember]; (repeat' split) <;> simp

@[simp] theorem State.refuseCommit_frame (tag : Byte) (st : Status) (fields : List Byte) (s : State) :
    (s.refuseCommit tag st fields).state.link.rx = s.link.rx ∧
    (s.refuseCommit tag st fields).state.link.got = s.link.got ∧
    (s.refuseCommit tag st fields).state.link.gap = s.link.gap ∧
    (s.refuseCommit tag st fields).state.link.rate = s.link.rate ∧
    (s.refuseCommit tag st fields).state.req.session = s.req.session ∧
    (s.refuseCommit tag st fields).state.dir.entries = s.dir.entries ∧
    (s.refuseCommit tag st fields).state.dir.limit = s.dir.limit ∧
    (s.refuseCommit tag st fields).state.wq.entries = s.wq.entries ∧
    (s.refuseCommit tag st fields).state.wq.frozen = s.wq.frozen ∧ (s.refuseCommit tag st fields).state.lw = s.lw ∧
    (s.refuseCommit tag st fields).state.arr = s.arr ∧ (s.refuseCommit tag st fields).state.flash = s.flash ∧
    (s.refuseCommit tag st fields).state.sm = s.sm ∧ (s.refuseCommit tag st fields).state.mount = s.mount ∧
    (s.refuseCommit tag st fields).state.sup = s.sup ∧ (s.refuseCommit tag st fields).state.dev = s.dev ∧
    (s.refuseCommit tag st fields).state.seeds = s.seeds ∧ (s.refuseCommit tag st fields).state.pending = s.pending := by
  simp only [State.refuseCommit]; simp

@[simp] theorem State.considerCommit_frame (tag : Byte) (bound : Option Nat) (s : State) :
    (s.considerCommit tag bound).state.link.rx = s.link.rx ∧
    (s.considerCommit tag bound).state.link.got = s.link.got ∧
    (s.considerCommit tag bound).state.link.gap = s.link.gap ∧
    (s.considerCommit tag bound).state.link.rate = s.link.rate ∧
    (s.considerCommit tag bound).state.req.session = s.req.session ∧
    (s.considerCommit tag bound).state.dir.limit = s.dir.limit ∧
    (s.considerCommit tag bound).state.wq.frozen = s.wq.frozen ∧ (s.considerCommit tag bound).state.lw = s.lw ∧
    (s.considerCommit tag bound).state.arr = s.arr ∧ (s.considerCommit tag bound).state.flash = s.flash ∧
    (s.considerCommit tag bound).state.sm = s.sm ∧ (s.considerCommit tag bound).state.mount = s.mount ∧
    (s.considerCommit tag bound).state.sup.condition = s.sup.condition ∧
    (s.considerCommit tag bound).state.dev = s.dev ∧ (s.considerCommit tag bound).state.seeds = s.seeds ∧
    (s.considerCommit tag bound).state.pending = s.pending := by
  simp only [State.considerCommit]; (repeat' split) <;> simp

@[simp] theorem State.refuseCommitGate_frame (tag : Byte) (st : Status) (bound : Option Nat) (s : State) :
    (s.refuseCommitGate tag st bound).state.link.rx = s.link.rx ∧
    (s.refuseCommitGate tag st bound).state.link.got = s.link.got ∧
    (s.refuseCommitGate tag st bound).state.link.gap = s.link.gap ∧
    (s.refuseCommitGate tag st bound).state.link.rate = s.link.rate ∧
    (s.refuseCommitGate tag st bound).state.req.session = s.req.session ∧
    (s.refuseCommitGate tag st bound).state.dir.entries = s.dir.entries ∧
    (s.refuseCommitGate tag st bound).state.dir.limit = s.dir.limit ∧
    (s.refuseCommitGate tag st bound).state.wq.entries = s.wq.entries ∧
    (s.refuseCommitGate tag st bound).state.wq.frozen = s.wq.frozen ∧
    (s.refuseCommitGate tag st bound).state.lw = s.lw ∧ (s.refuseCommitGate tag st bound).state.arr = s.arr ∧
    (s.refuseCommitGate tag st bound).state.flash = s.flash ∧ (s.refuseCommitGate tag st bound).state.sm = s.sm ∧
    (s.refuseCommitGate tag st bound).state.mount = s.mount ∧ (s.refuseCommitGate tag st bound).state.sup = s.sup ∧
    (s.refuseCommitGate tag st bound).state.dev = s.dev ∧ (s.refuseCommitGate tag st bound).state.seeds = s.seeds ∧
    (s.refuseCommitGate tag st bound).state.pending = s.pending := by
  simp only [State.refuseCommitGate]; (repeat' split) <;> simp

@[simp] theorem State.considerHead_frame (sl : Slot) (s : State) :
    (s.considerHead sl).state.link.rx = s.link.rx ∧ (s.considerHead sl).state.link.got = s.link.got ∧
    (s.considerHead sl).state.link.gap = s.link.gap ∧ (s.considerHead sl).state.link.rate = s.link.rate ∧
    (s.considerHead sl).state.req.session = s.req.session ∧ (s.considerHead sl).state.dir.limit = s.dir.limit ∧
    (s.considerHead sl).state.wq.frozen = s.wq.frozen ∧ (s.considerHead sl).state.lw = s.lw ∧
    (s.considerHead sl).state.arr = s.arr ∧ (s.considerHead sl).state.flash = s.flash ∧
    (s.considerHead sl).state.sm = s.sm ∧ (s.considerHead sl).state.mount = s.mount ∧
    (s.considerHead sl).state.sup.condition = s.sup.condition ∧ (s.considerHead sl).state.dev = s.dev ∧
    (s.considerHead sl).state.seeds = s.seeds ∧ (s.considerHead sl).state.pending = s.pending := by
  simp only [State.considerHead]; (repeat' split) <;> simp

@[simp] theorem State.answerFences_frame (st : FenceWaiter → Status) (l : List FenceWaiter) (s : State) :
    (s.answerFences st l).link.rx = s.link.rx ∧ (s.answerFences st l).link.got = s.link.got ∧
    (s.answerFences st l).link.gap = s.link.gap ∧ (s.answerFences st l).link.rate = s.link.rate ∧
    (s.answerFences st l).req.session = s.req.session ∧ (s.answerFences st l).dir = s.dir ∧
    (s.answerFences st l).wq = s.wq ∧ (s.answerFences st l).grp = s.grp ∧ (s.answerFences st l).lw = s.lw ∧
    (s.answerFences st l).arr = s.arr ∧ (s.answerFences st l).flash = s.flash ∧ (s.answerFences st l).sm = s.sm ∧
    (s.answerFences st l).mount = s.mount ∧ (s.answerFences st l).sup = s.sup ∧ (s.answerFences st l).dev = s.dev ∧
    (s.answerFences st l).seeds = s.seeds ∧ (s.answerFences st l).pending = s.pending := by
  induction l generalizing s <;> simp only [State.answerFences] <;> simp [*]

@[simp] theorem State.completeFences_frame (s : State) :
    s.completeFences.link.rx = s.link.rx ∧ s.completeFences.link.got = s.link.got ∧
    s.completeFences.link.gap = s.link.gap ∧ s.completeFences.link.rate = s.link.rate ∧
    s.completeFences.req.session = s.req.session ∧ s.completeFences.dir = s.dir ∧
    s.completeFences.wq.entries = s.wq.entries ∧ s.completeFences.wq.admission = s.wq.admission ∧
    s.completeFences.wq.charged = s.wq.charged ∧ s.completeFences.wq.frozen = s.wq.frozen ∧
    s.completeFences.grp = s.grp ∧ s.completeFences.lw = s.lw ∧ s.completeFences.arr = s.arr ∧
    s.completeFences.flash = s.flash ∧ s.completeFences.sm = s.sm ∧ s.completeFences.mount = s.mount ∧
    s.completeFences.sup = s.sup ∧ s.completeFences.dev = s.dev ∧ s.completeFences.seeds = s.seeds ∧
    s.completeFences.pending = s.pending := by
  simp only [State.completeFences]; simp

@[simp] theorem State.frontDurable_frame (sector offset : Nat) (s : State) :
    (s.frontDurable sector offset).link.rx = s.link.rx ∧ (s.frontDurable sector offset).link.got = s.link.got ∧
    (s.frontDurable sector offset).link.gap = s.link.gap ∧ (s.frontDurable sector offset).link.rate = s.link.rate ∧
    (s.frontDurable sector offset).req = s.req ∧ (s.frontDurable sector offset).dir.limit = s.dir.limit ∧
    (s.frontDurable sector offset).wq.admission = s.wq.admission ∧
    (s.frontDurable sector offset).wq.frozen = s.wq.frozen ∧ (s.frontDurable sector offset).grp = s.grp ∧
    (s.frontDurable sector offset).lw = s.lw ∧ (s.frontDurable sector offset).arr = s.arr ∧
    (s.frontDurable sector offset).flash = s.flash ∧ (s.frontDurable sector offset).sm.wearDue = s.sm.wearDue ∧
    (s.frontDurable sector offset).sm.epoch = s.sm.epoch ∧ (s.frontDurable sector offset).mount = s.mount ∧
    (s.frontDurable sector offset).sup = s.sup ∧ (s.frontDurable sector offset).dev = s.dev ∧
    (s.frontDurable sector offset).seeds = s.seeds ∧ (s.frontDurable sector offset).pending = s.pending := by
  simp only [State.frontDurable]; (repeat' split) <;> simp

@[simp] theorem State.durableReply_frame (e : QueueEntry) (first count : Nat) (s : State) :
    (s.durableReply e first count).link.rx = s.link.rx ∧ (s.durableReply e first count).link.got = s.link.got ∧
    (s.durableReply e first count).link.gap = s.link.gap ∧ (s.durableReply e first count).link.rate = s.link.rate ∧
    (s.durableReply e first count).req.session = s.req.session ∧ (s.durableReply e first count).dir = s.dir ∧
    (s.durableReply e first count).wq = s.wq ∧ (s.durableReply e first count).grp = s.grp ∧
    (s.durableReply e first count).lw = s.lw ∧ (s.durableReply e first count).arr = s.arr ∧
    (s.durableReply e first count).flash = s.flash ∧ (s.durableReply e first count).sm = s.sm ∧
    (s.durableReply e first count).mount = s.mount ∧ (s.durableReply e first count).sup = s.sup ∧
    (s.durableReply e first count).dev = s.dev ∧ (s.durableReply e first count).seeds = s.seeds ∧
    (s.durableReply e first count).pending = s.pending := by
  simp only [State.durableReply]; (repeat' split) <;> simp

@[simp] theorem State.revertKey_frame (k : Key) (recLen : Nat) (rest : List QueueEntry) (s : State) :
    (s.revertKey k recLen rest).link.rx = s.link.rx ∧ (s.revertKey k recLen rest).link.got = s.link.got ∧
    (s.revertKey k recLen rest).link.gap = s.link.gap ∧ (s.revertKey k recLen rest).link.rate = s.link.rate ∧
    (s.revertKey k recLen rest).req = s.req ∧ (s.revertKey k recLen rest).dir.limit = s.dir.limit ∧
    (s.revertKey k recLen rest).wq = s.wq ∧ (s.revertKey k recLen rest).grp = s.grp ∧
    (s.revertKey k recLen rest).lw = s.lw ∧ (s.revertKey k recLen rest).arr = s.arr ∧
    (s.revertKey k recLen rest).flash = s.flash ∧ (s.revertKey k recLen rest).sm = s.sm ∧
    (s.revertKey k recLen rest).mount = s.mount ∧ (s.revertKey k recLen rest).sup = s.sup ∧
    (s.revertKey k recLen rest).dev = s.dev ∧ (s.revertKey k recLen rest).seeds = s.seeds ∧
    (s.revertKey k recLen rest).pending = s.pending := by
  simp only [State.revertKey]; (repeat' split) <;> simp

@[simp] theorem State.runDurable_frame (sector : Nat) (l : List Nat) (s : State) :
    (s.runDurable sector l).link.rx = s.link.rx ∧ (s.runDurable sector l).link.got = s.link.got ∧
    (s.runDurable sector l).link.gap = s.link.gap ∧ (s.runDurable sector l).link.rate = s.link.rate ∧
    (s.runDurable sector l).req = s.req ∧ (s.runDurable sector l).dir.limit = s.dir.limit ∧
    (s.runDurable sector l).wq.admission = s.wq.admission ∧ (s.runDurable sector l).wq.frozen = s.wq.frozen ∧
    (s.runDurable sector l).grp = s.grp ∧ (s.runDurable sector l).lw = s.lw ∧ (s.runDurable sector l).arr = s.arr ∧
    (s.runDurable sector l).flash = s.flash ∧ (s.runDurable sector l).sm.wearDue = s.sm.wearDue ∧
    (s.runDurable sector l).sm.epoch = s.sm.epoch ∧ (s.runDurable sector l).mount = s.mount ∧
    (s.runDurable sector l).sup = s.sup ∧ (s.runDurable sector l).dev = s.dev ∧
    (s.runDurable sector l).seeds = s.seeds ∧ (s.runDurable sector l).pending = s.pending := by
  induction l generalizing s <;> simp only [State.runDurable] <;> simp [*]

@[simp] theorem State.failEntries_frame (st : Status) (l : List QueueEntry) (s : State) :
    (s.failEntries st l).link.rx = s.link.rx ∧ (s.failEntries st l).link.got = s.link.got ∧
    (s.failEntries st l).link.gap = s.link.gap ∧ (s.failEntries st l).link.rate = s.link.rate ∧
    (s.failEntries st l).req.session = s.req.session ∧ (s.failEntries st l).dir.limit = s.dir.limit ∧
    (s.failEntries st l).wq.admission = s.wq.admission ∧ (s.failEntries st l).wq.frozen = s.wq.frozen ∧
    (s.failEntries st l).grp = s.grp ∧ (s.failEntries st l).lw = s.lw ∧ (s.failEntries st l).arr = s.arr ∧
    (s.failEntries st l).flash = s.flash ∧ (s.failEntries st l).sm = s.sm ∧ (s.failEntries st l).mount = s.mount ∧
    (s.failEntries st l).sup = s.sup ∧ (s.failEntries st l).dev = s.dev ∧ (s.failEntries st l).seeds = s.seeds ∧
    (s.failEntries st l).pending = s.pending := by
  induction l generalizing s <;> simp only [State.failEntries] <;> (repeat' split) <;> simp [*]

@[simp] theorem State.failQueue_frame (st : Status) (s : State) :
    (s.failQueue st).link.rx = s.link.rx ∧ (s.failQueue st).link.got = s.link.got ∧
    (s.failQueue st).link.gap = s.link.gap ∧ (s.failQueue st).link.rate = s.link.rate ∧
    (s.failQueue st).req.session = s.req.session ∧ (s.failQueue st).dir.limit = s.dir.limit ∧
    (s.failQueue st).wq.admission = s.wq.admission ∧ (s.failQueue st).wq.frozen = s.wq.frozen ∧
    (s.failQueue st).grp = s.grp ∧ (s.failQueue st).lw = s.lw ∧ (s.failQueue st).arr = s.arr ∧
    (s.failQueue st).flash = s.flash ∧ (s.failQueue st).sm = s.sm ∧ (s.failQueue st).mount = s.mount ∧
    (s.failQueue st).sup.condition = s.sup.condition ∧ (s.failQueue st).dev = s.dev ∧
    (s.failQueue st).seeds = s.seeds ∧ (s.failQueue st).pending = s.pending := by
  simp only [State.failQueue]; simp

@[simp] theorem State.offerHost_frame (s : State) :
    s.offerHost.link = s.link ∧ s.offerHost.req = s.req ∧ s.offerHost.dir = s.dir ∧ s.offerHost.wq = s.wq ∧
    s.offerHost.grp = s.grp ∧ s.offerHost.lw.openAt = s.lw.openAt ∧ s.offerHost.arr = s.arr ∧
    s.offerHost.flash = s.flash ∧ s.offerHost.sm = s.sm ∧ s.offerHost.mount = s.mount ∧ s.offerHost.sup = s.sup ∧
    s.offerHost.dev = s.dev ∧ s.offerHost.seeds = s.seeds ∧ s.offerHost.pending = s.pending := by
  simp only [State.offerHost]; (repeat' split) <;> simp

@[simp] theorem State.judgeLatch_frame (s : State) :
    s.judgeLatch.link = s.link ∧ s.judgeLatch.req = s.req ∧ s.judgeLatch.dir = s.dir ∧ s.judgeLatch.wq = s.wq ∧
    s.judgeLatch.grp = s.grp ∧ s.judgeLatch.lw = s.lw ∧ s.judgeLatch.arr = s.arr ∧ s.judgeLatch.flash = s.flash ∧
    s.judgeLatch.sm.table = s.sm.table ∧ s.judgeLatch.sm.wearDue = s.sm.wearDue ∧ s.judgeLatch.sm.epoch = s.sm.epoch ∧
    s.judgeLatch.mount = s.mount ∧ s.judgeLatch.sup = s.sup ∧ s.judgeLatch.dev = s.dev ∧ s.judgeLatch.seeds = s.seeds ∧
    s.judgeLatch.pending = s.pending := by
  simp only [State.judgeLatch]; (repeat' split) <;> simp

@[simp] theorem State.evalLatch_frame (s : State) :
    s.evalLatch.link = s.link ∧ s.evalLatch.req = s.req ∧ s.evalLatch.dir = s.dir ∧ s.evalLatch.wq = s.wq ∧
    s.evalLatch.grp = s.grp ∧ s.evalLatch.lw = s.lw ∧ s.evalLatch.arr = s.arr ∧ s.evalLatch.flash = s.flash ∧
    s.evalLatch.sm.table = s.sm.table ∧ s.evalLatch.sm.wearDue = s.sm.wearDue ∧ s.evalLatch.sm.epoch = s.sm.epoch ∧
    s.evalLatch.mount = s.mount ∧ s.evalLatch.sup = s.sup ∧ s.evalLatch.dev = s.dev ∧ s.evalLatch.seeds = s.seeds ∧
    s.evalLatch.pending = s.pending := by
  simp only [State.evalLatch]; (repeat' split) <;> simp

@[simp] theorem State.walkAt_frame (w : Walk) (offset : Nat) (s : State) :
    (s.walkAt w offset).link = s.link ∧ (s.walkAt w offset).req = s.req ∧ (s.walkAt w offset).dir = s.dir ∧
    (s.walkAt w offset).wq = s.wq ∧ (s.walkAt w offset).grp = s.grp ∧ (s.walkAt w offset).lw = s.lw ∧
    (s.walkAt w offset).arr.op = s.arr.op ∧ (s.walkAt w offset).arr.erase = s.arr.erase ∧
    (s.walkAt w offset).flash = s.flash ∧ (s.walkAt w offset).sm.table = s.sm.table ∧
    (s.walkAt w offset).sm.wearDue = s.sm.wearDue ∧ (s.walkAt w offset).sm.epoch = s.sm.epoch ∧
    (s.walkAt w offset).mount = s.mount ∧ (s.walkAt w offset).sup = s.sup ∧ (s.walkAt w offset).dev = s.dev ∧
    (s.walkAt w offset).seeds = s.seeds ∧ (s.walkAt w offset).pending = s.pending := by
  simp only [State.walkAt]; simp

@[simp] theorem State.startWalk_frame (victim : Nat) (s : State) :
    (s.startWalk victim).link = s.link ∧ (s.startWalk victim).req = s.req ∧ (s.startWalk victim).dir = s.dir ∧
    (s.startWalk victim).wq = s.wq ∧ (s.startWalk victim).grp = s.grp ∧ (s.startWalk victim).lw = s.lw ∧
    (s.startWalk victim).arr.op = s.arr.op ∧ (s.startWalk victim).arr.erase = s.arr.erase ∧
    (s.startWalk victim).flash = s.flash ∧ (s.startWalk victim).sm.wearDue = s.sm.wearDue ∧
    (s.startWalk victim).sm.epoch = s.sm.epoch ∧ (s.startWalk victim).mount = s.mount ∧
    (s.startWalk victim).sup = s.sup ∧ (s.startWalk victim).dev = s.dev ∧ (s.startWalk victim).seeds = s.seeds ∧
    (s.startWalk victim).pending = s.pending := by
  simp only [State.startWalk]; simp

@[simp] theorem State.chooseVictim_frame (s : State) :
    s.chooseVictim.link = s.link ∧ s.chooseVictim.req = s.req ∧ s.chooseVictim.dir = s.dir ∧
    s.chooseVictim.wq = s.wq ∧ s.chooseVictim.grp = s.grp ∧ s.chooseVictim.lw = s.lw ∧
    s.chooseVictim.arr.op = s.arr.op ∧ s.chooseVictim.arr.erase = s.arr.erase ∧ s.chooseVictim.flash = s.flash ∧
    s.chooseVictim.sm.wearDue = s.sm.wearDue ∧ s.chooseVictim.sm.epoch = s.sm.epoch ∧
    s.chooseVictim.mount = s.mount ∧ s.chooseVictim.sup = s.sup ∧ s.chooseVictim.dev = s.dev ∧
    s.chooseVictim.seeds = s.seeds ∧ s.chooseVictim.pending = s.pending := by
  simp only [State.chooseVictim]; (repeat' split) <;> simp

@[simp] theorem State.drain_frame (w : Walk) (s : State) :
    (s.drain w).link = s.link ∧ (s.drain w).req = s.req ∧ (s.drain w).dir = s.dir ∧ (s.drain w).wq = s.wq ∧
    (s.drain w).grp = s.grp ∧ (s.drain w).lw = s.lw ∧ (s.drain w).arr = s.arr ∧ (s.drain w).flash = s.flash ∧
    (s.drain w).sm.wearDue = s.sm.wearDue ∧ (s.drain w).sm.epoch = s.sm.epoch ∧ (s.drain w).mount = s.mount ∧
    (s.drain w).sup = s.sup ∧ (s.drain w).dev = s.dev ∧ (s.drain w).seeds = s.seeds ∧
    (s.drain w).pending = s.pending := by
  simp only [State.drain]; (repeat' split) <;> simp

@[simp] theorem State.sweepFrom_frame (w : Walk) (bound : Nat) (s : State) :
    (s.sweepFrom w bound).link = s.link ∧ (s.sweepFrom w bound).req = s.req ∧ (s.sweepFrom w bound).dir = s.dir ∧
    (s.sweepFrom w bound).wq = s.wq ∧ (s.sweepFrom w bound).grp = s.grp ∧ (s.sweepFrom w bound).lw = s.lw ∧
    (s.sweepFrom w bound).arr.op = s.arr.op ∧ (s.sweepFrom w bound).arr.erase = s.arr.erase ∧
    (s.sweepFrom w bound).flash = s.flash ∧ (s.sweepFrom w bound).sm.wearDue = s.sm.wearDue ∧
    (s.sweepFrom w bound).sm.epoch = s.sm.epoch ∧ (s.sweepFrom w bound).mount = s.mount ∧
    (s.sweepFrom w bound).sup = s.sup ∧ (s.sweepFrom w bound).dev = s.dev ∧ (s.sweepFrom w bound).seeds = s.seeds ∧
    (s.sweepFrom w bound).pending = s.pending := by
  simp only [State.sweepFrom]; (repeat' split) <;> simp

@[simp] theorem State.walkOn_frame (w : Walk) (next : Nat) (s : State) :
    (s.walkOn w next).link = s.link ∧ (s.walkOn w next).req = s.req ∧ (s.walkOn w next).dir = s.dir ∧
    (s.walkOn w next).wq = s.wq ∧ (s.walkOn w next).grp = s.grp ∧ (s.walkOn w next).lw = s.lw ∧
    (s.walkOn w next).arr.op = s.arr.op ∧ (s.walkOn w next).arr.erase = s.arr.erase ∧
    (s.walkOn w next).flash = s.flash ∧ (s.walkOn w next).sm.wearDue = s.sm.wearDue ∧
    (s.walkOn w next).sm.epoch = s.sm.epoch ∧ (s.walkOn w next).mount = s.mount ∧ (s.walkOn w next).sup = s.sup ∧
    (s.walkOn w next).dev = s.dev ∧ (s.walkOn w next).seeds = s.seeds ∧ (s.walkOn w next).pending = s.pending := by
  simp only [State.walkOn]; (repeat' split) <;> simp

@[simp] theorem State.handCopy_frame (w : Walk) (r : Record) (next : Nat) (s : State) :
    (s.handCopy w r next).link = s.link ∧ (s.handCopy w r next).req = s.req ∧ (s.handCopy w r next).dir = s.dir ∧
    (s.handCopy w r next).wq = s.wq ∧ (s.handCopy w r next).grp = s.grp ∧
    (s.handCopy w r next).lw.openAt = s.lw.openAt ∧ (s.handCopy w r next).arr = s.arr ∧
    (s.handCopy w r next).flash = s.flash ∧ (s.handCopy w r next).sm.table = s.sm.table ∧
    (s.handCopy w r next).sm.wearDue = s.sm.wearDue ∧ (s.handCopy w r next).sm.epoch = s.sm.epoch ∧
    (s.handCopy w r next).mount = s.mount ∧ (s.handCopy w r next).sup = s.sup ∧ (s.handCopy w r next).dev = s.dev ∧
    (s.handCopy w r next).seeds = s.seeds ∧ (s.handCopy w r next).pending = s.pending := by
  simp only [State.handCopy]; simp

@[simp] theorem State.decideValid_frame (w : Walk) (r : Record) (s : State) :
    (s.decideValid w r).link.rx = s.link.rx ∧ (s.decideValid w r).link.got = s.link.got ∧
    (s.decideValid w r).link.gap = s.link.gap ∧ (s.decideValid w r).link.rate = s.link.rate ∧
    (s.decideValid w r).req = s.req ∧ (s.decideValid w r).dir.limit = s.dir.limit ∧ (s.decideValid w r).wq = s.wq ∧
    (s.decideValid w r).grp = s.grp ∧ (s.decideValid w r).lw.openAt = s.lw.openAt ∧
    (s.decideValid w r).arr.op = s.arr.op ∧ (s.decideValid w r).arr.erase = s.arr.erase ∧
    (s.decideValid w r).flash = s.flash ∧ (s.decideValid w r).sm.wearDue = s.sm.wearDue ∧
    (s.decideValid w r).sm.epoch = s.sm.epoch ∧ (s.decideValid w r).mount = s.mount ∧
    (s.decideValid w r).sup = s.sup ∧ (s.decideValid w r).dev = s.dev ∧ (s.decideValid w r).seeds = s.seeds ∧
    (s.decideValid w r).pending = s.pending := by
  simp only [State.decideValid]; (repeat' split) <;> simp

@[simp] theorem State.decideInvalid_frame (w : Walk) (s : State) :
    (s.decideInvalid w).link = s.link ∧ (s.decideInvalid w).req = s.req ∧
    (s.decideInvalid w).dir.limit = s.dir.limit ∧ (s.decideInvalid w).wq = s.wq ∧ (s.decideInvalid w).grp = s.grp ∧
    (s.decideInvalid w).lw.openAt = s.lw.openAt ∧ (s.decideInvalid w).arr.op = s.arr.op ∧
    (s.decideInvalid w).arr.erase = s.arr.erase ∧ (s.decideInvalid w).flash = s.flash ∧
    (s.decideInvalid w).sm.wearDue = s.sm.wearDue ∧ (s.decideInvalid w).sm.epoch = s.sm.epoch ∧
    (s.decideInvalid w).mount = s.mount ∧ (s.decideInvalid w).sup = s.sup ∧ (s.decideInvalid w).dev = s.dev ∧
    (s.decideInvalid w).seeds = s.seeds ∧ (s.decideInvalid w).pending = s.pending := by
  simp only [State.decideInvalid]; (repeat' split) <;> simp

@[simp] theorem State.decideSwept_frame (w : Walk) (words : List RawWord) (s : State) :
    (s.decideSwept w words).link.rx = s.link.rx ∧ (s.decideSwept w words).link.got = s.link.got ∧
    (s.decideSwept w words).link.gap = s.link.gap ∧ (s.decideSwept w words).link.rate = s.link.rate ∧
    (s.decideSwept w words).req = s.req ∧ (s.decideSwept w words).dir.limit = s.dir.limit ∧
    (s.decideSwept w words).wq = s.wq ∧ (s.decideSwept w words).grp = s.grp ∧
    (s.decideSwept w words).lw.openAt = s.lw.openAt ∧ (s.decideSwept w words).arr.op = s.arr.op ∧
    (s.decideSwept w words).arr.erase = s.arr.erase ∧ (s.decideSwept w words).flash = s.flash ∧
    (s.decideSwept w words).sm.wearDue = s.sm.wearDue ∧ (s.decideSwept w words).sm.epoch = s.sm.epoch ∧
    (s.decideSwept w words).mount = s.mount ∧ (s.decideSwept w words).sup = s.sup ∧
    (s.decideSwept w words).dev = s.dev ∧ (s.decideSwept w words).seeds = s.seeds ∧
    (s.decideSwept w words).pending = s.pending := by
  simp only [State.decideSwept]; (repeat' split) <;> simp

@[simp] theorem State.walkRead_frame (words : List RawWord) (s : State) :
    (s.walkRead words).link.rx = s.link.rx ∧ (s.walkRead words).link.got = s.link.got ∧
    (s.walkRead words).link.gap = s.link.gap ∧ (s.walkRead words).link.rate = s.link.rate ∧
    (s.walkRead words).req = s.req ∧ (s.walkRead words).dir.limit = s.dir.limit ∧ (s.walkRead words).wq = s.wq ∧
    (s.walkRead words).grp = s.grp ∧ (s.walkRead words).lw.openAt = s.lw.openAt ∧
    (s.walkRead words).arr.op = s.arr.op ∧ (s.walkRead words).arr.erase = s.arr.erase ∧
    (s.walkRead words).flash = s.flash ∧ (s.walkRead words).sm.wearDue = s.sm.wearDue ∧
    (s.walkRead words).sm.epoch = s.sm.epoch ∧ (s.walkRead words).mount = s.mount ∧
    (s.walkRead words).sup = s.sup ∧ (s.walkRead words).dev = s.dev ∧ (s.walkRead words).seeds = s.seeds ∧
    (s.walkRead words).pending = s.pending := by
  simp only [State.walkRead]; (repeat' split) <;> simp

@[simp] theorem State.copyDone_frame (s : State) :
    s.copyDone.link = s.link ∧ s.copyDone.req = s.req ∧ s.copyDone.dir = s.dir ∧ s.copyDone.wq = s.wq ∧
    s.copyDone.grp = s.grp ∧ s.copyDone.lw = s.lw ∧ s.copyDone.arr.op = s.arr.op ∧
    s.copyDone.arr.erase = s.arr.erase ∧ s.copyDone.flash = s.flash ∧ s.copyDone.sm.wearDue = s.sm.wearDue ∧
    s.copyDone.sm.epoch = s.sm.epoch ∧ s.copyDone.mount = s.mount ∧ s.copyDone.sup = s.sup ∧
    s.copyDone.dev = s.dev ∧ s.copyDone.seeds = s.seeds ∧ s.copyDone.pending = s.pending := by
  simp only [State.copyDone]; (repeat' split) <;> simp

@[simp] theorem State.dropRelocation_frame (s : State) :
    s.dropRelocation.link.rx = s.link.rx ∧ s.dropRelocation.link.got = s.link.got ∧
    s.dropRelocation.link.gap = s.link.gap ∧ s.dropRelocation.link.rate = s.link.rate ∧
    s.dropRelocation.req.session = s.req.session ∧ s.dropRelocation.dir = s.dir ∧ s.dropRelocation.wq = s.wq ∧
    s.dropRelocation.grp = s.grp ∧ s.dropRelocation.lw.openAt = s.lw.openAt ∧ s.dropRelocation.arr = s.arr ∧
    s.dropRelocation.flash = s.flash ∧ s.dropRelocation.sm.table = s.sm.table ∧
    s.dropRelocation.sm.wearDue = s.sm.wearDue ∧ s.dropRelocation.sm.epoch = s.sm.epoch ∧
    s.dropRelocation.mount = s.mount ∧ s.dropRelocation.sup = s.sup ∧
    s.dropRelocation.dev.restartDue = s.dev.restartDue ∧ s.dropRelocation.dev.restartLatch = s.dev.restartLatch ∧
    s.dropRelocation.seeds = s.seeds ∧ s.dropRelocation.pending = s.pending := by
  simp only [State.dropRelocation]; (repeat' split) <;> simp

@[simp] theorem State.finishTidy_frame (s : State) :
    s.finishTidy.link.rx = s.link.rx ∧ s.finishTidy.link.got = s.link.got ∧ s.finishTidy.link.gap = s.link.gap ∧
    s.finishTidy.link.rate = s.link.rate ∧ s.finishTidy.req.session = s.req.session ∧ s.finishTidy.dir = s.dir ∧
    s.finishTidy.wq = s.wq ∧ s.finishTidy.grp = s.grp ∧ s.finishTidy.lw = s.lw ∧ s.finishTidy.arr = s.arr ∧
    s.finishTidy.flash = s.flash ∧ s.finishTidy.sm.table = s.sm.table ∧ s.finishTidy.sm.wearDue = s.sm.wearDue ∧
    s.finishTidy.sm.epoch = s.sm.epoch ∧ s.finishTidy.mount = s.mount ∧ s.finishTidy.sup = s.sup ∧
    s.finishTidy.dev = s.dev ∧ s.finishTidy.seeds = s.seeds ∧ s.finishTidy.pending = s.pending := by
  simp only [State.finishTidy]; (repeat' split) <;> simp

@[simp] theorem State.beginHost_frame (i : Nat) (s : State) :
    (s.beginHost i).link = s.link ∧ (s.beginHost i).req = s.req ∧ (s.beginHost i).dir.limit = s.dir.limit ∧
    (s.beginHost i).wq.admission = s.wq.admission ∧ (s.beginHost i).wq.charged = s.wq.charged ∧
    (s.beginHost i).wq.frozen = s.wq.frozen ∧ (s.beginHost i).grp = s.grp ∧
    (s.beginHost i).lw.openAt = s.lw.openAt ∧ (s.beginHost i).arr = s.arr ∧ (s.beginHost i).flash = s.flash ∧
    (s.beginHost i).sm = s.sm ∧ (s.beginHost i).mount = s.mount ∧ (s.beginHost i).sup = s.sup ∧
    (s.beginHost i).dev = s.dev ∧ (s.beginHost i).seeds = s.seeds ∧ (s.beginHost i).pending = s.pending := by
  simp only [State.beginHost]; (repeat' split) <;> simp

@[simp] theorem State.beginRelocation_frame (s : State) :
    s.beginRelocation.link = s.link ∧ s.beginRelocation.req = s.req ∧ s.beginRelocation.dir.limit = s.dir.limit ∧
    s.beginRelocation.wq = s.wq ∧ s.beginRelocation.grp = s.grp ∧ s.beginRelocation.lw.openAt = s.lw.openAt ∧
    s.beginRelocation.arr = s.arr ∧ s.beginRelocation.flash = s.flash ∧ s.beginRelocation.sm = s.sm ∧
    s.beginRelocation.mount = s.mount ∧ s.beginRelocation.sup = s.sup ∧ s.beginRelocation.dev = s.dev ∧
    s.beginRelocation.seeds = s.seeds ∧ s.beginRelocation.pending = s.pending := by
  simp only [State.beginRelocation]; (repeat' split) <;> simp

@[simp] theorem State.beginLane_frame (l : Lane) (s : State) :
    (s.beginLane l).link = s.link ∧ (s.beginLane l).req = s.req ∧ (s.beginLane l).dir.limit = s.dir.limit ∧
    (s.beginLane l).wq.admission = s.wq.admission ∧ (s.beginLane l).wq.charged = s.wq.charged ∧
    (s.beginLane l).wq.frozen = s.wq.frozen ∧ (s.beginLane l).grp = s.grp ∧
    (s.beginLane l).lw.openAt = s.lw.openAt ∧ (s.beginLane l).arr = s.arr ∧ (s.beginLane l).flash = s.flash ∧
    (s.beginLane l).sm = s.sm ∧ (s.beginLane l).mount = s.mount ∧ (s.beginLane l).sup = s.sup ∧
    (s.beginLane l).dev = s.dev ∧ (s.beginLane l).seeds = s.seeds ∧ (s.beginLane l).pending = s.pending := by
  simp only [State.beginLane]; (repeat' split) <;> simp

@[simp] theorem State.openFor_frame (l : Lane) (s : State) :
    (s.openFor l).link = s.link ∧ (s.openFor l).req = s.req ∧ (s.openFor l).dir = s.dir ∧ (s.openFor l).wq = s.wq ∧
    (s.openFor l).grp = s.grp ∧ (s.openFor l).arr.op = s.arr.op ∧ (s.openFor l).arr.erase = s.arr.erase ∧
    (s.openFor l).flash = s.flash ∧ (s.openFor l).sm.wearDue = s.sm.wearDue ∧ (s.openFor l).sm.epoch = s.sm.epoch ∧
    (s.openFor l).mount = s.mount ∧ (s.openFor l).sup = s.sup ∧ (s.openFor l).dev = s.dev ∧
    (s.openFor l).seeds = s.seeds ∧ (s.openFor l).pending = s.pending := by
  simp only [State.openFor]; (repeat' split) <;> simp

@[simp] theorem State.closeForGrant_frame (s : State) :
    s.closeForGrant.link = s.link ∧ s.closeForGrant.req = s.req ∧ s.closeForGrant.dir = s.dir ∧
    s.closeForGrant.wq = s.wq ∧ s.closeForGrant.grp = s.grp ∧ s.closeForGrant.arr = s.arr ∧
    s.closeForGrant.flash = s.flash ∧ s.closeForGrant.sm.wearDue = s.sm.wearDue ∧
    s.closeForGrant.sm.epoch = s.sm.epoch ∧ s.closeForGrant.mount = s.mount ∧ s.closeForGrant.sup = s.sup ∧
    s.closeForGrant.dev = s.dev ∧ s.closeForGrant.seeds = s.seeds ∧ s.closeForGrant.pending = s.pending := by
  simp only [State.closeForGrant]; (repeat' split) <;> simp

@[simp] theorem State.clearStall_frame (l : Lane) (s : State) :
    (s.clearStall l).link = s.link ∧ (s.clearStall l).req = s.req ∧ (s.clearStall l).dir = s.dir ∧
    (s.clearStall l).wq = s.wq ∧ (s.clearStall l).grp = s.grp ∧ (s.clearStall l).lw = s.lw ∧
    (s.clearStall l).arr = s.arr ∧ (s.clearStall l).flash = s.flash ∧ (s.clearStall l).sm.table = s.sm.table ∧
    (s.clearStall l).sm.wearDue = s.sm.wearDue ∧ (s.clearStall l).sm.epoch = s.sm.epoch ∧
    (s.clearStall l).mount = s.mount ∧ (s.clearStall l).sup = s.sup ∧ (s.clearStall l).dev = s.dev ∧
    (s.clearStall l).seeds = s.seeds ∧ (s.clearStall l).pending = s.pending := by
  simp only [State.clearStall]; (repeat' split) <;> simp

@[simp] theorem State.grant_frame (l : Lane) (s : State) :
    (s.grant l).link = s.link ∧ (s.grant l).req = s.req ∧ (s.grant l).dir.limit = s.dir.limit ∧
    (s.grant l).wq.admission = s.wq.admission ∧ (s.grant l).wq.charged = s.wq.charged ∧
    (s.grant l).wq.frozen = s.wq.frozen ∧ (s.grant l).grp = s.grp ∧ (s.grant l).arr.op = s.arr.op ∧
    (s.grant l).arr.erase = s.arr.erase ∧ (s.grant l).flash = s.flash ∧ (s.grant l).sm.wearDue = s.sm.wearDue ∧
    (s.grant l).sm.epoch = s.sm.epoch ∧ (s.grant l).mount = s.mount ∧ (s.grant l).sup = s.sup ∧
    (s.grant l).dev = s.dev ∧ (s.grant l).seeds = s.seeds ∧ (s.grant l).pending = s.pending := by
  simp only [State.grant]; (repeat' split) <;> simp

@[simp] theorem State.arbitrate_frame (s : State) :
    s.arbitrate.link = s.link ∧ s.arbitrate.req = s.req ∧ s.arbitrate.dir.limit = s.dir.limit ∧
    s.arbitrate.wq.admission = s.wq.admission ∧ s.arbitrate.wq.charged = s.wq.charged ∧
    s.arbitrate.wq.frozen = s.wq.frozen ∧ s.arbitrate.grp = s.grp ∧ s.arbitrate.arr.op = s.arr.op ∧
    s.arbitrate.arr.erase = s.arr.erase ∧ s.arbitrate.flash = s.flash ∧ s.arbitrate.sm.wearDue = s.sm.wearDue ∧
    s.arbitrate.sm.epoch = s.sm.epoch ∧ s.arbitrate.mount = s.mount ∧ s.arbitrate.sup = s.sup ∧
    s.arbitrate.dev = s.dev ∧ s.arbitrate.seeds = s.seeds ∧ s.arbitrate.pending = s.pending := by
  simp only [State.arbitrate]; (repeat' split) <;> simp

@[simp] theorem State.beginNext_frame (s : State) :
    s.beginNext.link = s.link ∧ s.beginNext.req = s.req ∧ s.beginNext.dir.limit = s.dir.limit ∧
    s.beginNext.wq.admission = s.wq.admission ∧ s.beginNext.wq.charged = s.wq.charged ∧
    s.beginNext.wq.frozen = s.wq.frozen ∧ s.beginNext.grp = s.grp ∧ s.beginNext.lw.openAt = s.lw.openAt ∧
    s.beginNext.arr = s.arr ∧ s.beginNext.flash = s.flash ∧ s.beginNext.sm = s.sm ∧ s.beginNext.mount = s.mount ∧
    s.beginNext.sup = s.sup ∧ s.beginNext.dev = s.dev ∧ s.beginNext.seeds = s.seeds ∧
    s.beginNext.pending = s.pending := by
  simp only [State.beginNext]; (repeat' split) <;> simp

@[simp] theorem State.giveWord_frame (s : State) :
    s.giveWord.link = s.link ∧ s.giveWord.req = s.req ∧ s.giveWord.dir = s.dir ∧ s.giveWord.wq = s.wq ∧
    s.giveWord.grp = s.grp ∧ s.giveWord.lw = s.lw ∧ s.giveWord.arr.op = s.arr.op ∧
    s.giveWord.arr.erase = s.arr.erase ∧ s.giveWord.flash = s.flash ∧ s.giveWord.sm = s.sm ∧
    s.giveWord.mount = s.mount ∧ s.giveWord.sup = s.sup ∧ s.giveWord.dev = s.dev ∧ s.giveWord.seeds = s.seeds ∧
    s.giveWord.pending = s.pending := by
  simp only [State.giveWord]; (repeat' split) <;> simp

@[simp] theorem State.advanceWriter_frame (s : State) :
    s.advanceWriter.link = s.link ∧ s.advanceWriter.req = s.req ∧ s.advanceWriter.dir.limit = s.dir.limit ∧
    s.advanceWriter.wq.admission = s.wq.admission ∧ s.advanceWriter.wq.charged = s.wq.charged ∧
    s.advanceWriter.wq.frozen = s.wq.frozen ∧ s.advanceWriter.grp = s.grp ∧
    s.advanceWriter.lw.openAt = s.lw.openAt ∧ s.advanceWriter.arr.op = s.arr.op ∧
    s.advanceWriter.arr.erase = s.arr.erase ∧ s.advanceWriter.flash = s.flash ∧ s.advanceWriter.sm = s.sm ∧
    s.advanceWriter.mount = s.mount ∧ s.advanceWriter.sup = s.sup ∧ s.advanceWriter.dev = s.dev ∧
    s.advanceWriter.seeds = s.seeds ∧ s.advanceWriter.pending = s.pending := by
  simp only [State.advanceWriter]; (repeat' split) <;> simp

@[simp] theorem State.emptyHost_frame (s : State) :
    s.emptyHost.link = s.link ∧ s.emptyHost.req = s.req ∧ s.emptyHost.dir = s.dir ∧ s.emptyHost.wq = s.wq ∧
    s.emptyHost.grp = s.grp ∧ s.emptyHost.lw.openAt = s.lw.openAt ∧ s.emptyHost.arr = s.arr ∧
    s.emptyHost.flash = s.flash ∧ s.emptyHost.sm.table = s.sm.table ∧ s.emptyHost.sm.wearDue = s.sm.wearDue ∧
    s.emptyHost.sm.epoch = s.sm.epoch ∧ s.emptyHost.mount = s.mount ∧ s.emptyHost.sup = s.sup ∧
    s.emptyHost.dev = s.dev ∧ s.emptyHost.seeds = s.seeds ∧ s.emptyHost.pending = s.pending := by
  simp only [State.emptyHost]; simp

@[simp] theorem State.freeOpening_frame (s : State) :
    s.freeOpening.link = s.link ∧ s.freeOpening.req = s.req ∧ s.freeOpening.dir = s.dir ∧ s.freeOpening.wq = s.wq ∧
    s.freeOpening.grp = s.grp ∧ s.freeOpening.lw.openAt = s.lw.openAt ∧ s.freeOpening.arr = s.arr ∧
    s.freeOpening.flash = s.flash ∧ s.freeOpening.sm = s.sm ∧ s.freeOpening.mount = s.mount ∧
    s.freeOpening.sup = s.sup ∧ s.freeOpening.dev = s.dev ∧ s.freeOpening.seeds = s.seeds ∧
    s.freeOpening.pending = s.pending := by
  simp only [State.freeOpening]; (repeat' split) <;> simp

@[simp] theorem State.hostMediaFault_frame (s : State) :
    s.hostMediaFault.link.rx = s.link.rx ∧ s.hostMediaFault.link.got = s.link.got ∧
    s.hostMediaFault.link.gap = s.link.gap ∧ s.hostMediaFault.link.rate = s.link.rate ∧
    s.hostMediaFault.req.session = s.req.session ∧ s.hostMediaFault.dir.limit = s.dir.limit ∧
    s.hostMediaFault.wq.admission = s.wq.admission ∧ s.hostMediaFault.wq.frozen = s.wq.frozen ∧
    s.hostMediaFault.grp = s.grp ∧ s.hostMediaFault.lw.openAt = s.lw.openAt ∧ s.hostMediaFault.arr = s.arr ∧
    s.hostMediaFault.flash = s.flash ∧ s.hostMediaFault.sm.table = s.sm.table ∧
    s.hostMediaFault.sm.wearDue = s.sm.wearDue ∧ s.hostMediaFault.sm.epoch = s.sm.epoch ∧
    s.hostMediaFault.mount = s.mount ∧ s.hostMediaFault.sup.condition = s.sup.condition ∧
    s.hostMediaFault.dev.restartDue = s.dev.restartDue ∧ s.hostMediaFault.dev.restartLatch = s.dev.restartLatch ∧
    s.hostMediaFault.seeds = s.seeds ∧ s.hostMediaFault.pending = s.pending := by
  simp only [State.hostMediaFault]; simp

@[simp] theorem State.dropWord_frame (s : State) :
    s.dropWord.link = s.link ∧ s.dropWord.req = s.req ∧ s.dropWord.dir = s.dir ∧ s.dropWord.wq = s.wq ∧
    s.dropWord.grp = s.grp ∧ s.dropWord.lw.openAt = s.lw.openAt ∧ s.dropWord.arr.erase = s.arr.erase ∧
    s.dropWord.flash = s.flash ∧ s.dropWord.sm = s.sm ∧ s.dropWord.mount = s.mount ∧ s.dropWord.sup = s.sup ∧
    s.dropWord.dev = s.dev ∧ s.dropWord.seeds = s.seeds ∧ s.dropWord.pending = s.pending := by
  simp only [State.dropWord]; (repeat' split) <;> simp

@[simp] theorem State.abandonHost_frame (s : State) :
    s.abandonHost.link = s.link ∧ s.abandonHost.req = s.req ∧ s.abandonHost.dir = s.dir ∧ s.abandonHost.wq = s.wq ∧
    s.abandonHost.grp = s.grp ∧ s.abandonHost.arr.erase = s.arr.erase ∧ s.abandonHost.flash = s.flash ∧
    s.abandonHost.sm.wearDue = s.sm.wearDue ∧ s.abandonHost.sm.epoch = s.sm.epoch ∧ s.abandonHost.mount = s.mount ∧
    s.abandonHost.sup = s.sup ∧ s.abandonHost.dev = s.dev ∧ s.abandonHost.seeds = s.seeds ∧
    s.abandonHost.pending = s.pending := by
  simp only [State.abandonHost]; (repeat' split) <;> simp

@[simp] theorem State.recordPlaced_frame (sector offset b : Nat) (s : State) :
    (s.recordPlaced sector offset b).link = s.link ∧ (s.recordPlaced sector offset b).req = s.req ∧
    (s.recordPlaced sector offset b).dir = s.dir ∧ (s.recordPlaced sector offset b).wq = s.wq ∧
    (s.recordPlaced sector offset b).grp = s.grp ∧ (s.recordPlaced sector offset b).arr = s.arr ∧
    (s.recordPlaced sector offset b).flash = s.flash ∧ (s.recordPlaced sector offset b).sm.wearDue = s.sm.wearDue ∧
    (s.recordPlaced sector offset b).sm.epoch = s.sm.epoch ∧ (s.recordPlaced sector offset b).mount = s.mount ∧
    (s.recordPlaced sector offset b).sup = s.sup ∧ (s.recordPlaced sector offset b).dev = s.dev ∧
    (s.recordPlaced sector offset b).seeds = s.seeds ∧ (s.recordPlaced sector offset b).pending = s.pending := by
  simp only [State.recordPlaced]; simp

@[simp] theorem State.loneComplete_frame (e : QueueEntry) (sector offset : Nat) (s : State) :
    (s.loneComplete e sector offset).link.rx = s.link.rx ∧ (s.loneComplete e sector offset).link.got = s.link.got ∧
    (s.loneComplete e sector offset).link.gap = s.link.gap ∧
    (s.loneComplete e sector offset).link.rate = s.link.rate ∧
    (s.loneComplete e sector offset).req.session = s.req.session ∧
    (s.loneComplete e sector offset).dir.limit = s.dir.limit ∧
    (s.loneComplete e sector offset).wq.admission = s.wq.admission ∧
    (s.loneComplete e sector offset).wq.frozen = s.wq.frozen ∧ (s.loneComplete e sector offset).grp = s.grp ∧
    (s.loneComplete e sector offset).arr = s.arr ∧ (s.loneComplete e sector offset).flash = s.flash ∧
    (s.loneComplete e sector offset).sm.wearDue = s.sm.wearDue ∧
    (s.loneComplete e sector offset).sm.epoch = s.sm.epoch ∧ (s.loneComplete e sector offset).mount = s.mount ∧
    (s.loneComplete e sector offset).sup.condition = s.sup.condition ∧
    (s.loneComplete e sector offset).dev = s.dev ∧ (s.loneComplete e sector offset).seeds = s.seeds ∧
    (s.loneComplete e sector offset).pending = s.pending := by
  simp only [State.loneComplete]; simp

@[simp] theorem State.runComplete_frame (e : QueueEntry) (sector offset : Nat) (s : State) :
    (s.runComplete e sector offset).link.rx = s.link.rx ∧ (s.runComplete e sector offset).link.got = s.link.got ∧
    (s.runComplete e sector offset).link.gap = s.link.gap ∧
    (s.runComplete e sector offset).link.rate = s.link.rate ∧
    (s.runComplete e sector offset).req.session = s.req.session ∧
    (s.runComplete e sector offset).dir.limit = s.dir.limit ∧
    (s.runComplete e sector offset).wq.admission = s.wq.admission ∧
    (s.runComplete e sector offset).wq.frozen = s.wq.frozen ∧ (s.runComplete e sector offset).grp = s.grp ∧
    (s.runComplete e sector offset).arr = s.arr ∧ (s.runComplete e sector offset).flash = s.flash ∧
    (s.runComplete e sector offset).sm.wearDue = s.sm.wearDue ∧
    (s.runComplete e sector offset).sm.epoch = s.sm.epoch ∧ (s.runComplete e sector offset).mount = s.mount ∧
    (s.runComplete e sector offset).sup.condition = s.sup.condition ∧ (s.runComplete e sector offset).dev = s.dev ∧
    (s.runComplete e sector offset).seeds = s.seeds ∧ (s.runComplete e sector offset).pending = s.pending := by
  simp only [State.runComplete]; (repeat' split) <;> simp

@[simp] theorem State.memberComplete_frame (i : Nat) (e : QueueEntry) (sector offset : Nat) (s : State) :
    (s.memberComplete i e sector offset).link = s.link ∧ (s.memberComplete i e sector offset).req = s.req ∧
    (s.memberComplete i e sector offset).dir = s.dir ∧
    (s.memberComplete i e sector offset).wq.admission = s.wq.admission ∧
    (s.memberComplete i e sector offset).wq.charged = s.wq.charged ∧
    (s.memberComplete i e sector offset).wq.frozen = s.wq.frozen ∧
    (s.memberComplete i e sector offset).grp = s.grp ∧ (s.memberComplete i e sector offset).arr = s.arr ∧
    (s.memberComplete i e sector offset).flash = s.flash ∧
    (s.memberComplete i e sector offset).sm.wearDue = s.sm.wearDue ∧
    (s.memberComplete i e sector offset).sm.epoch = s.sm.epoch ∧
    (s.memberComplete i e sector offset).mount = s.mount ∧ (s.memberComplete i e sector offset).sup = s.sup ∧
    (s.memberComplete i e sector offset).dev = s.dev ∧ (s.memberComplete i e sector offset).seeds = s.seeds ∧
    (s.memberComplete i e sector offset).pending = s.pending := by
  simp only [State.memberComplete]; simp

@[simp] theorem State.relocationComplete_frame (r : RelocRecord) (sector offset : Nat) (s : State) :
    (s.relocationComplete r sector offset).link.rx = s.link.rx ∧
    (s.relocationComplete r sector offset).link.got = s.link.got ∧
    (s.relocationComplete r sector offset).link.gap = s.link.gap ∧
    (s.relocationComplete r sector offset).link.rate = s.link.rate ∧
    (s.relocationComplete r sector offset).req = s.req ∧
    (s.relocationComplete r sector offset).dir.limit = s.dir.limit ∧
    (s.relocationComplete r sector offset).wq = s.wq ∧ (s.relocationComplete r sector offset).grp = s.grp ∧
    (s.relocationComplete r sector offset).arr.op = s.arr.op ∧
    (s.relocationComplete r sector offset).arr.erase = s.arr.erase ∧
    (s.relocationComplete r sector offset).flash = s.flash ∧
    (s.relocationComplete r sector offset).sm.wearDue = s.sm.wearDue ∧
    (s.relocationComplete r sector offset).sm.epoch = s.sm.epoch ∧
    (s.relocationComplete r sector offset).mount = s.mount ∧ (s.relocationComplete r sector offset).sup = s.sup ∧
    (s.relocationComplete r sector offset).dev = s.dev ∧ (s.relocationComplete r sector offset).seeds = s.seeds ∧
    (s.relocationComplete r sector offset).pending = s.pending := by
  simp only [State.relocationComplete]; simp

@[simp] theorem State.recordComplete_frame (s : State) :
    s.recordComplete.link.rx = s.link.rx ∧ s.recordComplete.link.got = s.link.got ∧
    s.recordComplete.link.gap = s.link.gap ∧ s.recordComplete.link.rate = s.link.rate ∧
    s.recordComplete.req.session = s.req.session ∧ s.recordComplete.dir.limit = s.dir.limit ∧
    s.recordComplete.wq.admission = s.wq.admission ∧ s.recordComplete.wq.frozen = s.wq.frozen ∧
    s.recordComplete.grp = s.grp ∧ s.recordComplete.arr.op = s.arr.op ∧ s.recordComplete.arr.erase = s.arr.erase ∧
    s.recordComplete.flash = s.flash ∧ s.recordComplete.sm.wearDue = s.sm.wearDue ∧
    s.recordComplete.sm.epoch = s.sm.epoch ∧ s.recordComplete.mount = s.mount ∧
    s.recordComplete.sup.condition = s.sup.condition ∧ s.recordComplete.dev = s.dev ∧
    s.recordComplete.seeds = s.seeds ∧ s.recordComplete.pending = s.pending := by
  simp only [State.recordComplete]; (repeat' split) <;> simp

@[simp] theorem State.laneFailed_frame (l : Lane) (s : State) :
    (s.laneFailed l).link.rx = s.link.rx ∧ (s.laneFailed l).link.got = s.link.got ∧
    (s.laneFailed l).link.gap = s.link.gap ∧ (s.laneFailed l).link.rate = s.link.rate ∧
    (s.laneFailed l).req.session = s.req.session ∧ (s.laneFailed l).dir.limit = s.dir.limit ∧
    (s.laneFailed l).wq.admission = s.wq.admission ∧ (s.laneFailed l).wq.frozen = s.wq.frozen ∧
    (s.laneFailed l).grp = s.grp ∧ (s.laneFailed l).lw.openAt = s.lw.openAt ∧ (s.laneFailed l).arr = s.arr ∧
    (s.laneFailed l).flash = s.flash ∧ (s.laneFailed l).sm.table = s.sm.table ∧
    (s.laneFailed l).sm.wearDue = s.sm.wearDue ∧ (s.laneFailed l).sm.epoch = s.sm.epoch ∧
    (s.laneFailed l).mount = s.mount ∧ (s.laneFailed l).sup.condition = s.sup.condition ∧
    (s.laneFailed l).dev.restartDue = s.dev.restartDue ∧ (s.laneFailed l).dev.restartLatch = s.dev.restartLatch ∧
    (s.laneFailed l).seeds = s.seeds ∧ (s.laneFailed l).pending = s.pending := by
  simp only [State.laneFailed]; (repeat' split) <;> simp

@[simp] theorem State.closeFailed_frame (s : State) :
    s.closeFailed.link = s.link ∧ s.closeFailed.req = s.req ∧ s.closeFailed.dir = s.dir ∧ s.closeFailed.wq = s.wq ∧
    s.closeFailed.grp = s.grp ∧ s.closeFailed.arr = s.arr ∧ s.closeFailed.flash = s.flash ∧
    s.closeFailed.sm.wearDue = s.sm.wearDue ∧ s.closeFailed.sm.epoch = s.sm.epoch ∧ s.closeFailed.mount = s.mount ∧
    s.closeFailed.sup = s.sup ∧ s.closeFailed.dev = s.dev ∧ s.closeFailed.seeds = s.seeds ∧
    s.closeFailed.pending = s.pending := by
  simp only [State.closeFailed]; (repeat' split) <;> simp

@[simp] theorem State.programFailed_frame (s : State) :
    s.programFailed.link.rx = s.link.rx ∧ s.programFailed.link.got = s.link.got ∧
    s.programFailed.link.gap = s.link.gap ∧ s.programFailed.link.rate = s.link.rate ∧
    s.programFailed.req.session = s.req.session ∧ s.programFailed.dir.limit = s.dir.limit ∧
    s.programFailed.wq.admission = s.wq.admission ∧ s.programFailed.wq.frozen = s.wq.frozen ∧
    s.programFailed.grp = s.grp ∧ s.programFailed.arr = s.arr ∧ s.programFailed.flash = s.flash ∧
    s.programFailed.sm.wearDue = s.sm.wearDue ∧ s.programFailed.sm.epoch = s.sm.epoch ∧
    s.programFailed.mount = s.mount ∧ s.programFailed.sup.condition = s.sup.condition ∧
    s.programFailed.dev.restartDue = s.dev.restartDue ∧ s.programFailed.dev.restartLatch = s.dev.restartLatch ∧
    s.programFailed.seeds = s.seeds ∧ s.programFailed.pending = s.pending := by
  simp only [State.programFailed]; (repeat' split) <;> simp

@[simp] theorem State.wordEnded_frame (w : WordReq) (success : Bool) (s : State) :
    (s.wordEnded w success).link.rx = s.link.rx ∧ (s.wordEnded w success).link.got = s.link.got ∧
    (s.wordEnded w success).link.gap = s.link.gap ∧ (s.wordEnded w success).link.rate = s.link.rate ∧
    (s.wordEnded w success).req.session = s.req.session ∧ (s.wordEnded w success).dir.limit = s.dir.limit ∧
    (s.wordEnded w success).wq.admission = s.wq.admission ∧ (s.wordEnded w success).wq.frozen = s.wq.frozen ∧
    (s.wordEnded w success).grp = s.grp ∧ (s.wordEnded w success).arr.op = s.arr.op ∧
    (s.wordEnded w success).arr.erase = s.arr.erase ∧ (s.wordEnded w success).flash = s.flash ∧
    (s.wordEnded w success).sm.wearDue = s.sm.wearDue ∧ (s.wordEnded w success).sm.epoch = s.sm.epoch ∧
    (s.wordEnded w success).mount = s.mount ∧ (s.wordEnded w success).sup.condition = s.sup.condition ∧
    (s.wordEnded w success).dev.restartDue = s.dev.restartDue ∧
    (s.wordEnded w success).dev.restartLatch = s.dev.restartLatch ∧ (s.wordEnded w success).seeds = s.seeds ∧
    (s.wordEnded w success).pending = s.pending := by
  simp only [State.wordEnded]; (repeat' split) <;> simp

@[simp] theorem State.formatWriter_frame (s : State) :
    s.formatWriter.link = s.link ∧ s.formatWriter.req = s.req ∧ s.formatWriter.dir = s.dir ∧
    s.formatWriter.wq = s.wq ∧ s.formatWriter.grp = s.grp ∧ s.formatWriter.arr.erase = s.arr.erase ∧
    s.formatWriter.flash = s.flash ∧ s.formatWriter.sm = s.sm ∧ s.formatWriter.mount = s.mount ∧
    s.formatWriter.sup = s.sup ∧ s.formatWriter.dev = s.dev ∧ s.formatWriter.seeds = s.seeds ∧
    s.formatWriter.pending = s.pending := by
  simp only [State.formatWriter]; simp

@[simp] theorem State.joinUpTo_frame (n : Nat) (s : State) :
    (s.joinUpTo n).link = s.link ∧ (s.joinUpTo n).req = s.req ∧ (s.joinUpTo n).dir = s.dir ∧
    (s.joinUpTo n).wq = s.wq ∧ (s.joinUpTo n).grp = s.grp ∧ (s.joinUpTo n).lw = s.lw ∧ (s.joinUpTo n).arr = s.arr ∧
    (s.joinUpTo n).flash = s.flash ∧ (s.joinUpTo n).sm.wearDue = s.sm.wearDue ∧
    (s.joinUpTo n).sm.epoch = s.sm.epoch ∧ (s.joinUpTo n).mount = s.mount ∧ (s.joinUpTo n).sup = s.sup ∧
    (s.joinUpTo n).dev = s.dev ∧ (s.joinUpTo n).seeds = s.seeds ∧ (s.joinUpTo n).pending = s.pending := by
  induction n generalizing s <;> simp only [State.joinUpTo] <;> (repeat' split) <;> simp [*]

@[simp] theorem State.joinBatch_frame (s : State) :
    s.joinBatch.link = s.link ∧ s.joinBatch.req = s.req ∧ s.joinBatch.dir = s.dir ∧ s.joinBatch.wq = s.wq ∧
    s.joinBatch.grp = s.grp ∧ s.joinBatch.lw = s.lw ∧ s.joinBatch.arr = s.arr ∧ s.joinBatch.flash = s.flash ∧
    s.joinBatch.sm.wearDue = s.sm.wearDue ∧ s.joinBatch.sm.epoch = s.sm.epoch ∧ s.joinBatch.mount = s.mount ∧
    s.joinBatch.sup = s.sup ∧ s.joinBatch.dev = s.dev ∧ s.joinBatch.seeds = s.seeds ∧
    s.joinBatch.pending = s.pending := by
  simp only [State.joinBatch]; (repeat' split) <;> simp

@[simp] theorem State.closeBatch_frame (s : State) :
    s.closeBatch.link = s.link ∧ s.closeBatch.req = s.req ∧ s.closeBatch.dir = s.dir ∧ s.closeBatch.wq = s.wq ∧
    s.closeBatch.grp = s.grp ∧ s.closeBatch.lw = s.lw ∧ s.closeBatch.arr = s.arr ∧ s.closeBatch.flash = s.flash ∧
    s.closeBatch.sm.table = s.sm.table ∧ s.closeBatch.sm.wearDue = s.sm.wearDue ∧
    s.closeBatch.sm.epoch = s.sm.epoch ∧ s.closeBatch.mount = s.mount ∧ s.closeBatch.sup = s.sup ∧
    s.closeBatch.dev = s.dev ∧ s.closeBatch.seeds = s.seeds ∧ s.closeBatch.pending = s.pending := by
  simp only [State.closeBatch]; (repeat' split) <;> simp

@[simp] theorem State.requestErase_frame (s : State) :
    s.requestErase.link = s.link ∧ s.requestErase.req = s.req ∧ s.requestErase.dir = s.dir ∧
    s.requestErase.wq = s.wq ∧ s.requestErase.grp = s.grp ∧ s.requestErase.lw = s.lw ∧
    s.requestErase.arr.op = s.arr.op ∧ s.requestErase.arr.erase = s.arr.erase ∧ s.requestErase.flash = s.flash ∧
    s.requestErase.sm = s.sm ∧ s.requestErase.mount = s.mount ∧ s.requestErase.sup = s.sup ∧
    s.requestErase.dev = s.dev ∧ s.requestErase.seeds = s.seeds ∧ s.requestErase.pending = s.pending := by
  simp only [State.requestErase]; (repeat' split) <;> simp

@[simp] theorem State.eraseDone_frame (r : EraseReq) (s : State) :
    (s.eraseDone r).link = s.link ∧ (s.eraseDone r).req = s.req ∧ (s.eraseDone r).dir = s.dir ∧
    (s.eraseDone r).wq = s.wq ∧ (s.eraseDone r).grp = s.grp ∧ (s.eraseDone r).lw = s.lw ∧
    (s.eraseDone r).arr = s.arr ∧ (s.eraseDone r).flash = s.flash ∧ (s.eraseDone r).sm.epoch = s.sm.epoch ∧
    (s.eraseDone r).mount = s.mount ∧ (s.eraseDone r).sup = s.sup ∧ (s.eraseDone r).dev = s.dev ∧
    (s.eraseDone r).seeds = s.seeds ∧ (s.eraseDone r).pending = s.pending := by
  simp only [State.eraseDone]; simp

@[simp] theorem State.retireSector_frame (r : EraseReq) (s : State) :
    (s.retireSector r).link.rx = s.link.rx ∧ (s.retireSector r).link.got = s.link.got ∧
    (s.retireSector r).link.gap = s.link.gap ∧ (s.retireSector r).link.rate = s.link.rate ∧
    (s.retireSector r).req = s.req ∧ (s.retireSector r).dir.entries = s.dir.entries ∧
    (s.retireSector r).wq = s.wq ∧ (s.retireSector r).grp = s.grp ∧ (s.retireSector r).lw = s.lw ∧
    (s.retireSector r).arr = s.arr ∧ (s.retireSector r).flash = s.flash ∧
    (s.retireSector r).sm.epoch = s.sm.epoch ∧ (s.retireSector r).mount = s.mount ∧
    (s.retireSector r).sup = s.sup ∧ (s.retireSector r).dev.restartDue = s.dev.restartDue ∧
    (s.retireSector r).dev.restartLatch = s.dev.restartLatch ∧ (s.retireSector r).seeds = s.seeds ∧
    (s.retireSector r).pending = s.pending := by
  simp only [State.retireSector]; simp

@[simp] theorem State.eraseAbandoned_frame (r : EraseReq) (s : State) :
    (s.eraseAbandoned r).link = s.link ∧ (s.eraseAbandoned r).req = s.req ∧ (s.eraseAbandoned r).dir = s.dir ∧
    (s.eraseAbandoned r).wq = s.wq ∧ (s.eraseAbandoned r).grp = s.grp ∧ (s.eraseAbandoned r).lw = s.lw ∧
    (s.eraseAbandoned r).arr = s.arr ∧ (s.eraseAbandoned r).flash = s.flash ∧
    (s.eraseAbandoned r).sm.wearDue = s.sm.wearDue ∧ (s.eraseAbandoned r).sm.epoch = s.sm.epoch ∧
    (s.eraseAbandoned r).mount = s.mount ∧ (s.eraseAbandoned r).sup = s.sup ∧ (s.eraseAbandoned r).dev = s.dev ∧
    (s.eraseAbandoned r).seeds = s.seeds ∧ (s.eraseAbandoned r).pending = s.pending := by
  simp only [State.eraseAbandoned]; (repeat' split) <;> simp

@[simp] theorem State.leaveBatch_frame (sector : Nat) (s : State) :
    (s.leaveBatch sector).link = s.link ∧ (s.leaveBatch sector).req = s.req ∧ (s.leaveBatch sector).dir = s.dir ∧
    (s.leaveBatch sector).wq = s.wq ∧ (s.leaveBatch sector).grp = s.grp ∧ (s.leaveBatch sector).lw = s.lw ∧
    (s.leaveBatch sector).arr = s.arr ∧ (s.leaveBatch sector).flash = s.flash ∧
    (s.leaveBatch sector).sm.table = s.sm.table ∧ (s.leaveBatch sector).sm.wearDue = s.sm.wearDue ∧
    (s.leaveBatch sector).sm.epoch = s.sm.epoch ∧ (s.leaveBatch sector).mount = s.mount ∧
    (s.leaveBatch sector).sup = s.sup ∧ (s.leaveBatch sector).dev = s.dev ∧ (s.leaveBatch sector).seeds = s.seeds ∧
    (s.leaveBatch sector).pending = s.pending := by
  simp only [State.leaveBatch]; simp

@[simp] theorem State.formatComplete_frame (tag : Byte) (s : State) :
    (s.formatComplete tag).link.rx = s.link.rx ∧ (s.formatComplete tag).link.got = s.link.got ∧
    (s.formatComplete tag).link.gap = s.link.gap ∧ (s.formatComplete tag).link.rate = s.link.rate ∧
    (s.formatComplete tag).req.session = s.req.session ∧ (s.formatComplete tag).dir.entries = s.dir.entries ∧
    (s.formatComplete tag).wq = s.wq ∧ (s.formatComplete tag).grp = s.grp ∧ (s.formatComplete tag).lw = s.lw ∧
    (s.formatComplete tag).arr = s.arr ∧ (s.formatComplete tag).flash = s.flash ∧
    (s.formatComplete tag).sm.table = s.sm.table ∧ (s.formatComplete tag).sm.wearDue = s.sm.wearDue ∧
    (s.formatComplete tag).sm.epoch = s.sm.epoch ∧ (s.formatComplete tag).mount = s.mount ∧
    (s.formatComplete tag).sup = s.sup ∧ (s.formatComplete tag).dev.restartDue = s.dev.restartDue ∧
    (s.formatComplete tag).dev.restartLatch = s.dev.restartLatch ∧ (s.formatComplete tag).seeds = s.seeds ∧
    (s.formatComplete tag).pending = s.pending := by
  simp only [State.formatComplete]; (repeat' split) <;> simp

@[simp] theorem State.formatNext_frame (s : State) :
    s.formatNext.link.rx = s.link.rx ∧ s.formatNext.link.got = s.link.got ∧ s.formatNext.link.gap = s.link.gap ∧
    s.formatNext.link.rate = s.link.rate ∧ s.formatNext.req.session = s.req.session ∧
    s.formatNext.dir.entries = s.dir.entries ∧ s.formatNext.wq = s.wq ∧ s.formatNext.grp = s.grp ∧
    s.formatNext.lw = s.lw ∧ s.formatNext.arr = s.arr ∧ s.formatNext.flash = s.flash ∧
    s.formatNext.sm.table = s.sm.table ∧ s.formatNext.sm.wearDue = s.sm.wearDue ∧
    s.formatNext.sm.epoch = s.sm.epoch ∧ s.formatNext.mount = s.mount ∧ s.formatNext.sup = s.sup ∧
    s.formatNext.dev.restartDue = s.dev.restartDue ∧ s.formatNext.dev.restartLatch = s.dev.restartLatch ∧
    s.formatNext.seeds = s.seeds ∧ s.formatNext.pending = s.pending := by
  simp only [State.formatNext]; (repeat' split) <;> simp

@[simp] theorem State.eraseEnds_frame (r : EraseReq) (how : EraseEnd) (s : State) :
    (s.eraseEnds r how).link.rx = s.link.rx ∧ (s.eraseEnds r how).link.got = s.link.got ∧
    (s.eraseEnds r how).link.gap = s.link.gap ∧ (s.eraseEnds r how).link.rate = s.link.rate ∧
    (s.eraseEnds r how).req.session = s.req.session ∧ (s.eraseEnds r how).dir.entries = s.dir.entries ∧
    (s.eraseEnds r how).wq = s.wq ∧ (s.eraseEnds r how).grp = s.grp ∧ (s.eraseEnds r how).lw = s.lw ∧
    (s.eraseEnds r how).arr.op = s.arr.op ∧ (s.eraseEnds r how).flash = s.flash ∧
    (s.eraseEnds r how).sm.epoch = s.sm.epoch ∧ (s.eraseEnds r how).mount = s.mount ∧
    (s.eraseEnds r how).sup = s.sup ∧ (s.eraseEnds r how).dev.restartDue = s.dev.restartDue ∧
    (s.eraseEnds r how).dev.restartLatch = s.dev.restartLatch ∧ (s.eraseEnds r how).seeds = s.seeds ∧
    (s.eraseEnds r how).pending = s.pending := by
  simp only [State.eraseEnds]; (repeat' split) <;> simp

@[simp] theorem State.wearCheck_frame (s : State) :
    s.wearCheck.link.rx = s.link.rx ∧ s.wearCheck.link.got = s.link.got ∧ s.wearCheck.link.gap = s.link.gap ∧
    s.wearCheck.link.rate = s.link.rate ∧ s.wearCheck.req = s.req ∧ s.wearCheck.dir = s.dir ∧
    s.wearCheck.wq = s.wq ∧ s.wearCheck.grp = s.grp ∧ s.wearCheck.lw = s.lw ∧ s.wearCheck.arr.op = s.arr.op ∧
    s.wearCheck.arr.erase = s.arr.erase ∧ s.wearCheck.flash = s.flash ∧ s.wearCheck.sm.epoch = s.sm.epoch ∧
    s.wearCheck.mount = s.mount ∧ s.wearCheck.sup = s.sup ∧ s.wearCheck.dev = s.dev ∧ s.wearCheck.seeds = s.seeds ∧
    s.wearCheck.pending = s.pending := by
  simp only [State.wearCheck]; (repeat' split) <;> simp

@[simp] theorem State.formatEffect_frame (tag : Byte) (s : State) :
    (s.formatEffect tag).link.rx = s.link.rx ∧ (s.formatEffect tag).link.got = s.link.got ∧
    (s.formatEffect tag).link.gap = s.link.gap ∧ (s.formatEffect tag).link.rate = s.link.rate ∧
    (s.formatEffect tag).req = s.req ∧ (s.formatEffect tag).dir.limit = s.dir.limit ∧
    (s.formatEffect tag).wq.entries = s.wq.entries ∧ (s.formatEffect tag).wq.admission = s.wq.admission ∧
    (s.formatEffect tag).wq.charged = s.wq.charged ∧ (s.formatEffect tag).wq.frozen = s.wq.frozen ∧
    (s.formatEffect tag).flash = s.flash ∧ (s.formatEffect tag).sm.wearDue = s.sm.wearDue ∧
    (s.formatEffect tag).mount = s.mount ∧ (s.formatEffect tag).sup = s.sup ∧
    (s.formatEffect tag).dev.restartDue = s.dev.restartDue ∧
    (s.formatEffect tag).dev.restartLatch = s.dev.restartLatch ∧ (s.formatEffect tag).seeds = s.seeds ∧
    (s.formatEffect tag).pending = s.pending := by
  simp only [State.formatEffect]; simp

@[simp] theorem State.mountAsks_frame (phase : MountPhase) (m : Mount) (sector offset words : Nat) (s : State) :
    (s.mountAsks phase m sector offset words).link = s.link ∧
    (s.mountAsks phase m sector offset words).req = s.req ∧ (s.mountAsks phase m sector offset words).dir = s.dir ∧
    (s.mountAsks phase m sector offset words).wq = s.wq ∧ (s.mountAsks phase m sector offset words).grp = s.grp ∧
    (s.mountAsks phase m sector offset words).lw = s.lw ∧
    (s.mountAsks phase m sector offset words).arr.op = s.arr.op ∧
    (s.mountAsks phase m sector offset words).arr.erase = s.arr.erase ∧
    (s.mountAsks phase m sector offset words).flash = s.flash ∧
    (s.mountAsks phase m sector offset words).sm = s.sm ∧ (s.mountAsks phase m sector offset words).sup = s.sup ∧
    (s.mountAsks phase m sector offset words).dev = s.dev ∧
    (s.mountAsks phase m sector offset words).seeds = s.seeds ∧
    (s.mountAsks phase m sector offset words).pending = s.pending := by
  simp only [State.mountAsks]; simp

@[simp] theorem State.mountWalkAt_frame (m : Mount) (sector offset : Nat) (s : State) :
    (s.mountWalkAt m sector offset).link = s.link ∧ (s.mountWalkAt m sector offset).req = s.req ∧
    (s.mountWalkAt m sector offset).dir = s.dir ∧ (s.mountWalkAt m sector offset).wq = s.wq ∧
    (s.mountWalkAt m sector offset).grp = s.grp ∧ (s.mountWalkAt m sector offset).lw = s.lw ∧
    (s.mountWalkAt m sector offset).arr.op = s.arr.op ∧ (s.mountWalkAt m sector offset).arr.erase = s.arr.erase ∧
    (s.mountWalkAt m sector offset).flash = s.flash ∧ (s.mountWalkAt m sector offset).sm = s.sm ∧
    (s.mountWalkAt m sector offset).sup = s.sup ∧ (s.mountWalkAt m sector offset).dev = s.dev ∧
    (s.mountWalkAt m sector offset).seeds = s.seeds ∧ (s.mountWalkAt m sector offset).pending = s.pending := by
  simp only [State.mountWalkAt]; simp

@[simp] theorem State.mountComplete_frame (openAt : Option OpenSector) (m : Mount) (s : State) :
    (s.mountComplete openAt m).link.rx = s.link.rx ∧ (s.mountComplete openAt m).link.got = s.link.got ∧
    (s.mountComplete openAt m).link.gap = s.link.gap ∧ (s.mountComplete openAt m).link.rate = s.link.rate ∧
    (s.mountComplete openAt m).req = s.req ∧ (s.mountComplete openAt m).wq.entries = s.wq.entries ∧
    (s.mountComplete openAt m).wq.admission = s.wq.admission ∧
    (s.mountComplete openAt m).wq.charged = s.wq.charged ∧ (s.mountComplete openAt m).wq.frozen = s.wq.frozen ∧
    (s.mountComplete openAt m).grp = s.grp ∧ (s.mountComplete openAt m).arr = s.arr ∧
    (s.mountComplete openAt m).flash = s.flash ∧ (s.mountComplete openAt m).sm.wearDue = s.sm.wearDue ∧
    (s.mountComplete openAt m).sup = s.sup ∧ (s.mountComplete openAt m).dev.restartDue = s.dev.restartDue ∧
    (s.mountComplete openAt m).dev.restartLatch = s.dev.restartLatch ∧ (s.mountComplete openAt m).seeds = s.seeds ∧
    (s.mountComplete openAt m).pending = s.pending := by
  simp only [State.mountComplete]; simp

@[simp] theorem State.mountNext_frame (m : Mount) (s : State) :
    (s.mountNext m).link.rx = s.link.rx ∧ (s.mountNext m).link.got = s.link.got ∧
    (s.mountNext m).link.gap = s.link.gap ∧ (s.mountNext m).link.rate = s.link.rate ∧ (s.mountNext m).req = s.req ∧
    (s.mountNext m).wq.entries = s.wq.entries ∧ (s.mountNext m).wq.admission = s.wq.admission ∧
    (s.mountNext m).wq.charged = s.wq.charged ∧ (s.mountNext m).wq.frozen = s.wq.frozen ∧
    (s.mountNext m).grp = s.grp ∧ (s.mountNext m).arr.op = s.arr.op ∧ (s.mountNext m).arr.erase = s.arr.erase ∧
    (s.mountNext m).flash = s.flash ∧ (s.mountNext m).sm.wearDue = s.sm.wearDue ∧ (s.mountNext m).sup = s.sup ∧
    (s.mountNext m).dev.restartDue = s.dev.restartDue ∧ (s.mountNext m).dev.restartLatch = s.dev.restartLatch ∧
    (s.mountNext m).seeds = s.seeds ∧ (s.mountNext m).pending = s.pending := by
  simp only [State.mountNext]; (repeat' split) <;> simp

@[simp] theorem State.mountHeader_frame (words : List RawWord) (m : Mount) (s : State) :
    (s.mountHeader words m).link.rx = s.link.rx ∧ (s.mountHeader words m).link.got = s.link.got ∧
    (s.mountHeader words m).link.gap = s.link.gap ∧ (s.mountHeader words m).link.rate = s.link.rate ∧
    (s.mountHeader words m).req = s.req ∧ (s.mountHeader words m).wq.entries = s.wq.entries ∧
    (s.mountHeader words m).wq.admission = s.wq.admission ∧ (s.mountHeader words m).wq.charged = s.wq.charged ∧
    (s.mountHeader words m).wq.frozen = s.wq.frozen ∧ (s.mountHeader words m).grp = s.grp ∧
    (s.mountHeader words m).arr.op = s.arr.op ∧ (s.mountHeader words m).arr.erase = s.arr.erase ∧
    (s.mountHeader words m).flash = s.flash ∧ (s.mountHeader words m).sm.wearDue = s.sm.wearDue ∧
    (s.mountHeader words m).sup = s.sup ∧ (s.mountHeader words m).dev.restartDue = s.dev.restartDue ∧
    (s.mountHeader words m).dev.restartLatch = s.dev.restartLatch ∧ (s.mountHeader words m).seeds = s.seeds ∧
    (s.mountHeader words m).pending = s.pending := by
  simp only [State.mountHeader]; (repeat' split) <;> simp

@[simp] theorem State.mountChecked_frame (words : List RawWord) (m : Mount) (s : State) :
    (s.mountChecked words m).link.rx = s.link.rx ∧ (s.mountChecked words m).link.got = s.link.got ∧
    (s.mountChecked words m).link.gap = s.link.gap ∧ (s.mountChecked words m).link.rate = s.link.rate ∧
    (s.mountChecked words m).req = s.req ∧ (s.mountChecked words m).wq.entries = s.wq.entries ∧
    (s.mountChecked words m).wq.admission = s.wq.admission ∧ (s.mountChecked words m).wq.charged = s.wq.charged ∧
    (s.mountChecked words m).wq.frozen = s.wq.frozen ∧ (s.mountChecked words m).grp = s.grp ∧
    (s.mountChecked words m).arr.op = s.arr.op ∧ (s.mountChecked words m).arr.erase = s.arr.erase ∧
    (s.mountChecked words m).flash = s.flash ∧ (s.mountChecked words m).sm.wearDue = s.sm.wearDue ∧
    (s.mountChecked words m).sup = s.sup ∧ (s.mountChecked words m).dev.restartDue = s.dev.restartDue ∧
    (s.mountChecked words m).dev.restartLatch = s.dev.restartLatch ∧ (s.mountChecked words m).seeds = s.seeds ∧
    (s.mountChecked words m).pending = s.pending := by
  simp only [State.mountChecked]; (repeat' split) <;> simp

@[simp] theorem State.mountWalkEnds_frame (sector offset : Nat) (how : WalkEnd) (blank : Bool) (m : Mount) (s : State) :
    (s.mountWalkEnds sector offset how blank m).link.rx = s.link.rx ∧
    (s.mountWalkEnds sector offset how blank m).link.got = s.link.got ∧
    (s.mountWalkEnds sector offset how blank m).link.gap = s.link.gap ∧
    (s.mountWalkEnds sector offset how blank m).link.rate = s.link.rate ∧
    (s.mountWalkEnds sector offset how blank m).req = s.req ∧
    (s.mountWalkEnds sector offset how blank m).wq.entries = s.wq.entries ∧
    (s.mountWalkEnds sector offset how blank m).wq.admission = s.wq.admission ∧
    (s.mountWalkEnds sector offset how blank m).wq.charged = s.wq.charged ∧
    (s.mountWalkEnds sector offset how blank m).wq.frozen = s.wq.frozen ∧
    (s.mountWalkEnds sector offset how blank m).grp = s.grp ∧ (s.mountWalkEnds sector offset how blank m).arr.op = s.arr.op ∧
    (s.mountWalkEnds sector offset how blank m).arr.erase = s.arr.erase ∧
    (s.mountWalkEnds sector offset how blank m).flash = s.flash ∧
    (s.mountWalkEnds sector offset how blank m).sm.wearDue = s.sm.wearDue ∧
    (s.mountWalkEnds sector offset how blank m).sup = s.sup ∧
    (s.mountWalkEnds sector offset how blank m).dev.restartDue = s.dev.restartDue ∧
    (s.mountWalkEnds sector offset how blank m).dev.restartLatch = s.dev.restartLatch ∧
    (s.mountWalkEnds sector offset how blank m).seeds = s.seeds ∧
    (s.mountWalkEnds sector offset how blank m).pending = s.pending := by
  simp only [State.mountWalkEnds]; simp

@[simp] theorem State.mountWalkFirst_frame (words : List RawWord) (sector offset : Nat) (m : Mount) (s : State) :
    (s.mountWalkFirst words sector offset m).link.rx = s.link.rx ∧
    (s.mountWalkFirst words sector offset m).link.got = s.link.got ∧
    (s.mountWalkFirst words sector offset m).link.gap = s.link.gap ∧
    (s.mountWalkFirst words sector offset m).link.rate = s.link.rate ∧
    (s.mountWalkFirst words sector offset m).req = s.req ∧
    (s.mountWalkFirst words sector offset m).wq.entries = s.wq.entries ∧
    (s.mountWalkFirst words sector offset m).wq.admission = s.wq.admission ∧
    (s.mountWalkFirst words sector offset m).wq.charged = s.wq.charged ∧
    (s.mountWalkFirst words sector offset m).wq.frozen = s.wq.frozen ∧
    (s.mountWalkFirst words sector offset m).grp = s.grp ∧
    (s.mountWalkFirst words sector offset m).arr.op = s.arr.op ∧
    (s.mountWalkFirst words sector offset m).arr.erase = s.arr.erase ∧
    (s.mountWalkFirst words sector offset m).flash = s.flash ∧
    (s.mountWalkFirst words sector offset m).sm.wearDue = s.sm.wearDue ∧
    (s.mountWalkFirst words sector offset m).sup = s.sup ∧
    (s.mountWalkFirst words sector offset m).dev.restartDue = s.dev.restartDue ∧
    (s.mountWalkFirst words sector offset m).dev.restartLatch = s.dev.restartLatch ∧
    (s.mountWalkFirst words sector offset m).seeds = s.seeds ∧
    (s.mountWalkFirst words sector offset m).pending = s.pending := by
  simp only [State.mountWalkFirst]; (repeat' split) <;> simp

@[simp] theorem State.mountWalkRest_frame (first : RawWord) (words : List RawWord) (sector offset : Nat) (m : Mount) (s : State) :
    (s.mountWalkRest first words sector offset m).link.rx = s.link.rx ∧
    (s.mountWalkRest first words sector offset m).link.got = s.link.got ∧
    (s.mountWalkRest first words sector offset m).link.gap = s.link.gap ∧
    (s.mountWalkRest first words sector offset m).link.rate = s.link.rate ∧
    (s.mountWalkRest first words sector offset m).req = s.req ∧
    (s.mountWalkRest first words sector offset m).wq.entries = s.wq.entries ∧
    (s.mountWalkRest first words sector offset m).wq.admission = s.wq.admission ∧
    (s.mountWalkRest first words sector offset m).wq.charged = s.wq.charged ∧
    (s.mountWalkRest first words sector offset m).wq.frozen = s.wq.frozen ∧
    (s.mountWalkRest first words sector offset m).grp = s.grp ∧
    (s.mountWalkRest first words sector offset m).arr.op = s.arr.op ∧
    (s.mountWalkRest first words sector offset m).arr.erase = s.arr.erase ∧
    (s.mountWalkRest first words sector offset m).flash = s.flash ∧
    (s.mountWalkRest first words sector offset m).sm.wearDue = s.sm.wearDue ∧
    (s.mountWalkRest first words sector offset m).sup = s.sup ∧
    (s.mountWalkRest first words sector offset m).dev.restartDue = s.dev.restartDue ∧
    (s.mountWalkRest first words sector offset m).dev.restartLatch = s.dev.restartLatch ∧
    (s.mountWalkRest first words sector offset m).seeds = s.seeds ∧
    (s.mountWalkRest first words sector offset m).pending = s.pending := by
  simp only [State.mountWalkRest]; (repeat' split) <;> simp

@[simp] theorem State.mountRemainder_frame (words : List RawWord) (sector offset : Nat) (m : Mount) (s : State) :
    (s.mountRemainder words sector offset m).link.rx = s.link.rx ∧
    (s.mountRemainder words sector offset m).link.got = s.link.got ∧
    (s.mountRemainder words sector offset m).link.gap = s.link.gap ∧
    (s.mountRemainder words sector offset m).link.rate = s.link.rate ∧
    (s.mountRemainder words sector offset m).req = s.req ∧
    (s.mountRemainder words sector offset m).wq.entries = s.wq.entries ∧
    (s.mountRemainder words sector offset m).wq.admission = s.wq.admission ∧
    (s.mountRemainder words sector offset m).wq.charged = s.wq.charged ∧
    (s.mountRemainder words sector offset m).wq.frozen = s.wq.frozen ∧
    (s.mountRemainder words sector offset m).grp = s.grp ∧ (s.mountRemainder words sector offset m).arr = s.arr ∧
    (s.mountRemainder words sector offset m).flash = s.flash ∧
    (s.mountRemainder words sector offset m).sm.wearDue = s.sm.wearDue ∧
    (s.mountRemainder words sector offset m).sup = s.sup ∧
    (s.mountRemainder words sector offset m).dev.restartDue = s.dev.restartDue ∧
    (s.mountRemainder words sector offset m).dev.restartLatch = s.dev.restartLatch ∧
    (s.mountRemainder words sector offset m).seeds = s.seeds ∧
    (s.mountRemainder words sector offset m).pending = s.pending := by
  simp only [State.mountRemainder]; (repeat' split) <;> simp

@[simp] theorem State.mountRead_frame (words : List RawWord) (s : State) :
    (s.mountRead words).link.rx = s.link.rx ∧ (s.mountRead words).link.got = s.link.got ∧
    (s.mountRead words).link.gap = s.link.gap ∧ (s.mountRead words).link.rate = s.link.rate ∧
    (s.mountRead words).req = s.req ∧ (s.mountRead words).wq.entries = s.wq.entries ∧
    (s.mountRead words).wq.admission = s.wq.admission ∧ (s.mountRead words).wq.charged = s.wq.charged ∧
    (s.mountRead words).wq.frozen = s.wq.frozen ∧ (s.mountRead words).grp = s.grp ∧
    (s.mountRead words).arr.op = s.arr.op ∧ (s.mountRead words).arr.erase = s.arr.erase ∧
    (s.mountRead words).flash = s.flash ∧ (s.mountRead words).sm.wearDue = s.sm.wearDue ∧
    (s.mountRead words).sup = s.sup ∧ (s.mountRead words).dev.restartDue = s.dev.restartDue ∧
    (s.mountRead words).dev.restartLatch = s.dev.restartLatch ∧ (s.mountRead words).seeds = s.seeds ∧
    (s.mountRead words).pending = s.pending := by
  simp only [State.mountRead]; (repeat' split) <;> simp

@[simp] theorem State.startWord_frame (w : WordReq) (s : State) :
    (s.startWord w).link = s.link ∧ (s.startWord w).req = s.req ∧ (s.startWord w).dir = s.dir ∧
    (s.startWord w).wq = s.wq ∧ (s.startWord w).grp = s.grp ∧ (s.startWord w).lw.openAt = s.lw.openAt ∧
    (s.startWord w).arr.erase = s.arr.erase ∧ (s.startWord w).flash = s.flash ∧ (s.startWord w).sm = s.sm ∧
    (s.startWord w).mount = s.mount ∧ (s.startWord w).sup = s.sup ∧ (s.startWord w).dev = s.dev ∧
    (s.startWord w).seeds = s.seeds ∧ (s.startWord w).pending = s.pending := by
  simp only [State.startWord]; (repeat' split) <;> simp

@[simp] theorem State.startErase_frame (r : EraseReq) (s : State) :
    (s.startErase r).link = s.link ∧ (s.startErase r).req = s.req ∧ (s.startErase r).dir.entries = s.dir.entries ∧
    (s.startErase r).dir.limit = s.dir.limit ∧ (s.startErase r).wq = s.wq ∧ (s.startErase r).grp = s.grp ∧
    (s.startErase r).lw = s.lw ∧ (s.startErase r).arr.op = s.arr.op ∧ (s.startErase r).sm = s.sm ∧
    (s.startErase r).mount = s.mount ∧ (s.startErase r).sup = s.sup ∧ (s.startErase r).dev = s.dev ∧
    (s.startErase r).pending = s.pending := by
  simp only [State.startErase]; simp

@[simp] theorem State.scheduleErase_frame (s : State) :
    s.scheduleErase.link = s.link ∧ s.scheduleErase.req = s.req ∧ s.scheduleErase.dir.entries = s.dir.entries ∧
    s.scheduleErase.dir.limit = s.dir.limit ∧ s.scheduleErase.wq = s.wq ∧ s.scheduleErase.grp = s.grp ∧
    s.scheduleErase.lw = s.lw ∧ s.scheduleErase.arr.op = s.arr.op ∧ s.scheduleErase.sm = s.sm ∧
    s.scheduleErase.mount = s.mount ∧ s.scheduleErase.sup = s.sup ∧ s.scheduleErase.dev = s.dev ∧
    s.scheduleErase.pending = s.pending := by
  simp only [State.scheduleErase]; (repeat' split) <;> simp

@[simp] theorem State.schedule_frame (s : State) :
    s.schedule.link = s.link ∧ s.schedule.req = s.req ∧ s.schedule.dir.entries = s.dir.entries ∧
    s.schedule.dir.limit = s.dir.limit ∧ s.schedule.wq = s.wq ∧ s.schedule.grp = s.grp ∧
    s.schedule.lw.openAt = s.lw.openAt ∧ s.schedule.sm = s.sm ∧ s.schedule.mount = s.mount ∧
    s.schedule.sup = s.sup ∧ s.schedule.dev = s.dev ∧ s.schedule.pending = s.pending := by
  simp only [State.schedule]; (repeat' split) <;> simp

@[simp] theorem State.relieve_frame (s : State) :
    s.relieve.link.rx = s.link.rx ∧ s.relieve.link.got = s.link.got ∧ s.relieve.link.gap = s.link.gap ∧
    s.relieve.link.rate = s.link.rate ∧ s.relieve.req.session = s.req.session ∧ s.relieve.dir.limit = s.dir.limit ∧
    s.relieve.wq.admission = s.wq.admission ∧ s.relieve.wq.frozen = s.wq.frozen ∧ s.relieve.grp = s.grp ∧
    s.relieve.lw.openAt = s.lw.openAt ∧ s.relieve.arr = s.arr ∧ s.relieve.flash = s.flash ∧
    s.relieve.sm.table = s.sm.table ∧ s.relieve.sm.wearDue = s.sm.wearDue ∧ s.relieve.sm.epoch = s.sm.epoch ∧
    s.relieve.mount = s.mount ∧ s.relieve.sup.condition = s.sup.condition ∧
    s.relieve.dev.restartDue = s.dev.restartDue ∧ s.relieve.dev.restartLatch = s.dev.restartLatch ∧
    s.relieve.seeds = s.seeds ∧ s.relieve.pending = s.pending := by
  simp only [State.relieve]; (repeat' split) <;> simp

@[simp] theorem State.drainReport_frame (s : State) :
    s.drainReport.link.rx = s.link.rx ∧ s.drainReport.link.got = s.link.got ∧ s.drainReport.link.gap = s.link.gap ∧
    s.drainReport.link.rate = s.link.rate ∧ s.drainReport.req.session = s.req.session ∧ s.drainReport.dir = s.dir ∧
    s.drainReport.wq = s.wq ∧ s.drainReport.grp = s.grp ∧ s.drainReport.lw = s.lw ∧ s.drainReport.arr = s.arr ∧
    s.drainReport.flash = s.flash ∧ s.drainReport.sm = s.sm ∧ s.drainReport.mount = s.mount ∧
    s.drainReport.sup = s.sup ∧ s.drainReport.dev.state = s.dev.state ∧ s.drainReport.seeds = s.seeds ∧
    s.drainReport.pending = s.pending := by
  simp only [State.drainReport]; (repeat' split) <;> simp

@[simp] theorem State.cutTarget_frame (sector index : Nat) (data : Word) (role : WordRole) (s : State) :
    (s.cutTarget sector index data role).link = s.link ∧ (s.cutTarget sector index data role).req = s.req ∧
    (s.cutTarget sector index data role).dir = s.dir ∧ (s.cutTarget sector index data role).wq = s.wq ∧
    (s.cutTarget sector index data role).grp = s.grp ∧ (s.cutTarget sector index data role).lw = s.lw ∧
    (s.cutTarget sector index data role).arr = s.arr ∧ (s.cutTarget sector index data role).sm = s.sm ∧
    (s.cutTarget sector index data role).mount = s.mount ∧ (s.cutTarget sector index data role).sup = s.sup ∧
    (s.cutTarget sector index data role).dev = s.dev ∧ (s.cutTarget sector index data role).pending = s.pending := by
  simp only [State.cutTarget]; (repeat' split) <;> simp

@[simp] theorem State.cutArray_frame (s : State) :
    s.cutArray.link = s.link ∧ s.cutArray.req = s.req ∧ s.cutArray.dir = s.dir ∧ s.cutArray.wq = s.wq ∧
    s.cutArray.grp = s.grp ∧ s.cutArray.lw = s.lw ∧ s.cutArray.sm = s.sm ∧ s.cutArray.mount = s.mount ∧
    s.cutArray.sup = s.sup ∧ s.cutArray.dev = s.dev ∧ s.cutArray.pending = s.pending := by
  simp only [State.cutArray]; (repeat' split) <;> simp

@[simp] theorem State.restart_frame (s : State) :
    s.restart.pending = s.pending := by
  simp only [State.restart]; (repeat' split) <;> simp

@[simp] theorem State.conclude_frame (s : State) :
    s.conclude.pending = s.pending := by
  simp only [State.conclude]; (repeat' split) <;> simp

@[simp] theorem State.getRead_frame (tag : Byte) (k : Key) (d : DurablePart) (s : State) :
    (s.getRead tag k d).link.rx = s.link.rx ∧ (s.getRead tag k d).link.got = s.link.got ∧
    (s.getRead tag k d).link.gap = s.link.gap ∧ (s.getRead tag k d).link.rate = s.link.rate ∧
    (s.getRead tag k d).req.session = s.req.session ∧ (s.getRead tag k d).dir.entries = s.dir.entries ∧
    (s.getRead tag k d).dir.limit = s.dir.limit ∧ (s.getRead tag k d).wq = s.wq ∧ (s.getRead tag k d).grp = s.grp ∧
    (s.getRead tag k d).lw.openAt = s.lw.openAt ∧ (s.getRead tag k d).sm.wearDue = s.sm.wearDue ∧
    (s.getRead tag k d).sm.epoch = s.sm.epoch ∧ (s.getRead tag k d).mount = s.mount ∧
    (s.getRead tag k d).sup = s.sup ∧ (s.getRead tag k d).dev = s.dev ∧ (s.getRead tag k d).pending = s.pending := by
  simp only [State.getRead]; simp

@[simp] theorem State.getPresent_frame (tag : Byte) (k : Key) (e : Entry) (s : State) :
    (s.getPresent tag k e).link.rx = s.link.rx ∧ (s.getPresent tag k e).link.got = s.link.got ∧
    (s.getPresent tag k e).link.gap = s.link.gap ∧ (s.getPresent tag k e).link.rate = s.link.rate ∧
    (s.getPresent tag k e).req.session = s.req.session ∧ (s.getPresent tag k e).dir.entries = s.dir.entries ∧
    (s.getPresent tag k e).dir.limit = s.dir.limit ∧ (s.getPresent tag k e).wq = s.wq ∧
    (s.getPresent tag k e).grp = s.grp ∧ (s.getPresent tag k e).lw.openAt = s.lw.openAt ∧
    (s.getPresent tag k e).sm.wearDue = s.sm.wearDue ∧ (s.getPresent tag k e).sm.epoch = s.sm.epoch ∧
    (s.getPresent tag k e).mount = s.mount ∧ (s.getPresent tag k e).sup = s.sup ∧
    (s.getPresent tag k e).dev = s.dev ∧ (s.getPresent tag k e).pending = s.pending := by
  simp only [State.getPresent]; (repeat' split) <;> simp

@[simp] theorem State.actGet_frame (tag : Byte) (k : Key) (s : State) :
    (s.actGet tag k).link.rx = s.link.rx ∧ (s.actGet tag k).link.got = s.link.got ∧
    (s.actGet tag k).link.gap = s.link.gap ∧ (s.actGet tag k).link.rate = s.link.rate ∧
    (s.actGet tag k).req.session = s.req.session ∧ (s.actGet tag k).dir.entries = s.dir.entries ∧
    (s.actGet tag k).dir.limit = s.dir.limit ∧ (s.actGet tag k).wq = s.wq ∧ (s.actGet tag k).grp = s.grp ∧
    (s.actGet tag k).lw.openAt = s.lw.openAt ∧ (s.actGet tag k).sm.wearDue = s.sm.wearDue ∧
    (s.actGet tag k).sm.epoch = s.sm.epoch ∧ (s.actGet tag k).mount = s.mount ∧ (s.actGet tag k).sup = s.sup ∧
    (s.actGet tag k).dev = s.dev ∧ (s.actGet tag k).pending = s.pending := by
  simp only [State.actGet]; (repeat' split) <;> simp

@[simp] theorem State.actStat_frame (tag : Byte) (k : Key) (s : State) :
    (s.actStat tag k).link.rx = s.link.rx ∧ (s.actStat tag k).link.got = s.link.got ∧
    (s.actStat tag k).link.gap = s.link.gap ∧ (s.actStat tag k).link.rate = s.link.rate ∧
    (s.actStat tag k).req.session = s.req.session ∧ (s.actStat tag k).dir = s.dir ∧ (s.actStat tag k).wq = s.wq ∧
    (s.actStat tag k).grp = s.grp ∧ (s.actStat tag k).lw = s.lw ∧ (s.actStat tag k).arr = s.arr ∧
    (s.actStat tag k).flash = s.flash ∧ (s.actStat tag k).sm = s.sm ∧ (s.actStat tag k).mount = s.mount ∧
    (s.actStat tag k).sup = s.sup ∧ (s.actStat tag k).dev = s.dev ∧ (s.actStat tag k).seeds = s.seeds ∧
    (s.actStat tag k).pending = s.pending := by
  simp only [State.actStat]; (repeat' split) <;> simp

@[simp] theorem State.listStep_frame (tag : Byte) (l : Listing) (s : State) :
    (s.listStep tag l).link.rx = s.link.rx ∧ (s.listStep tag l).link.got = s.link.got ∧
    (s.listStep tag l).link.gap = s.link.gap ∧ (s.listStep tag l).link.rate = s.link.rate ∧
    (s.listStep tag l).req.session = s.req.session ∧ (s.listStep tag l).dir = s.dir ∧
    (s.listStep tag l).wq = s.wq ∧ (s.listStep tag l).grp = s.grp ∧ (s.listStep tag l).lw = s.lw ∧
    (s.listStep tag l).arr = s.arr ∧ (s.listStep tag l).flash = s.flash ∧ (s.listStep tag l).sm = s.sm ∧
    (s.listStep tag l).mount = s.mount ∧ (s.listStep tag l).sup = s.sup ∧ (s.listStep tag l).dev = s.dev ∧
    (s.listStep tag l).seeds = s.seeds ∧ (s.listStep tag l).pending = s.pending := by
  simp only [State.listStep]; (repeat' split) <;> simp

@[simp] theorem State.actList_frame (tag : Byte) (after : Option Key) (max : Nat) (s : State) :
    (s.actList tag after max).link.rx = s.link.rx ∧ (s.actList tag after max).link.got = s.link.got ∧
    (s.actList tag after max).link.gap = s.link.gap ∧ (s.actList tag after max).link.rate = s.link.rate ∧
    (s.actList tag after max).req.session = s.req.session ∧ (s.actList tag after max).dir = s.dir ∧
    (s.actList tag after max).wq = s.wq ∧ (s.actList tag after max).grp = s.grp ∧
    (s.actList tag after max).lw = s.lw ∧ (s.actList tag after max).arr = s.arr ∧
    (s.actList tag after max).flash = s.flash ∧ (s.actList tag after max).sm = s.sm ∧
    (s.actList tag after max).mount = s.mount ∧ (s.actList tag after max).sup = s.sup ∧
    (s.actList tag after max).dev = s.dev ∧ (s.actList tag after max).seeds = s.seeds ∧
    (s.actList tag after max).pending = s.pending := by
  simp only [State.actList]; simp

@[simp] theorem State.actBegin_frame (tag : Byte) (s : State) :
    (s.actBegin tag).link.rx = s.link.rx ∧ (s.actBegin tag).link.got = s.link.got ∧
    (s.actBegin tag).link.gap = s.link.gap ∧ (s.actBegin tag).link.rate = s.link.rate ∧
    (s.actBegin tag).req.session = s.req.session ∧ (s.actBegin tag).dir = s.dir ∧ (s.actBegin tag).wq = s.wq ∧
    (s.actBegin tag).lw = s.lw ∧ (s.actBegin tag).arr = s.arr ∧ (s.actBegin tag).flash = s.flash ∧
    (s.actBegin tag).sm = s.sm ∧ (s.actBegin tag).mount = s.mount ∧ (s.actBegin tag).sup = s.sup ∧
    (s.actBegin tag).dev = s.dev ∧ (s.actBegin tag).seeds = s.seeds ∧ (s.actBegin tag).pending = s.pending := by
  simp only [State.actBegin]; (repeat' split) <;> simp

@[simp] theorem State.actSpace_frame (tag : Byte) (s : State) :
    (s.actSpace tag).link.rx = s.link.rx ∧ (s.actSpace tag).link.got = s.link.got ∧
    (s.actSpace tag).link.gap = s.link.gap ∧ (s.actSpace tag).link.rate = s.link.rate ∧
    (s.actSpace tag).req.session = s.req.session ∧ (s.actSpace tag).dir = s.dir ∧ (s.actSpace tag).wq = s.wq ∧
    (s.actSpace tag).grp = s.grp ∧ (s.actSpace tag).lw = s.lw ∧ (s.actSpace tag).arr = s.arr ∧
    (s.actSpace tag).flash = s.flash ∧ (s.actSpace tag).sm = s.sm ∧ (s.actSpace tag).mount = s.mount ∧
    (s.actSpace tag).sup = s.sup ∧ (s.actSpace tag).dev = s.dev ∧ (s.actSpace tag).seeds = s.seeds ∧
    (s.actSpace tag).pending = s.pending := by
  simp only [State.actSpace]; simp

@[simp] theorem State.actSectors_frame (tag : Byte) (first count : Nat) (s : State) :
    (s.actSectors tag first count).link.rx = s.link.rx ∧ (s.actSectors tag first count).link.got = s.link.got ∧
    (s.actSectors tag first count).link.gap = s.link.gap ∧ (s.actSectors tag first count).link.rate = s.link.rate ∧
    (s.actSectors tag first count).req.session = s.req.session ∧ (s.actSectors tag first count).dir = s.dir ∧
    (s.actSectors tag first count).wq = s.wq ∧ (s.actSectors tag first count).grp = s.grp ∧
    (s.actSectors tag first count).lw = s.lw ∧ (s.actSectors tag first count).arr = s.arr ∧
    (s.actSectors tag first count).flash = s.flash ∧ (s.actSectors tag first count).sm = s.sm ∧
    (s.actSectors tag first count).mount = s.mount ∧ (s.actSectors tag first count).sup = s.sup ∧
    (s.actSectors tag first count).dev = s.dev ∧ (s.actSectors tag first count).seeds = s.seeds ∧
    (s.actSectors tag first count).pending = s.pending := by
  simp only [State.actSectors]; simp

@[simp] theorem State.consultFor_frame (tag : Byte) (s : State) :
    (s.consultFor tag).pending = s.pending ∧ (s.consultFor tag).dev = s.dev ∧ (s.consultFor tag).dir = s.dir ∧
    (s.consultFor tag).wq = s.wq ∧ (s.consultFor tag).grp = s.grp ∧ (s.consultFor tag).lw = s.lw ∧
    (s.consultFor tag).arr = s.arr ∧ (s.consultFor tag).flash = s.flash ∧ (s.consultFor tag).sm = s.sm ∧
    (s.consultFor tag).mount = s.mount ∧ (s.consultFor tag).sup = s.sup ∧ (s.consultFor tag).seeds = s.seeds := by
  simp only [State.consultFor]; simp

@[simp] theorem State.resetReply_frame (tag : Byte) (s : State) :
    (s.resetReply tag).pending = s.pending := by
  simp only [State.resetReply]; (repeat' split) <;> simp

@[simp] theorem State.resetDiscard_frame (tag : Byte) (s : State) :
    (s.resetDiscard tag).pending = s.pending := by
  simp only [State.resetDiscard]; simp

@[simp] theorem State.resetDrain_frame (tag : Byte) (s : State) :
    (s.resetDrain tag).pending = s.pending := by
  simp only [State.resetDrain]; (repeat' split) <;> simp

@[simp] theorem State.actReset_frame (tag : Byte) (mode : ResetMode) (s : State) :
    (s.actReset tag mode).pending = s.pending := by
  simp only [State.actReset]; (repeat' split) <;> simp

@[simp] theorem State.helloReply_frame (tag : Byte) (id : Nat) (baud : Option Nat) (s : State) :
    (s.helloReply tag id baud).link.rx = s.link.rx ∧ (s.helloReply tag id baud).link.got = s.link.got ∧
    (s.helloReply tag id baud).link.gap = s.link.gap ∧ (s.helloReply tag id baud).link.rate = s.link.rate ∧
    (s.helloReply tag id baud).req = s.req ∧ (s.helloReply tag id baud).dir = s.dir ∧
    (s.helloReply tag id baud).wq = s.wq ∧ (s.helloReply tag id baud).grp = s.grp ∧
    (s.helloReply tag id baud).lw = s.lw ∧ (s.helloReply tag id baud).arr = s.arr ∧
    (s.helloReply tag id baud).flash = s.flash ∧ (s.helloReply tag id baud).sm = s.sm ∧
    (s.helloReply tag id baud).mount = s.mount ∧ (s.helloReply tag id baud).sup = s.sup ∧
    (s.helloReply tag id baud).dev = s.dev ∧ (s.helloReply tag id baud).seeds = s.seeds ∧
    (s.helloReply tag id baud).pending = s.pending := by
  simp only [State.helloReply]; simp

@[simp] theorem State.discardFrame_frame (s : State) :
    s.discardFrame.req = s.req ∧ s.discardFrame.dir = s.dir ∧ s.discardFrame.wq = s.wq ∧
    s.discardFrame.grp = s.grp ∧ s.discardFrame.lw = s.lw ∧ s.discardFrame.arr = s.arr ∧
    s.discardFrame.flash = s.flash ∧ s.discardFrame.sm = s.sm ∧ s.discardFrame.mount = s.mount ∧
    s.discardFrame.sup = s.sup ∧ s.discardFrame.dev = s.dev ∧ s.discardFrame.seeds = s.seeds ∧
    s.discardFrame.pending = s.pending := by
  simp only [State.discardFrame]; simp

@[simp] theorem State.headerByte_frame (c : Byte) (s : State) :
    (s.headerByte c).req = s.req ∧ (s.headerByte c).dir = s.dir ∧ (s.headerByte c).wq = s.wq ∧
    (s.headerByte c).grp = s.grp ∧ (s.headerByte c).lw = s.lw ∧ (s.headerByte c).arr = s.arr ∧
    (s.headerByte c).flash = s.flash ∧ (s.headerByte c).sm = s.sm ∧ (s.headerByte c).mount = s.mount ∧
    (s.headerByte c).sup = s.sup ∧ (s.headerByte c).dev = s.dev ∧ (s.headerByte c).seeds = s.seeds ∧
    (s.headerByte c).pending = s.pending := by
  simp only [State.headerByte]; (repeat' split) <;> simp

@[simp] theorem State.payloadByte_frame (c : Byte) (s : State) :
    (s.payloadByte c).link.rate = s.link.rate ∧ (s.payloadByte c).req = s.req ∧ (s.payloadByte c).dir = s.dir ∧
    (s.payloadByte c).wq = s.wq ∧ (s.payloadByte c).grp = s.grp ∧ (s.payloadByte c).lw = s.lw ∧
    (s.payloadByte c).arr = s.arr ∧ (s.payloadByte c).flash = s.flash ∧ (s.payloadByte c).sm = s.sm ∧
    (s.payloadByte c).mount = s.mount ∧ (s.payloadByte c).sup = s.sup ∧ (s.payloadByte c).dev = s.dev ∧
    (s.payloadByte c).seeds = s.seeds ∧ (s.payloadByte c).pending = s.pending := by
  simp only [State.payloadByte]; (repeat' split) <;> simp

@[simp] theorem State.framingError_frame (s : State) :
    s.framingError.req = s.req ∧ s.framingError.dir = s.dir ∧ s.framingError.wq = s.wq ∧
    s.framingError.grp = s.grp ∧ s.framingError.lw = s.lw ∧ s.framingError.arr = s.arr ∧
    s.framingError.flash = s.flash ∧ s.framingError.sm = s.sm ∧ s.framingError.mount = s.mount ∧
    s.framingError.sup = s.sup ∧ s.framingError.dev = s.dev ∧ s.framingError.seeds = s.seeds ∧
    s.framingError.pending = s.pending := by
  simp only [State.framingError]; (repeat' split) <;> simp

@[simp] theorem State.changeRate_frame (b : Nat) (s : State) :
    (s.changeRate b).req = s.req ∧ (s.changeRate b).dir = s.dir ∧ (s.changeRate b).wq = s.wq ∧
    (s.changeRate b).grp = s.grp ∧ (s.changeRate b).lw = s.lw ∧ (s.changeRate b).arr = s.arr ∧
    (s.changeRate b).flash = s.flash ∧ (s.changeRate b).sm = s.sm ∧ (s.changeRate b).mount = s.mount ∧
    (s.changeRate b).sup = s.sup ∧ (s.changeRate b).dev = s.dev ∧ (s.changeRate b).seeds = s.seeds ∧
    (s.changeRate b).pending = s.pending := by
  simp only [State.changeRate]; (repeat' split) <;> simp

@[simp] theorem State.frameLeaves_frame (e : TxFrame) (s : State) :
    (s.frameLeaves e).pending = s.pending := by
  simp only [State.frameLeaves]; (repeat' split) <;> simp

@[simp] theorem State.takeBreak_frame (s : State) :
    s.takeBreak.pending = s.pending := by
  simp only [State.takeBreak]; (repeat' split) <;> simp

@[simp] theorem State.endRead_frame (r : ReadReq) (decayed : List (Nat × RawWord)) (s : State) :
    (s.endRead r decayed).link = s.link ∧ (s.endRead r decayed).req = s.req ∧ (s.endRead r decayed).dir = s.dir ∧
    (s.endRead r decayed).wq = s.wq ∧ (s.endRead r decayed).grp = s.grp ∧ (s.endRead r decayed).lw = s.lw ∧
    (s.endRead r decayed).arr.erase = s.arr.erase ∧ (s.endRead r decayed).sm = s.sm ∧
    (s.endRead r decayed).mount = s.mount ∧ (s.endRead r decayed).sup = s.sup ∧ (s.endRead r decayed).dev = s.dev ∧
    (s.endRead r decayed).seeds = s.seeds ∧ (s.endRead r decayed).pending = s.pending := by
  simp only [State.endRead]; simp

@[simp] theorem State.getAnswer_frame (tag : Byte) (d : ReadDescriptor) (words : List RawWord) (s : State) :
    (s.getAnswer tag d words).link.rx = s.link.rx ∧ (s.getAnswer tag d words).link.got = s.link.got ∧
    (s.getAnswer tag d words).link.gap = s.link.gap ∧ (s.getAnswer tag d words).link.rate = s.link.rate ∧
    (s.getAnswer tag d words).req.session = s.req.session ∧ (s.getAnswer tag d words).dir = s.dir ∧
    (s.getAnswer tag d words).wq = s.wq ∧ (s.getAnswer tag d words).grp = s.grp ∧
    (s.getAnswer tag d words).lw = s.lw ∧ (s.getAnswer tag d words).arr = s.arr ∧
    (s.getAnswer tag d words).flash = s.flash ∧ (s.getAnswer tag d words).sm = s.sm ∧
    (s.getAnswer tag d words).mount = s.mount ∧ (s.getAnswer tag d words).sup = s.sup ∧
    (s.getAnswer tag d words).dev = s.dev ∧ (s.getAnswer tag d words).seeds = s.seeds ∧
    (s.getAnswer tag d words).pending = s.pending := by
  simp only [State.getAnswer]; (repeat' split) <;> simp

@[simp] theorem State.getDone_frame (tag : Byte) (r : ReadReq) (words : List RawWord) (s : State) :
    (s.getDone tag r words).link.rx = s.link.rx ∧ (s.getDone tag r words).link.got = s.link.got ∧
    (s.getDone tag r words).link.gap = s.link.gap ∧ (s.getDone tag r words).link.rate = s.link.rate ∧
    (s.getDone tag r words).req.session = s.req.session ∧ (s.getDone tag r words).dir = s.dir ∧
    (s.getDone tag r words).wq = s.wq ∧ (s.getDone tag r words).grp = s.grp ∧ (s.getDone tag r words).lw = s.lw ∧
    (s.getDone tag r words).arr = s.arr ∧ (s.getDone tag r words).flash = s.flash ∧
    (s.getDone tag r words).sm.wearDue = s.sm.wearDue ∧ (s.getDone tag r words).sm.epoch = s.sm.epoch ∧
    (s.getDone tag r words).mount = s.mount ∧ (s.getDone tag r words).sup = s.sup ∧
    (s.getDone tag r words).dev = s.dev ∧ (s.getDone tag r words).seeds = s.seeds ∧
    (s.getDone tag r words).pending = s.pending := by
  simp only [State.getDone]; (repeat' split) <;> simp

@[simp] theorem State.reclaimDone_frame (r : ReadReq) (words : List RawWord) (s : State) :
    (s.reclaimDone r words).link.rx = s.link.rx ∧ (s.reclaimDone r words).link.got = s.link.got ∧
    (s.reclaimDone r words).link.gap = s.link.gap ∧ (s.reclaimDone r words).link.rate = s.link.rate ∧
    (s.reclaimDone r words).req = s.req ∧ (s.reclaimDone r words).dir.limit = s.dir.limit ∧
    (s.reclaimDone r words).wq = s.wq ∧ (s.reclaimDone r words).grp = s.grp ∧
    (s.reclaimDone r words).lw.openAt = s.lw.openAt ∧ (s.reclaimDone r words).arr.op = s.arr.op ∧
    (s.reclaimDone r words).arr.erase = s.arr.erase ∧ (s.reclaimDone r words).flash = s.flash ∧
    (s.reclaimDone r words).sm.wearDue = s.sm.wearDue ∧ (s.reclaimDone r words).sm.epoch = s.sm.epoch ∧
    (s.reclaimDone r words).mount = s.mount ∧ (s.reclaimDone r words).sup = s.sup ∧
    (s.reclaimDone r words).dev = s.dev ∧ (s.reclaimDone r words).seeds = s.seeds ∧
    (s.reclaimDone r words).pending = s.pending := by
  simp only [State.reclaimDone]; (repeat' split) <;> simp

@[simp] theorem State.programWord_frame (sector index : Nat) (data : Word) (role : WordRole) (verified : Bool) (s : State) :
    (s.programWord sector index data role verified).link = s.link ∧
    (s.programWord sector index data role verified).req = s.req ∧
    (s.programWord sector index data role verified).dir = s.dir ∧ (s.programWord sector index data role verified).wq = s.wq ∧
    (s.programWord sector index data role verified).grp = s.grp ∧ (s.programWord sector index data role verified).lw = s.lw ∧
    (s.programWord sector index data role verified).arr = s.arr ∧ (s.programWord sector index data role verified).sm = s.sm ∧
    (s.programWord sector index data role verified).mount = s.mount ∧
    (s.programWord sector index data role verified).sup = s.sup ∧
    (s.programWord sector index data role verified).dev = s.dev ∧
    (s.programWord sector index data role verified).pending = s.pending := by
  simp only [State.programWord]; (repeat' split) <;> simp

@[simp] theorem State.endWord_frame (w : WordReq) (verified : Bool) (s : State) :
    (s.endWord w verified).link.rx = s.link.rx ∧ (s.endWord w verified).link.got = s.link.got ∧
    (s.endWord w verified).link.gap = s.link.gap ∧ (s.endWord w verified).link.rate = s.link.rate ∧
    (s.endWord w verified).req.session = s.req.session ∧ (s.endWord w verified).dir.limit = s.dir.limit ∧
    (s.endWord w verified).wq.admission = s.wq.admission ∧ (s.endWord w verified).wq.frozen = s.wq.frozen ∧
    (s.endWord w verified).grp = s.grp ∧ (s.endWord w verified).arr.erase = s.arr.erase ∧
    (s.endWord w verified).sm.wearDue = s.sm.wearDue ∧ (s.endWord w verified).sm.epoch = s.sm.epoch ∧
    (s.endWord w verified).mount = s.mount ∧ (s.endWord w verified).sup.condition = s.sup.condition ∧
    (s.endWord w verified).dev.restartDue = s.dev.restartDue ∧
    (s.endWord w verified).dev.restartLatch = s.dev.restartLatch ∧ (s.endWord w verified).pending = s.pending := by
  simp only [State.endWord]; simp

@[simp] theorem State.endHeader_frame (r : EraseReq) (verified : Bool) (s : State) :
    (s.endHeader r verified).link.rx = s.link.rx ∧ (s.endHeader r verified).link.got = s.link.got ∧
    (s.endHeader r verified).link.gap = s.link.gap ∧ (s.endHeader r verified).link.rate = s.link.rate ∧
    (s.endHeader r verified).req.session = s.req.session ∧ (s.endHeader r verified).dir.entries = s.dir.entries ∧
    (s.endHeader r verified).wq = s.wq ∧ (s.endHeader r verified).grp = s.grp ∧
    (s.endHeader r verified).lw = s.lw ∧ (s.endHeader r verified).arr.op = s.arr.op ∧
    (s.endHeader r verified).sm.epoch = s.sm.epoch ∧ (s.endHeader r verified).mount = s.mount ∧
    (s.endHeader r verified).sup = s.sup ∧ (s.endHeader r verified).dev.restartDue = s.dev.restartDue ∧
    (s.endHeader r verified).dev.restartLatch = s.dev.restartLatch ∧ (s.endHeader r verified).pending = s.pending := by
  simp only [State.endHeader]; (repeat' split) <;> simp

@[simp] theorem State.abandonErase_frame (s : State) :
    s.abandonErase.link.rx = s.link.rx ∧ s.abandonErase.link.got = s.link.got ∧
    s.abandonErase.link.gap = s.link.gap ∧ s.abandonErase.link.rate = s.link.rate ∧
    s.abandonErase.req.session = s.req.session ∧ s.abandonErase.dir.entries = s.dir.entries ∧
    s.abandonErase.wq = s.wq ∧ s.abandonErase.grp = s.grp ∧ s.abandonErase.lw = s.lw ∧
    s.abandonErase.arr.op = s.arr.op ∧ s.abandonErase.sm.epoch = s.sm.epoch ∧ s.abandonErase.mount = s.mount ∧
    s.abandonErase.sup = s.sup ∧ s.abandonErase.dev.restartDue = s.dev.restartDue ∧
    s.abandonErase.dev.restartLatch = s.dev.restartLatch ∧ s.abandonErase.pending = s.pending := by
  simp only [State.abandonErase]; (repeat' split) <;> simp

@[simp] theorem State.enterHold_frame (s : State) :
    s.enterHold.link.rx = s.link.rx ∧ s.enterHold.link.got = s.link.got ∧ s.enterHold.link.gap = s.link.gap ∧
    s.enterHold.link.rate = s.link.rate ∧ s.enterHold.req.session = s.req.session ∧
    s.enterHold.dir.entries = s.dir.entries ∧ s.enterHold.wq = s.wq ∧ s.enterHold.grp = s.grp ∧
    s.enterHold.lw = s.lw ∧ s.enterHold.arr.op = s.arr.op ∧ s.enterHold.sm.epoch = s.sm.epoch ∧
    s.enterHold.mount = s.mount ∧ s.enterHold.dev.restartDue = s.dev.restartDue ∧
    s.enterHold.dev.restartLatch = s.dev.restartLatch ∧ s.enterHold.pending = s.pending := by
  simp only [State.enterHold]; simp

@[simp] theorem State.enterNormal_frame (s : State) :
    s.enterNormal.link.rx = s.link.rx ∧ s.enterNormal.link.got = s.link.got ∧ s.enterNormal.link.gap = s.link.gap ∧
    s.enterNormal.link.rate = s.link.rate ∧ s.enterNormal.req = s.req ∧ s.enterNormal.dir = s.dir ∧
    s.enterNormal.wq = s.wq ∧ s.enterNormal.grp = s.grp ∧ s.enterNormal.lw = s.lw ∧ s.enterNormal.arr = s.arr ∧
    s.enterNormal.flash = s.flash ∧ s.enterNormal.sm = s.sm ∧ s.enterNormal.mount = s.mount ∧
    s.enterNormal.dev = s.dev ∧ s.enterNormal.seeds = s.seeds ∧ s.enterNormal.pending = s.pending := by
  simp only [State.enterNormal]; simp

@[simp] theorem State.holdExpires_frame (s : State) :
    s.holdExpires.link.rx = s.link.rx ∧ s.holdExpires.link.got = s.link.got ∧ s.holdExpires.link.gap = s.link.gap ∧
    s.holdExpires.link.rate = s.link.rate ∧ s.holdExpires.req.session = s.req.session ∧
    s.holdExpires.dir.limit = s.dir.limit ∧ s.holdExpires.wq.admission = s.wq.admission ∧
    s.holdExpires.wq.frozen = s.wq.frozen ∧ s.holdExpires.grp = s.grp ∧ s.holdExpires.arr.erase = s.arr.erase ∧
    s.holdExpires.flash = s.flash ∧ s.holdExpires.sm.wearDue = s.sm.wearDue ∧ s.holdExpires.sm.epoch = s.sm.epoch ∧
    s.holdExpires.mount = s.mount ∧ s.holdExpires.sup.condition = s.sup.condition ∧ s.holdExpires.dev = s.dev ∧
    s.holdExpires.seeds = s.seeds ∧ s.holdExpires.pending = s.pending := by
  simp only [State.holdExpires]; simp

@[simp] theorem State.considerUpTo_frame (n : Nat) (s : State) :
    (s.considerUpTo n).link.rx = s.link.rx ∧ (s.considerUpTo n).link.got = s.link.got ∧
    (s.considerUpTo n).link.gap = s.link.gap ∧ (s.considerUpTo n).link.rate = s.link.rate ∧
    (s.considerUpTo n).req.session = s.req.session ∧ (s.considerUpTo n).dir.limit = s.dir.limit ∧
    (s.considerUpTo n).wq.frozen = s.wq.frozen ∧ (s.considerUpTo n).lw = s.lw ∧ (s.considerUpTo n).arr = s.arr ∧
    (s.considerUpTo n).flash = s.flash ∧ (s.considerUpTo n).sm = s.sm ∧ (s.considerUpTo n).mount = s.mount ∧
    (s.considerUpTo n).sup.condition = s.sup.condition ∧ (s.considerUpTo n).dev = s.dev ∧
    (s.considerUpTo n).seeds = s.seeds ∧ (s.considerUpTo n).pending = s.pending := by
  induction n generalizing s with
  | zero => simp [State.considerUpTo]
  | succ n ih =>
    simp only [State.considerUpTo]
    split
    · simp
    · split
      · simp [ih]
      · split <;> rename_i heq <;> have h := congrArg Consideration.state heq <;>
          simp only [Consideration.state_left, Consideration.state_kept] at h <;> subst h <;> simp [ih]

@[simp] theorem State.considerAdmissions_frame (s : State) :
    s.considerAdmissions.link.rx = s.link.rx ∧ s.considerAdmissions.link.got = s.link.got ∧
    s.considerAdmissions.link.gap = s.link.gap ∧ s.considerAdmissions.link.rate = s.link.rate ∧
    s.considerAdmissions.req.session = s.req.session ∧ s.considerAdmissions.dir.limit = s.dir.limit ∧
    s.considerAdmissions.wq.frozen = s.wq.frozen ∧ s.considerAdmissions.lw = s.lw ∧
    s.considerAdmissions.arr = s.arr ∧ s.considerAdmissions.flash = s.flash ∧ s.considerAdmissions.sm = s.sm ∧
    s.considerAdmissions.mount = s.mount ∧ s.considerAdmissions.sup.condition = s.sup.condition ∧
    s.considerAdmissions.dev = s.dev ∧ s.considerAdmissions.seeds = s.seeds ∧
    s.considerAdmissions.pending = s.pending := by
  simp only [State.considerAdmissions]; (repeat' split) <;> simp

@[simp] theorem State.considerAll_frame (s : State) :
    s.considerAll.link.rx = s.link.rx ∧ s.considerAll.link.got = s.link.got ∧ s.considerAll.link.gap = s.link.gap ∧
    s.considerAll.link.rate = s.link.rate ∧ s.considerAll.req.session = s.req.session ∧
    s.considerAll.dir.limit = s.dir.limit ∧ s.considerAll.wq.frozen = s.wq.frozen ∧
    s.considerAll.arr.op = s.arr.op ∧ s.considerAll.arr.erase = s.arr.erase ∧ s.considerAll.flash = s.flash ∧
    s.considerAll.sm.wearDue = s.sm.wearDue ∧ s.considerAll.sm.epoch = s.sm.epoch ∧ s.considerAll.mount = s.mount ∧
    s.considerAll.sup.condition = s.sup.condition ∧ s.considerAll.dev.restartDue = s.dev.restartDue ∧
    s.considerAll.dev.restartLatch = s.dev.restartLatch ∧ s.considerAll.seeds = s.seeds ∧
    s.considerAll.pending = s.pending := by
  simp only [State.considerAll]; simp

@[simp] theorem State.considered_frame (s : State) :
    s.considered.pending = s.pending := by
  simp only [State.considered]; simp

@[simp] theorem State.settle_frame (s : State) :
    s.settle.pending = s.pending := by
  simp only [State.settle]; simp

@[simp] theorem State.settleFor_frame (tag : Byte) (s : State) :
    (s.settleFor tag).pending = s.pending := by
  simp only [State.settleFor]; simp

@[simp] theorem State.considerArrival_frame (tag : Byte) (s : State) :
    (s.considerArrival tag).pending = s.pending := by
  simp only [State.considerArrival]; (repeat' split) <;> simp

@[simp] theorem State.joinList_frame (tag : Byte) (s : State) :
    (s.joinList tag).pending = s.pending := by
  simp only [State.joinList]; (repeat' split) <;> simp

@[simp] theorem State.afterDiscard_frame (s : State) :
    s.afterDiscard.pending = s.pending := by
  simp only [State.afterDiscard]; (repeat' split) <;> simp

@[simp] theorem State.actAbort_frame (tag : Byte) (s : State) :
    (s.actAbort tag).pending = s.pending := by
  simp only [State.actAbort]; (repeat' split) <;> simp

@[simp] theorem State.actTidy_frame (tag : Byte) (threshold : Nat) (s : State) :
    (s.actTidy tag threshold).pending = s.pending := by
  simp only [State.actTidy]; (repeat' split) <;> simp

@[simp] theorem State.actFormat_frame (tag : Byte) (s : State) :
    (s.actFormat tag).pending = s.pending := by
  simp only [State.actFormat]; (repeat' split) <;> simp

@[simp] theorem State.actHello_frame (tag : Byte) (id : Nat) (baud : Option Nat) (s : State) :
    (s.actHello tag id baud).pending = s.pending := by
  simp only [State.actHello]; (repeat' split) <;> simp

@[simp] theorem State.takeHello_frame (f : Frame) (s : State) :
    (s.takeHello f).pending = s.pending := by
  simp only [State.takeHello]; (repeat' split) <;> simp

end Sys2Proof.Machine
end

