-- ==== Sys2Proof/Laws/PerInstr.lean ====
section
/-! SUPPORT. The family of statements made per command: which commands are frames, and of which frame. -/

namespace Sys2Proof.Laws.F

open Sys2Proof.Machine

/-- The frame that a command is; none for the commands that are no frame. -/
def frame? : Instr → Option Frame
  | .hello tag flags payload => some (requestFrame .hello tag flags payload)
  | .get tag flags payload => some (requestFrame .get tag flags payload)
  | .stat tag flags payload => some (requestFrame .stat tag flags payload)
  | .list tag flags payload => some (requestFrame .list tag flags payload)
  | .put tag flags payload => some (requestFrame .put tag flags payload)
  | .delete tag flags payload => some (requestFrame .delete tag flags payload)
  | .fence tag flags payload => some (requestFrame .fence tag flags payload)
  | .beginGroup tag flags payload => some (requestFrame .beginGroup tag flags payload)
  | .commit tag flags payload => some (requestFrame .commit tag flags payload)
  | .abort tag flags payload => some (requestFrame .abort tag flags payload)
  | .space tag flags payload => some (requestFrame .space tag flags payload)
  | .sectors tag flags payload => some (requestFrame .sectors tag flags payload)
  | .tidy tag flags payload => some (requestFrame .tidy tag flags payload)
  | .format tag flags payload => some (requestFrame .format tag flags payload)
  | .reset tag flags payload => some (requestFrame .reset tag flags payload)
  | .unknownKindFrame kind tag flags payload =>
    some { kind := kind, tag := tag, flags := flags, payload := payload }
  | .characterReceived _ _ | .gapTimerExpiry | .breakRecognised | .frameSent | .listStep _
  | .getReadComplete _ | .reclaimReadComplete _ | .mountReadComplete _ | .wordProgramComplete _
  | .wordProgramTimeout | .eraseSuspend | .erasePulseComplete _ | .eraseTimeout | .blankCheckComplete
  | .eraseWordProgramComplete _ | .eraseWindowExpiry | .supplyBelowHold | .supplyAboveNormal
  | .supplyFallInQualification | .qualificationTimerExpiry | .holdTimerExpiry | .powerOnResetAsserted
  | .powerOnRelease _ | .nresetLow | .nresetHigh | .supplyAbovePowerOnThreshold => none

/-- A well-formed command that is a frame is the command of that frame, with a KIND of four characters and
a payload that fits (R161, R183), and of no other frame; a command that is no frame is the command of none. -/
def Statement (i : Instr) : Prop :=
  i.wellFormed = true →
    (∀ f, frame? i = some f → frameCommand f = i ∧ f.kind.length = 4 ∧ f.payload.length ≤ 2080)
    ∧ ∀ f, frameCommand f = i → frame? i = some f

/-- The frame of a frame's command is the frame. -/
theorem frame_frameCommand (f : Frame) : frame? (frameCommand f) = some f := by
  cases hk : kindOf f.kind with
  | none => simp [frameCommand, hk, frame?]
  | some k =>
    have hc : kindCode k = f.kind := by simpa using List.find?_some hk
    cases k <;> simp [frameCommand, hk, requestCommand, frame?, requestFrame, hc]

/-- A request command with a payload that fits meets the statement. -/
theorem of_request (k : ReqKind) (tag flags : Byte) (payload : List Byte)
    (h : frame? (requestCommand k tag flags payload) = some (requestFrame k tag flags payload))
    (hw : (requestCommand k tag flags payload).wellFormed = payloadFits payload) :
    Statement (requestCommand k tag flags payload) := by
  intro hp
  refine ⟨fun f hf => ?_, fun f hf => hf ▸ frame_frameCommand f⟩
  rw [h] at hf
  cases hf
  have h4 : (kindCode k).length = 4 := by cases k <;> rfl
  have hk : kindOf (kindCode k) = some k := by cases k <;> decide
  refine ⟨by simp [frameCommand, requestFrame, hk], h4, ?_⟩
  rw [hw] at hp
  simpa [requestFrame, payloadFits] using hp

/-- A command that is no frame meets the statement. -/
theorem of_none {i : Instr} (h : frame? i = none) : Statement i := by
  intro _
  refine ⟨fun f hf => (by rw [h] at hf; cases hf), fun f hf => ?_⟩
  rw [← hf, frame_frameCommand] at h
  cases h

theorem hello (tag flags : Byte) (payload : List Byte) : Statement (.hello tag flags payload) :=
  of_request .hello tag flags payload rfl rfl

theorem get (tag flags : Byte) (payload : List Byte) : Statement (.get tag flags payload) :=
  of_request .get tag flags payload rfl rfl

theorem stat (tag flags : Byte) (payload : List Byte) : Statement (.stat tag flags payload) :=
  of_request .stat tag flags payload rfl rfl

theorem list (tag flags : Byte) (payload : List Byte) : Statement (.list tag flags payload) :=
  of_request .list tag flags payload rfl rfl

theorem put (tag flags : Byte) (payload : List Byte) : Statement (.put tag flags payload) :=
  of_request .put tag flags payload rfl rfl

theorem delete (tag flags : Byte) (payload : List Byte) : Statement (.delete tag flags payload) :=
  of_request .delete tag flags payload rfl rfl

theorem fence (tag flags : Byte) (payload : List Byte) : Statement (.fence tag flags payload) :=
  of_request .fence tag flags payload rfl rfl

theorem beginGroup (tag flags : Byte) (payload : List Byte) : Statement (.beginGroup tag flags payload) :=
  of_request .beginGroup tag flags payload rfl rfl

theorem commit (tag flags : Byte) (payload : List Byte) : Statement (.commit tag flags payload) :=
  of_request .commit tag flags payload rfl rfl

theorem abort (tag flags : Byte) (payload : List Byte) : Statement (.abort tag flags payload) :=
  of_request .abort tag flags payload rfl rfl

theorem space (tag flags : Byte) (payload : List Byte) : Statement (.space tag flags payload) :=
  of_request .space tag flags payload rfl rfl

theorem sectors (tag flags : Byte) (payload : List Byte) : Statement (.sectors tag flags payload) :=
  of_request .sectors tag flags payload rfl rfl

theorem tidy (tag flags : Byte) (payload : List Byte) : Statement (.tidy tag flags payload) :=
  of_request .tidy tag flags payload rfl rfl

theorem format (tag flags : Byte) (payload : List Byte) : Statement (.format tag flags payload) :=
  of_request .format tag flags payload rfl rfl

theorem reset (tag flags : Byte) (payload : List Byte) : Statement (.reset tag flags payload) :=
  of_request .reset tag flags payload rfl rfl

theorem unknownKindFrame (kind : List Byte) (tag flags : Byte) (payload : List Byte) :
    Statement (.unknownKindFrame kind tag flags payload) := by
  intro hp
  refine ⟨fun f hf => ?_, fun f hf => hf ▸ frame_frameCommand f⟩
  cases hf
  simp only [Instr.wellFormed, Bool.and_eq_true, beq_iff_eq, Option.isNone_iff_eq_none] at hp
  obtain ⟨⟨h4, hk⟩, hl⟩ := hp
  exact ⟨by simp [frameCommand, hk], h4, by simpa [payloadFits] using hl⟩

theorem characterReceived (char : Byte) (framingError : Bool) : Statement (.characterReceived char framingError) := of_none rfl

theorem gapTimerExpiry : Statement .gapTimerExpiry := of_none rfl

theorem breakRecognised : Statement .breakRecognised := of_none rfl

theorem frameSent : Statement .frameSent := of_none rfl

theorem listStep (tag : Byte) : Statement (.listStep tag) := of_none rfl

theorem getReadComplete (decayed : List (Nat × RawWord)) : Statement (.getReadComplete decayed) := of_none rfl

theorem reclaimReadComplete (decayed : List (Nat × RawWord)) : Statement (.reclaimReadComplete decayed) := of_none rfl

theorem mountReadComplete (decayed : List (Nat × RawWord)) : Statement (.mountReadComplete decayed) := of_none rfl

theorem wordProgramComplete (verified : Bool) : Statement (.wordProgramComplete verified) := of_none rfl

theorem wordProgramTimeout : Statement .wordProgramTimeout := of_none rfl

theorem eraseSuspend : Statement .eraseSuspend := of_none rfl

theorem erasePulseComplete (stuck : List (Nat × RawWord)) : Statement (.erasePulseComplete stuck) := of_none rfl

theorem eraseTimeout : Statement .eraseTimeout := of_none rfl

theorem blankCheckComplete : Statement .blankCheckComplete := of_none rfl

theorem eraseWordProgramComplete (verified : Bool) : Statement (.eraseWordProgramComplete verified) := of_none rfl

theorem eraseWindowExpiry : Statement .eraseWindowExpiry := of_none rfl

theorem supplyBelowHold : Statement .supplyBelowHold := of_none rfl

theorem supplyAboveNormal : Statement .supplyAboveNormal := of_none rfl

theorem supplyFallInQualification : Statement .supplyFallInQualification := of_none rfl

theorem qualificationTimerExpiry : Statement .qualificationTimerExpiry := of_none rfl

theorem holdTimerExpiry : Statement .holdTimerExpiry := of_none rfl

theorem powerOnResetAsserted : Statement .powerOnResetAsserted := of_none rfl

theorem powerOnRelease (aboveNormal : Bool) : Statement (.powerOnRelease aboveNormal) := of_none rfl

theorem nresetLow : Statement .nresetLow := of_none rfl

theorem nresetHigh : Statement .nresetHigh := of_none rfl

theorem supplyAbovePowerOnThreshold : Statement .supplyAbovePowerOnThreshold := of_none rfl

end Sys2Proof.Laws.F
end

