-- ==== Sys2Proof/Laws/Replies.lean ====
section
/-! SUPPORT. What the Link Controller and the Request Table do with a frame: the reply that joins, the notices
that are consulted, the slot that is taken and freed. One lemma per shared operation. -/

namespace Sys2Proof.Machine

/-! ## The Transmit Queue and the Notice Set (R180, R181) -/

/-- A reply that is not the RESET reply joins when there is room, and nothing else changes. -/
theorem State.sendReply_eq {e : TxFrame} (h : e.restarts = false) (s : State) :
    s.sendReply e = { s with link := { s.link with txq := s.txAfter e } } := by
  simp only [State.sendReply, State.txAfter, h]
  split <;> rfl

/-- The RESET reply joins when there is room; otherwise the restart is due. -/
theorem State.sendReply_restarts {e : TxFrame} (h : e.restarts = true) (s : State) :
    s.sendReply e = if s.link.txq.length < Config.maxTx then s.pushTx e else s.dueRestart := by
  simp only [State.sendReply, h, if_true]

/-- The part of the Notice Set that a consultation leaves, and the notices it queues. -/
theorem State.consultUpTo_eq (n : Nat) (s : State) :
    ∃ notes rest, (∀ e ∈ notes, e.frame.kind = kindNote)
      ∧ (∀ k ∈ s.link.notices, k ∈ rest ∨ ∃ e ∈ notes, e.frame.kind = kindNote
          ∧ e.frame.payload.head? = some (BitVec.ofNat 8 k.number))
      ∧ s.consultUpTo n = { s with link := { s.link with txq := s.link.txq ++ notes, notices := rest } } := by
  induction n generalizing s with
  | zero => exact ⟨[], s.link.notices, by simp, fun k h => .inl h, by simp [State.consultUpTo]⟩
  | succ n ih =>
    simp only [State.consultUpTo]
    split
    · exact ⟨[], s.link.notices, by simp, fun k h => .inl h, by simp⟩
    · rename_i k rest hn
      split
      · obtain ⟨notes, left, h1, h2, h3⟩ := ih (State.pushTx (plainTx (noticeFrame (noticePayload s k)))
          { s with link := { s.link with notices := rest } })
        refine ⟨plainTx (noticeFrame (noticePayload s k)) :: notes, left, ?_, ?_, ?_⟩
        · intro e he
          rcases List.mem_cons.1 he with rfl | he
          · rfl
          · exact h1 e he
        · intro j hj
          rw [hn] at hj
          rcases List.mem_cons.1 hj with rfl | hj
          · exact .inr ⟨_, List.mem_cons_self, rfl, by simp [plainTx, noticeFrame, noticePayload, le]⟩
          · rcases h2 j hj with h | ⟨e, he, h⟩
            · exact .inl h
            · exact .inr ⟨e, List.mem_cons_of_mem _ he, h⟩
        · rw [h3]; simp [State.pushTx]
      · exact ⟨[], s.link.notices, by simp, fun k h => .inl h, by simp⟩

/-- A consultation queues notices behind what waits, and every kind that was marked still waits or has its
notice among them. -/
theorem State.consult_eq (s : State) :
    ∃ notes rest, (∀ e ∈ notes, e.frame.kind = kindNote)
      ∧ (∀ k ∈ s.link.notices, k ∈ rest ∨ ∃ e ∈ notes, e.frame.kind = kindNote
          ∧ e.frame.payload.head? = some (BitVec.ofNat 8 k.number))
      ∧ s.consult = { s with link := { s.link with txq := s.link.txq ++ notes, notices := rest } } :=
  s.consultUpTo_eq s.link.notices.length

/-! ## Slots (R160, R161, R163 to R167) -/

/-- The state right after a frame has taken its slot and its request has been recorded (R161, steps 5
and 6). -/
def State.taken (s : State) (k : ReqKind) (f : Frame) (r : Request) : State :=
  (s.takeSlot (some k) f).recordRequest f.tag r

/-- The slot of a request that has been taken. -/
def State.takenSlot (s : State) (k : ReqKind) (f : Frame) (r : Request) : Slot :=
  { newSlot (some k) f with request := some r, bound := if r.binds then s.grp.group.map (fun g => g.id) else none }

theorem find_tag_none {slots : List Slot} {tag : Byte} (h : slots.find? (fun sl => sl.tag == tag) = none) :
    ∀ sl ∈ slots, sl.tag ≠ tag := by
  intro sl hm; simpa using List.find?_eq_none.1 h sl hm

theorem map_other {slots : List Slot} {tag : Byte} (f : Slot → Slot) (h : ∀ sl ∈ slots, sl.tag ≠ tag) :
    slots.map (fun sl => if sl.tag = tag then f sl else sl) = slots := by
  induction slots with
  | nil => rfl
  | cons a l ih => simp_all

theorem filter_other {slots : List Slot} {tag : Byte} (h : ∀ sl ∈ slots, sl.tag ≠ tag) :
    slots.filter (fun sl => sl.tag != tag) = slots := by
  rw [List.filter_eq_self]; simpa using h

/-- Taking a frame with a free tag adds its slot and drops the cached reply of its tag. -/
theorem State.taken_eq {s : State} {f : Frame} (h : s.slot f.tag = none) (k : ReqKind) (r : Request) :
    s.taken k f r = { s with req := { s.req with
      slots := s.req.slots ++ [s.takenSlot k f r]
      cache := s.req.cache.filter (fun e => e.tag != f.tag) } } := by
  have h' := find_tag_none h
  simp [State.taken, State.takenSlot, State.recordRequest, State.takeSlot, State.uncache, State.modSlot, map_other _ h',
    newSlot]

/-- The slot just taken is the one that its tag finds. -/
theorem State.taken_slot {s : State} {f : Frame} (h : s.slot f.tag = none) (k : ReqKind) (r : Request) :
    (s.taken k f r).slot f.tag = some (s.takenSlot k f r) := by
  rw [State.taken_eq h]
  simp only [State.slot] at h ⊢
  simp [h, State.takenSlot, newSlot]

/-- A final reply to a slot of the current session. -/
theorem State.finish_current {s : State} {tag : Byte} {sl : Slot} (h : s.slot tag = some sl) (hc : sl.session = .current)
    (payload : List Byte) :
    s.finish tag payload false = { s with
      link := { s.link with txq := s.txAfter (plainTx (replyFrame tag payload)) }
      req := { s.req with
        slots := s.req.slots.filter (fun x => x.tag != tag)
        cache := (if s.req.cache.length < Config.maxCache then s.req.cache else s.req.cache.drop 1)
          ++ [{ tag := tag, digest := sl.digest, frame := replyFrame tag payload }] } } := by
  simp only [State.finish, h, hc]
  rw [State.sendReply_eq rfl]
  rfl

/-- A final reply to a slot of an ended session is suppressed. -/
theorem State.finish_ended {s : State} {tag : Byte} {sl : Slot} (h : s.slot tag = some sl) (hc : sl.session = .ended)
    (payload : List Byte) :
    s.finish tag payload false = { s with req := { s.req with slots := s.req.slots.filter (fun x => x.tag != tag) } } := by
  simp only [State.finish, h, hc]
  rfl

/-- The final reply to a request that has just been taken: the table is as before but for its cache. -/
theorem State.taken_answer {s : State} {f : Frame} (h : s.slot f.tag = none) (k : ReqKind) (r : Request) (st : Status)
    (fields : List Byte) :
    (s.taken k f r).answer f.tag st fields = { s with
      link := { s.link with txq := s.txAfter (plainTx (replyFrame f.tag (le 1 st.code ++ fields))) }
      req := { s.req with
        cache := cacheAfter s.req.cache (CacheEntry.mk f.tag f.digest (replyFrame f.tag (le 1 st.code ++ fields))) } } := by
  have h' := find_tag_none h
  rw [State.answer, State.finish_current (State.taken_slot h k r) rfl, State.taken_eq h]
  simp [filter_other h', State.takenSlot, newSlot, cacheAfter, State.txAfter]

/-- A request without a slot is told nothing. -/
theorem State.tellPending_none {s : State} {tag : Byte} (h : s.slot tag = none) : s.tellPending tag = s := by
  simp only [State.tellPending, h]

/-- A request that is owed nothing is told nothing (R164). -/
theorem State.tellPending_told {s : State} {tag : Byte} {sl : Slot} (h : s.slot tag = some sl)
    (ho : sl.owedPending = false) : s.tellPending tag = s := by
  simp [State.tellPending, h, ho]

/-- A request that is owed PENDING is sent it (R164). -/
theorem State.tellPending_owed {s : State} {tag : Byte} {sl : Slot} (h : s.slot tag = some sl)
    (ho : sl.owedPending = true) :
    s.tellPending tag = { s with
      link := { s.link with txq := s.txAfter (plainTx (pendingFrame tag)) }
      req := { s.req with slots := s.req.slots.map (fun x => if x.tag = tag then { x with pendingSent := true } else x) } } := by
  simp only [State.tellPending, h, ho, if_true]
  rw [State.sendReply_eq rfl]
  rfl

/-- An event that has answered its request tells it nothing more. -/
theorem State.consultFor_answered {s : State} {tag : Byte} (h : s.slot tag = none) : s.consultFor tag = s.consult := by
  rw [State.consultFor, State.tellPending_none h]

/-- A request just taken that waits. -/
theorem State.taken_waits {s : State} {f : Frame} (h : s.slot f.tag = none) (k : ReqKind) (r : Request) (why : WaitReason) :
    (s.taken k f r).waitFor f.tag why = { s with
      req := { s.req with
        slots := s.req.slots ++ [{ s.takenSlot k f r with state := .waiting, wait := some why }]
        cache := s.req.cache.filter (fun e => e.tag != f.tag) } } := by
  have h' := find_tag_none h
  rw [State.waitFor, State.taken_eq h]
  simp [State.modSlot, map_other _ h', State.takenSlot, newSlot]

/-- The slot of a request just taken that waits is the one that its tag finds. -/
theorem State.taken_waits_slot {s : State} {f : Frame} (h : s.slot f.tag = none) (k : ReqKind) (r : Request) (why : WaitReason) :
    ((s.taken k f r).waitFor f.tag why).slot f.tag = some { s.takenSlot k f r with state := .waiting, wait := some why } := by
  rw [State.taken_waits h]
  simp only [State.slot] at h ⊢
  simp [h, State.takenSlot, newSlot]

/-- A request just taken that waits, for a reason other than FLASH_READ, is sent PENDING. -/
theorem State.taken_told {s : State} {f : Frame} (h : s.slot f.tag = none) (k : ReqKind) (r : Request)
    {why : WaitReason} (hw : why ≠ .flashRead) :
    ((s.taken k f r).waitFor f.tag why).tellPending f.tag = { s with
      link := { s.link with txq := s.txAfter (plainTx (pendingFrame f.tag)) }
      req := { s.req with
        slots := s.req.slots ++ [{ s.takenSlot k f r with state := .waiting, wait := some why, pendingSent := true }]
        cache := s.req.cache.filter (fun e => e.tag != f.tag) } } := by
  have h' := find_tag_none h
  have ho : ({ s.takenSlot k f r with state := .waiting, wait := some why } : Slot).owedPending = true := by
    simp [Slot.owedPending, State.takenSlot, newSlot, hw]
  rw [State.tellPending_owed (State.taken_waits_slot h k r why) ho, State.taken_waits h]
  simp [map_other _ h', State.takenSlot, newSlot, State.txAfter]

/-- A request just taken and answered has no slot any more. -/
theorem State.taken_answer_slot {s : State} {f : Frame} (h : s.slot f.tag = none) (k : ReqKind) (r : Request) (st : Status)
    (fields : List Byte) : ((s.taken k f r).answer f.tag st fields).slot f.tag = none := by
  rw [State.taken_answer h]; exact h

end Sys2Proof.Machine
end

