-- ==== Sys2Proof/Laws/Requests.lean ====
section
/-! SUPPORT. What a request command does up to the point where its own handling begins (R138, R161, R166). -/

namespace Sys2Proof.Machine

/-! ## The frame's way through the Request Table -/

/-- A KIND that names a request is that request's code. -/
theorem kindOf_code {code : List Byte} {k : ReqKind} (h : kindOf code = some k) : kindCode k = code := by
  simpa using List.find?_some h

theorem kindOf_kindCode (k : ReqKind) : kindOf (kindCode k) = some k := by cases k <;> decide

/-- At a controller that runs, every good frame is handed to the Request Table. -/
theorem exec_frame {s : State} (h : s.held = false) (f : Frame) : exec (frameCommand f) s = .next (s.handOver f) := by
  cases hk : kindOf f.kind with
  | none => simp [frameCommand, hk, exec, execUnknownKindFrame, State.unlessHeld, h, State.handOver]
  | some k =>
    have hf : requestFrame k f.tag f.flags f.payload = f := by simp [requestFrame, kindOf_code hk]
    cases k <;> simp [frameCommand, hk, requestCommand, exec, execHello, execGet, execStat, execList, execPut, execDelete,
      execFence, execBegin, execCommit, execAbort, execSpace, execSectors, execTidy, execFormat, execReset,
      State.unlessHeld, h, State.handOver, hf]

/-- A request command is the good frame of its kind. -/
theorem frameCommand_request (k : ReqKind) (tag flags : Byte) (payload : List Byte) :
    frameCommand (requestFrame k tag flags payload) = requestCommand k tag flags payload := by
  simp [frameCommand, requestFrame, kindOf_kindCode]

/-- A fresh frame whose tag is in use. -/
theorem State.acceptNew_tagInUse {s : State} {f : Frame} {sl : Slot} (h : s.slot f.tag = some sl) (k : ReqKind)
    (act : Byte → Request → State → State) :
    s.acceptNew k act f = (s.answerUnslotted f.tag .tagInUse).consult := by
  simp [State.acceptNew, h]

/-- A fresh frame that finds every slot in use. -/
theorem State.acceptNew_full {s : State} {f : Frame} (h : s.slot f.tag = none) (hf : Config.maxSlots ≤ s.req.slots.length)
    (k : ReqKind) (act : Byte → Request → State → State) :
    s.acceptNew k act f = (s.answerUnslotted f.tag .tableFull).consult := by
  simp [State.acceptNew, h, hf]

theorem State.accepts_iff {s : State} {f : Frame} :
    s.accepts f = true ↔ s.fresh f = true ∧ s.slot f.tag = none ∧ s.req.slots.length < Config.maxSlots := by
  simp [State.accepts, and_assoc]

theorem State.fresh_iff {s : State} {f : Frame} :
    s.fresh f = true ↔ s.held = false ∧ (f.retry = true → s.retryMatch f = none) := by
  simp only [State.fresh, Bool.and_eq_true, Bool.not_eq_true', Bool.and_eq_false_iff, Option.isSome_eq_false_iff,
    Option.isNone_iff_eq_none]
  constructor
  · rintro ⟨h, h'⟩; exact ⟨h, fun hr => by rcases h' with h' | h' <;> simp_all⟩
  · rintro ⟨h, h'⟩; refine ⟨h, ?_⟩; cases hr : f.retry <;> simp_all

theorem State.takes_iff {s : State} {k : ReqKind} {f : Frame} {r : Request} :
    s.takes k f r = true ↔ s.accepts f = true ∧ decodeRequest k f.payload = some r ∧ s.gate k = none := by
  simp [State.takes, and_assoc]

/-- A fresh frame is handled as new. -/
theorem State.retryOr_fresh {s : State} {f : Frame} (h : s.fresh f = true) (g : Frame → State → State) :
    s.retryOr g f = g f s := by
  have h' := (State.fresh_iff.1 h).2
  simp only [State.retryOr]
  split
  · rename_i hr; simp [h' hr]
  · rfl

theorem State.taken_gate (s : State) (k j : ReqKind) (f : Frame) (r : Request) :
    (s.taken k f r).gate j = s.gate j := by
  simp [State.taken, State.gate]

/-- A taken request: its own handling begins. -/
theorem State.accept_takes {s : State} {k : ReqKind} {f : Frame} {r : Request} (h : s.takes k f r = true)
    (act : Byte → Request → State → State) : s.accept k act f = act f.tag r (s.taken k f r) := by
  obtain ⟨ha, hd, hg⟩ := State.takes_iff.1 h
  obtain ⟨hf, hs, hl⟩ := State.accepts_iff.1 ha
  rw [State.accept, State.retryOr_fresh hf, State.acceptNew]
  have hl' : ¬ (Config.maxSlots ≤ s.req.slots.length) := by omega
  simp only [hs, Option.isSome_none, if_false, hl', hd]
  simp [State.taken, hg]

theorem State.takes_slot {s : State} {k : ReqKind} {f : Frame} {r : Request} (h : s.takes k f r = true) :
    s.slot f.tag = none := (State.accepts_iff.1 (State.takes_iff.1 h).1).2.1

theorem State.takes_held {s : State} {k : ReqKind} {f : Frame} {r : Request} (h : s.takes k f r = true) :
    s.held = false := (State.fresh_iff.1 (State.accepts_iff.1 (State.takes_iff.1 h).1).1).1

theorem State.takes_decodes {s : State} {k : ReqKind} {f : Frame} {r : Request} (h : s.takes k f r = true) :
    decodeRequest k f.payload = some r := (State.takes_iff.1 h).2.1

theorem State.takes_gate {s : State} {k : ReqKind} {f : Frame} {r : Request} (h : s.takes k f r = true) :
    s.gate k = none := (State.takes_iff.1 h).2.2

/-- A request that is refused by the device state, or whose payload does not decode, is answered at once. -/
theorem State.accept_refused {s : State} {k : ReqKind} {f : Frame} {r : Request} {st : Status} (ha : s.accepts f = true)
    (hd : decodeRequest k f.payload = some r) (hg : s.gate k = some st) (act : Byte → Request → State → State) :
    s.accept k act f = ((s.taken k f r).answer f.tag st []).consult := by
  obtain ⟨hf, hs, hl⟩ := State.accepts_iff.1 ha
  rw [State.accept, State.retryOr_fresh hf, State.acceptNew]
  have hl' : ¬ (Config.maxSlots ≤ s.req.slots.length) := by omega
  simp only [hs, Option.isSome_none, if_false, hl', hd]
  simp [State.taken, hg]

/-! ## Answers -/

/-- A reply to a request just taken, and the notices behind it. -/
theorem State.taken_answered {s : State} {f : Frame} (h : s.slot f.tag = none) (k : ReqKind) (r : Request) (st : Status)
    (fields : List Byte) :
    s.answered f (le 1 st.code ++ fields) ((s.taken k f r).answer f.tag st fields).consult := by
  rw [State.taken_answer h]
  obtain ⟨notes, rest, h1, _, h3⟩ := State.consult_eq { s with
    link := { s.link with txq := s.txAfter (plainTx (replyFrame f.tag (le 1 st.code ++ fields))) }
    req := { s.req with
      cache := cacheAfter s.req.cache (CacheEntry.mk f.tag f.digest (replyFrame f.tag (le 1 st.code ++ fields))) } }
  rw [h3]
  exact ⟨⟨⟨⟨notes, h1, rfl⟩, rfl⟩, rfl⟩, rfl⟩

/-- A reply without a slot, and the notices behind it. -/
theorem State.unslotted_toldOff (s : State) (f : Frame) (st : Status) :
    s.toldOff f (le 1 st.code) (s.answerUnslotted f.tag st).consult := by
  rw [State.answerUnslotted, State.sendReply_eq rfl]
  obtain ⟨notes, rest, h1, _, h3⟩ := State.consult_eq { s with
    link := { s.link with txq := s.txAfter (plainTx (replyFrame f.tag (le 1 st.code))) } }
  rw [h3]
  exact ⟨⟨⟨notes, h1, rfl⟩, rfl⟩, rfl, rfl⟩

/-- Every frame but a HELLO is decided by `acceptUnknown` or by `accept` with its kind's handling. -/
theorem State.handOver_slotted {s : State} {f : Frame} (hk : kindOf f.kind ≠ some .hello) :
    (s.handOver f = s.takeUnknown f ∧ kindOf f.kind = none) ∨
    ∃ k act, kindOf f.kind = some k ∧ k ≠ .hello ∧ s.handOver f = s.accept k act f ∧ ∀ g : Frame, g.kind = f.kind → ∀ s : State, s.handOver g = s.accept k act g := by
  have key : ∀ k, k ≠ ReqKind.hello → ∃ act, ∀ g : Frame, kindOf g.kind = some k → ∀ s : State, s.handOver g = s.accept k act g := by
    intro k hk
    cases k
    · exact absurd rfl hk
    · obtain ⟨act, h⟩ : ∃ act, State.takeGet = State.accept .get act := ⟨_, rfl⟩
      exact ⟨act, fun g hg s => by simp only [State.handOver, hg, h]⟩
    · obtain ⟨act, h⟩ : ∃ act, State.takeStat = State.accept .stat act := ⟨_, rfl⟩
      exact ⟨act, fun g hg s => by simp only [State.handOver, hg, h]⟩
    · obtain ⟨act, h⟩ : ∃ act, State.takeList = State.accept .list act := ⟨_, rfl⟩
      exact ⟨act, fun g hg s => by simp only [State.handOver, hg, h]⟩
    · obtain ⟨act, h⟩ : ∃ act, State.takePut = State.accept .put act := ⟨_, rfl⟩
      exact ⟨act, fun g hg s => by simp only [State.handOver, hg, h]⟩
    · obtain ⟨act, h⟩ : ∃ act, State.takeDelete = State.accept .delete act := ⟨_, rfl⟩
      exact ⟨act, fun g hg s => by simp only [State.handOver, hg, h]⟩
    · obtain ⟨act, h⟩ : ∃ act, State.takeFence = State.accept .fence act := ⟨_, rfl⟩
      exact ⟨act, fun g hg s => by simp only [State.handOver, hg, h]⟩
    · obtain ⟨act, h⟩ : ∃ act, State.takeBegin = State.accept .beginGroup act := ⟨_, rfl⟩
      exact ⟨act, fun g hg s => by simp only [State.handOver, hg, h]⟩
    · obtain ⟨act, h⟩ : ∃ act, State.takeCommit = State.accept .commit act := ⟨_, rfl⟩
      exact ⟨act, fun g hg s => by simp only [State.handOver, hg, h]⟩
    · obtain ⟨act, h⟩ : ∃ act, State.takeAbort = State.accept .abort act := ⟨_, rfl⟩
      exact ⟨act, fun g hg s => by simp only [State.handOver, hg, h]⟩
    · obtain ⟨act, h⟩ : ∃ act, State.takeSpace = State.accept .space act := ⟨_, rfl⟩
      exact ⟨act, fun g hg s => by simp only [State.handOver, hg, h]⟩
    · obtain ⟨act, h⟩ : ∃ act, State.takeSectors = State.accept .sectors act := ⟨_, rfl⟩
      exact ⟨act, fun g hg s => by simp only [State.handOver, hg, h]⟩
    · obtain ⟨act, h⟩ : ∃ act, State.takeTidy = State.accept .tidy act := ⟨_, rfl⟩
      exact ⟨act, fun g hg s => by simp only [State.handOver, hg, h]⟩
    · obtain ⟨act, h⟩ : ∃ act, State.takeFormat = State.accept .format act := ⟨_, rfl⟩
      exact ⟨act, fun g hg s => by simp only [State.handOver, hg, h]⟩
    · obtain ⟨act, h⟩ : ∃ act, State.takeReset = State.accept .reset act := ⟨_, rfl⟩
      exact ⟨act, fun g hg s => by simp only [State.handOver, hg, h]⟩
  cases hk' : kindOf f.kind with
  | none => left; simp [State.handOver, hk']
  | some k =>
    right
    have hne : k ≠ .hello := by rintro rfl; exact hk hk'
    obtain ⟨act, h⟩ := key k hne
    exact ⟨k, act, rfl, hne, h f hk' s, fun g hg s => h g (by rw [hg, hk']) s⟩

/-- A retry answer, and the notices behind it (R166). -/
theorem State.sendRetry_resent (s : State) (g : Frame) : s.resent g (s.sendRetry g).consult := by
  have : s.sendRetry g = { s with link := { s.link with txq := if s.link.txq.length ≤ 8 then s.link.txq ++ [plainTx g] else s.link.txq } } := by
    simp only [State.sendRetry]; split <;> simp_all [State.pushTx, Config.retryTx]
  rw [this]
  obtain ⟨notes, rest, h1, _, h3⟩ := State.consult_eq { s with link := { s.link with txq := if s.link.txq.length ≤ 8 then s.link.txq ++ [plainTx g] else s.link.txq } }
  rw [h3]
  exact ⟨⟨⟨notes, h1, rfl⟩, rfl⟩, rfl, rfl⟩

/-- A frame that takes a slot and does not decode (R161, step 6). -/
theorem State.bad_answered {s : State} {f : Frame} (h : s.slot f.tag = none) (k : Option ReqKind) :
    s.answered f [6] (((s.takeSlot k f).answer f.tag .badRequest []).consult) := by
  have h' := find_tag_none h
  have hs : (s.takeSlot k f).slot f.tag = some (newSlot k f) := by
    simp only [State.slot] at h ⊢; simp [h, newSlot]
  rw [State.answer, State.finish_current hs rfl]
  obtain ⟨notes, rest, h1, _, h3⟩ := State.consult_eq
   { s with
    link := { s.link with txq := s.txAfter (plainTx (replyFrame f.tag (le 1 Status.badRequest.code ++ []))) }
    req := { s.req with
      cache := cacheAfter s.req.cache (CacheEntry.mk f.tag f.digest (replyFrame f.tag (le 1 Status.badRequest.code ++ []))) } }
  have : ({ (s.takeSlot k f) with
      link := { (s.takeSlot k f).link with txq := (s.takeSlot k f).txAfter (plainTx (replyFrame f.tag (le 1 Status.badRequest.code ++ []))) }
      req := { (s.takeSlot k f).req with
        slots := (s.takeSlot k f).req.slots.filter (fun x => x.tag != f.tag)
        cache := (if (s.takeSlot k f).req.cache.length < Config.maxCache then (s.takeSlot k f).req.cache else (s.takeSlot k f).req.cache.drop 1)
          ++ [{ tag := f.tag, digest := (newSlot k f).digest, frame := replyFrame f.tag (le 1 Status.badRequest.code ++ []) }] } } : State) = { s with
    link := { s.link with txq := s.txAfter (plainTx (replyFrame f.tag (le 1 Status.badRequest.code ++ []))) }
    req := { s.req with
      cache := cacheAfter s.req.cache (CacheEntry.mk f.tag f.digest (replyFrame f.tag (le 1 Status.badRequest.code ++ []))) } } := by
    simp [newSlot, filter_other h', cacheAfter, State.txAfter]
  rw [this, h3]
  exact ⟨⟨⟨⟨notes, h1, rfl⟩, rfl⟩, rfl⟩, rfl⟩

/-! ## A taken request is acted on -/

theorem exec_request {s : State} (h : s.held = false) (k : ReqKind) (tag flags : Byte) (payload : List Byte) :
    exec (requestCommand k tag flags payload) s = .next (s.handOver (requestFrame k tag flags payload)) := by
  rw [← frameCommand_request]; exact exec_frame h _

theorem exec_get_taken {s : State} {tag flags : Byte} {payload : List Byte} {k : Key}
    (h : s.takes .get (requestFrame .get tag flags payload) (.get k) = true) :
    exec (.get tag flags payload) s
      = .next ((s.taken .get (requestFrame .get tag flags payload) (.get k)).actGet tag k) := by
  have hx := exec_request (State.takes_held h) .get tag flags payload
  rw [show s.handOver (requestFrame .get tag flags payload) = s.takeGet (requestFrame .get tag flags payload) from rfl,
    State.takeGet, State.accept_takes h] at hx
  exact hx

theorem exec_stat_taken {s : State} {tag flags : Byte} {payload : List Byte} {k : Key}
    (h : s.takes .stat (requestFrame .stat tag flags payload) (.stat k) = true) :
    exec (.stat tag flags payload) s
      = .next ((s.taken .stat (requestFrame .stat tag flags payload) (.stat k)).actStat tag k) := by
  have hx := exec_request (State.takes_held h) .stat tag flags payload
  rw [show s.handOver (requestFrame .stat tag flags payload) = s.takeStat (requestFrame .stat tag flags payload) from rfl,
    State.takeStat, State.accept_takes h] at hx
  exact hx

theorem exec_list_taken {s : State} {tag flags : Byte} {payload : List Byte} {after : Option Key} {max : Nat}
    (h : s.takes .list (requestFrame .list tag flags payload) (.list after max) = true) :
    exec (.list tag flags payload) s
      = .next ((s.taken .list (requestFrame .list tag flags payload) (.list after max)).actList tag after max) := by
  have hx := exec_request (State.takes_held h) .list tag flags payload
  rw [show s.handOver (requestFrame .list tag flags payload) = s.takeList (requestFrame .list tag flags payload) from rfl,
    State.takeList, State.accept_takes h] at hx
  exact hx

theorem exec_put_taken {s : State} {tag flags : Byte} {payload : List Byte} {r : Request}
    (h : s.takes .put (requestFrame .put tag flags payload) r = true) :
    exec (.put tag flags payload) s
      = .next ((s.taken .put (requestFrame .put tag flags payload) r).joinList tag) := by
  have hx := exec_request (State.takes_held h) .put tag flags payload
  rw [show s.handOver (requestFrame .put tag flags payload) = s.takePut (requestFrame .put tag flags payload) from rfl,
    State.takePut, State.accept_takes h] at hx
  exact hx

theorem exec_delete_taken {s : State} {tag flags : Byte} {payload : List Byte} {r : Request}
    (h : s.takes .delete (requestFrame .delete tag flags payload) r = true) :
    exec (.delete tag flags payload) s
      = .next ((s.taken .delete (requestFrame .delete tag flags payload) r).joinList tag) := by
  have hx := exec_request (State.takes_held h) .delete tag flags payload
  rw [show s.handOver (requestFrame .delete tag flags payload) = s.takeDelete (requestFrame .delete tag flags payload) from rfl,
    State.takeDelete, State.accept_takes h] at hx
  exact hx

theorem exec_fence_taken {s : State} {tag flags : Byte} {payload : List Byte} {r : Request}
    (h : s.takes .fence (requestFrame .fence tag flags payload) r = true) :
    exec (.fence tag flags payload) s
      = .next ((s.taken .fence (requestFrame .fence tag flags payload) r).joinList tag) := by
  have hx := exec_request (State.takes_held h) .fence tag flags payload
  rw [show s.handOver (requestFrame .fence tag flags payload) = s.takeFence (requestFrame .fence tag flags payload) from rfl,
    State.takeFence, State.accept_takes h] at hx
  exact hx

theorem exec_beginGroup_taken {s : State} {tag flags : Byte} {payload : List Byte} {r : Request}
    (h : s.takes .beginGroup (requestFrame .beginGroup tag flags payload) r = true) :
    exec (.beginGroup tag flags payload) s
      = .next ((s.taken .beginGroup (requestFrame .beginGroup tag flags payload) r).actBegin tag) := by
  have hx := exec_request (State.takes_held h) .beginGroup tag flags payload
  rw [show s.handOver (requestFrame .beginGroup tag flags payload) = s.takeBegin (requestFrame .beginGroup tag flags payload) from rfl,
    State.takeBegin, State.accept_takes h] at hx
  exact hx

theorem exec_commit_taken {s : State} {tag flags : Byte} {payload : List Byte} {r : Request}
    (h : s.takes .commit (requestFrame .commit tag flags payload) r = true) :
    exec (.commit tag flags payload) s
      = .next ((s.taken .commit (requestFrame .commit tag flags payload) r).joinList tag) := by
  have hx := exec_request (State.takes_held h) .commit tag flags payload
  rw [show s.handOver (requestFrame .commit tag flags payload) = s.takeCommit (requestFrame .commit tag flags payload) from rfl,
    State.takeCommit, State.accept_takes h] at hx
  exact hx

theorem exec_abort_taken {s : State} {tag flags : Byte} {payload : List Byte} {r : Request}
    (h : s.takes .abort (requestFrame .abort tag flags payload) r = true) :
    exec (.abort tag flags payload) s
      = .next ((s.taken .abort (requestFrame .abort tag flags payload) r).actAbort tag) := by
  have hx := exec_request (State.takes_held h) .abort tag flags payload
  rw [show s.handOver (requestFrame .abort tag flags payload) = s.takeAbort (requestFrame .abort tag flags payload) from rfl,
    State.takeAbort, State.accept_takes h] at hx
  exact hx

theorem exec_space_taken {s : State} {tag flags : Byte} {payload : List Byte} {r : Request}
    (h : s.takes .space (requestFrame .space tag flags payload) r = true) :
    exec (.space tag flags payload) s
      = .next ((s.taken .space (requestFrame .space tag flags payload) r).actSpace tag) := by
  have hx := exec_request (State.takes_held h) .space tag flags payload
  rw [show s.handOver (requestFrame .space tag flags payload) = s.takeSpace (requestFrame .space tag flags payload) from rfl,
    State.takeSpace, State.accept_takes h] at hx
  exact hx

theorem exec_sectors_taken {s : State} {tag flags : Byte} {payload : List Byte} {a n : Nat}
    (h : s.takes .sectors (requestFrame .sectors tag flags payload) (.sectors a n) = true) :
    exec (.sectors tag flags payload) s
      = .next ((s.taken .sectors (requestFrame .sectors tag flags payload) (.sectors a n)).actSectors tag a n) := by
  have hx := exec_request (State.takes_held h) .sectors tag flags payload
  rw [show s.handOver (requestFrame .sectors tag flags payload) = s.takeSectors (requestFrame .sectors tag flags payload) from rfl,
    State.takeSectors, State.accept_takes h] at hx
  exact hx

theorem exec_tidy_taken {s : State} {tag flags : Byte} {payload : List Byte} {t : Nat}
    (h : s.takes .tidy (requestFrame .tidy tag flags payload) (.tidy t) = true) :
    exec (.tidy tag flags payload) s
      = .next ((s.taken .tidy (requestFrame .tidy tag flags payload) (.tidy t)).actTidy tag t) := by
  have hx := exec_request (State.takes_held h) .tidy tag flags payload
  rw [show s.handOver (requestFrame .tidy tag flags payload) = s.takeTidy (requestFrame .tidy tag flags payload) from rfl,
    State.takeTidy, State.accept_takes h] at hx
  exact hx

theorem exec_format_taken {s : State} {tag flags : Byte} {payload : List Byte} {r : Request}
    (h : s.takes .format (requestFrame .format tag flags payload) r = true) :
    exec (.format tag flags payload) s
      = .next ((s.taken .format (requestFrame .format tag flags payload) r).actFormat tag) := by
  have hx := exec_request (State.takes_held h) .format tag flags payload
  rw [show s.handOver (requestFrame .format tag flags payload) = s.takeFormat (requestFrame .format tag flags payload) from rfl,
    State.takeFormat, State.accept_takes h] at hx
  exact hx

theorem exec_reset_taken {s : State} {tag flags : Byte} {payload : List Byte} {m : ResetMode}
    (h : s.takes .reset (requestFrame .reset tag flags payload) (.reset m) = true) :
    exec (.reset tag flags payload) s
      = .next ((s.taken .reset (requestFrame .reset tag flags payload) (.reset m)).actReset tag m) := by
  have hx := exec_request (State.takes_held h) .reset tag flags payload
  rw [show s.handOver (requestFrame .reset tag flags payload) = s.takeReset (requestFrame .reset tag flags payload) from rfl,
    State.takeReset, State.accept_takes h] at hx
  exact hx

/-- A taken request changes nothing but the Request Table. -/
@[simp] theorem State.taken_frame (s : State) (k : ReqKind) (f : Frame) (r : Request) :
    (s.taken k f r).link = s.link ∧ (s.taken k f r).dir = s.dir ∧ (s.taken k f r).wq = s.wq ∧ (s.taken k f r).grp = s.grp
    ∧ (s.taken k f r).lw = s.lw ∧ (s.taken k f r).arr = s.arr ∧ (s.taken k f r).flash = s.flash ∧ (s.taken k f r).sm = s.sm
    ∧ (s.taken k f r).mount = s.mount ∧ (s.taken k f r).sup = s.sup ∧ (s.taken k f r).dev = s.dev
    ∧ (s.taken k f r).seeds = s.seeds ∧ (s.taken k f r).pending = s.pending :=
  ⟨rfl, rfl, rfl, rfl, rfl, rfl, rfl, rfl, rfl, rfl, rfl, rfl, rfl⟩

@[simp] theorem State.taken_entry (s : State) (k : ReqKind) (f : Frame) (r : Request) (key : Key) :
    (s.taken k f r).entry key = s.entry key := rfl

/-- A request that holds a slot is answered, in either session. -/
theorem State.closed_answer {s : State} {tag : Byte} {sl : Slot} (h : s.slot tag = some sl) (st : Status) (fields : List Byte) :
    s.closed sl (le 1 st.code ++ fields) (s.answer tag st fields).consult ∧ s.otherwiseSame (s.answer tag st fields).consult := by
  have ht : sl.tag = tag := by have := List.find?_some h; simpa using this
  subst ht
  cases hc : sl.session with
  | current =>
    rw [State.answer, State.finish_current h hc]
    obtain ⟨notes, rest, h1, _, h3⟩ := State.consult_eq ({ s with
      link := { s.link with txq := s.txAfter (plainTx (replyFrame sl.tag (le 1 st.code ++ fields))) }
      req := { s.req with
        slots := s.req.slots.filter (fun x => x.tag != sl.tag)
        cache := (if s.req.cache.length < Config.maxCache then s.req.cache else s.req.cache.drop 1)
          ++ [{ tag := sl.tag, digest := sl.digest, frame := replyFrame sl.tag (le 1 st.code ++ fields) }] } })
    rw [h3]
    refine ⟨?_, rfl⟩
    unfold State.closed
    rw [hc]
    exact ⟨⟨⟨notes, h1, rfl⟩, rfl⟩, rfl⟩
  | ended =>
    rw [State.answer, State.finish_ended h hc]
    obtain ⟨notes, rest, h1, _, h3⟩ := State.consult_eq ({ s with req := { s.req with slots := s.req.slots.filter (fun x => x.tag != sl.tag) } })
    rw [h3]
    refine ⟨?_, rfl⟩
    unfold State.closed
    rw [hc]
    exact ⟨⟨⟨notes, h1, rfl⟩, rfl⟩, rfl⟩

end Sys2Proof.Machine
end

