-- ==== Sys2Proof/Laws/Writes.lean ====
section
/-! SUPPORT. A write-class request considered as soon as it arrives (R39 to R43, R64, R65). -/

namespace Sys2Proof.Machine

/-- The state in which a request that has just joined an empty Admission List is considered. -/
def State.atHead (s : State) (k : ReqKind) (f : Frame) (r : Request) : State :=
  (s.taken k f r).modQueue (fun q => { q with admission := [f.tag] })

/-- Leaving the list gives back the state in which the request has been taken. -/
theorem State.atHead_leaves {s : State} (h : s.listOpen) (k f r) : (s.atHead k f r).leaveList f.tag = s.taken k f r := by
  have hn : [f.tag].filter (fun t => t != f.tag) = [] := by simp
  show { s.taken k f r with wq := { s.wq with admission := [f.tag].filter (fun t => t != f.tag) } } = _
  rw [hn, ← h.1]; rfl

/-- A write-class request that joins an empty Admission List is considered once: `u` is the state its
consideration leaves (R39, R40). -/
theorem State.joinList_open {s : State} {f : Frame} (hs : s.slot f.tag = none) (h : s.listOpen) {k r} {u : State}
    (hu : ((s.atHead k f r).considerHead (s.takenSlot k f r)).state = u) :
    (s.taken k f r).joinList f.tag = (if u.wq.entries.length = s.wq.entries.length then u.consultFor f.tag else u.settleFor f.tag) := by
  subst hu
  have h1 : (s.taken k f r).wq.admission = [] := h.1
  have h2 : (s.atHead k f r).slot f.tag = some (s.takenSlot k f r) := State.taken_slot hs k r
  have h3 : (s.taken k f r).modQueue (fun q => { q with admission := q.admission ++ [f.tag] }) = s.atHead k f r := by
    simp [State.atHead, State.modQueue, show s.wq.admission = [] from h.1]
  have h4 : (s.atHead k f r).considerAdmissions = ((s.atHead k f r).considerHead (s.takenSlot k f r)).state := by
    have hf : (s.atHead k f r).wq.frozen = false := h.2
    have ha : (s.atHead k f r).wq.admission = [f.tag] := rfl
    simp only [State.considerAdmissions, hf, ha, List.length_singleton, State.considerUpTo, h2]
    cases (s.atHead k f r).considerHead (s.takenSlot k f r) <;> rfl
  simp only [State.joinList, h1, if_true, h3, State.considerArrival, h4]
  rfl

/-- A write that the device state lets in meets no check of R41. -/
theorem State.headGate_none {s : State} (hg : s.gate .put = none) (hm : s.wq.mediaFault = false) (k f r) : (s.atHead k f r).headGate = none := by
  have : s.dev.state = .online := by
    simp only [State.gate] at hg
    split at hg
    · cases hg
    · simp only [gateTable, gateWrite] at hg; revert hg; cases s.dev.state <;> simp
  have hd : (s.atHead k f r).dev.state = .online := this
  have hq : (s.atHead k f r).wq.mediaFault = false := hm
  simp [State.headGate, hd, hq]

/-- A taken PUT or DELETE joins the Admission List. -/
theorem exec_write_taken {s : State} {deletes tag flags p w}
    (h : s.takesWrite deletes (requestFrame (writeReqKind deletes) tag flags p) w = true) :
    exec (writeCommand deletes tag flags p) s = .next ((s.taken (writeReqKind deletes) (requestFrame (writeReqKind deletes) tag flags p) (writeRequest deletes w)).joinList tag) := by
  cases deletes with
  | false => exact exec_put_taken h
  | true => exact exec_delete_taken h

/-- The consideration of a PUT or DELETE is that of a lone write or of a member (R42, R43, R64, R65). -/
theorem State.considerHead_write {s : State} {deletes tag flags p w}
    (h : s.takesWrite deletes (requestFrame (writeReqKind deletes) tag flags p) w = true) (hm : s.wq.mediaFault = false) :
    let f := requestFrame (writeReqKind deletes) tag flags p
    (s.atHead (writeReqKind deletes) f (writeRequest deletes w)).considerHead (s.takenSlot (writeReqKind deletes) f (writeRequest deletes w)) =
     if w.group then (s.atHead (writeReqKind deletes) f (writeRequest deletes w)).considerMember tag deletes w (s.grp.group.map (fun g => g.id))
     else (s.atHead (writeReqKind deletes) f (writeRequest deletes w)).considerLone tag deletes w := by
  intro f
  have hg := State.takes_gate h
  cases deletes with
  | false =>
    have := State.headGate_none hg hm .put f (.put w)
    show (match (s.atHead .put f (.put w)).headGate with | some st => _ | none => _) = _
    rw [this]
    cases hw : w.group with
    | false => simp [writeReqKind, writeRequest]; rfl
    | true => simp [hw, writeReqKind, writeRequest, State.takenSlot, newSlot, Request.binds]; rfl
  | true =>
    have := State.headGate_none (s := s) hg hm .delete f (.delete w)
    show (match (s.atHead .delete f (.delete w)).headGate with | some st => _ | none => _) = _
    rw [this]
    cases hw : w.group with
    | false => simp [writeReqKind, writeRequest]; rfl
    | true => simp [hw, writeReqKind, writeRequest, State.takenSlot, newSlot, Request.binds]; rfl

/-- The checks of R42 and R43 in the terms of the claims. -/
theorem tooLarge_iff (d w) : tooLarge d w = true ↔ ¬ sizesFit d w := by
  simp [tooLarge, sizesFit]; omega

theorem State.absent_iff (s : State) (d k) : (d && s.isAbsent k) = true ↔ ¬ s.deletable d k := by
  cases d <;> simp [State.deletable]

theorem State.cond_iff (s : State) (w : WriteFields) : (w.ifSeq.any (fun q => q != s.checkSeq w.key)) = true ↔ ¬ s.condHolds w := by
  simp only [State.condHolds]
  cases w.ifSeq <;> simp

theorem State.place_iff (s : State) (k) : (s.needsPlace k && decide (Config.maxEntries ≤ s.places)) = true ↔ ¬ s.placeFree k := by
  simp [State.needsPlace, State.placeFree]
  constructor
  · rintro ⟨⟨h1, h2⟩, h3⟩; simp [h1, h2]; omega
  · rintro ⟨h1, h2, h3⟩
    simp_all

/-- A request that is refused at its one consideration is answered, and nothing else changes. -/
theorem State.joinList_refuse {s : State} {f : Frame} (hs : s.slot f.tag = none) (h : s.listOpen) {k r st fields}
   (hc : (s.atHead k f r).considerHead (s.takenSlot k f r) = (s.atHead k f r).refuse f.tag st fields) :
   s.answered f (le 1 st.code ++ fields) ((s.taken k f r).joinList f.tag) := by
  have hu : ((s.atHead k f r).considerHead (s.takenSlot k f r)).state = (s.taken k f r).answer f.tag st fields := by
    rw [hc, State.refuse, State.atHead_leaves h]; rfl
  rw [State.joinList_open hs h hu, if_pos (by simp), State.consultFor_answered (State.taken_answer_slot hs k r st fields)]
  exact State.taken_answered hs k r st fields

end Sys2Proof.Machine
end

