-- ==== Sys2Proof/Laws/Queue.lean ====
section
/-! SUPPORT. Admitted bytes, the hold timer, the discard of a group, and the ends of an answered and of a
parked request (R38, R73, R157, R164, R165). -/

namespace Sys2Proof.Machine

/-- Admitted bytes take a value, and SPACE_LOW is marked when that crosses the mark upward (R38). -/
theorem State.setAdmitted_eq (n : Nat) (s : State) : s.setAdmitted n
    = { s with link := { s.link with notices := s.noticesAfter n }, dir := { s.dir with admitted := n } } := by
  simp only [State.setAdmitted, State.crossMark, aboveMark, State.noticesAfter]
  by_cases h1 : s.dir.limit * 9 < s.dir.admitted * 10
  · have : ¬ s.dir.admitted * 10 ≤ s.dir.limit * 9 := by omega
    simp [h1, this]
  · have : s.dir.admitted * 10 ≤ s.dir.limit * 9 := by omega
    by_cases h2 : s.dir.limit * 9 < n * 10 <;> simp [h1, h2, this, State.mark]

/-- Bytes that leave admitted bytes mark nothing. -/
theorem State.noticesAfter_le {s : State} {n : Nat} (h : n ≤ s.dir.admitted) : s.noticesAfter n = s.link.notices := by
  simp only [State.noticesAfter]
  rw [if_neg]; omega

/-- The hold timer starts when something is queued in HOLD (R157). -/
theorem State.startHoldTimer_eq (s : State) : s.startHoldTimer
    = { s with sup := { s.sup with holdTimer := s.sup.holdTimer || decide (s.sup.condition = .hold ∧ s.wq.entries ≠ []) } } := by
  simp only [State.startHoldTimer]
  split
  · rename_i h; simp [h]
  · rename_i h; simp [h]

/-- The hold timer stops once nothing is queued (R157). -/
theorem State.stopHoldTimer_eq (s : State) : s.stopHoldTimer
    = { s with sup := { s.sup with holdTimer := s.sup.holdTimer && !s.wq.entries.isEmpty } } := by
  simp only [State.stopHoldTimer]
  split
  · rename_i h; simp [h]
  · rename_i h
    have : s.wq.entries.isEmpty = false := by simpa using h
    simp [this]

/-- The open group is discarded (R73). -/
theorem State.discardGroup_some {s : State} {g : OpenGroup} (h : s.grp.group = some g) : s.discardGroup
    = { s with grp := { s.grp with group := none }, dir := { s.dir with admitted := s.dir.admitted - g.bytes }
               wq := { s.wq with charged := s.wq.charged - g.bytes } } := by
  simp only [State.discardGroup, h]
  rw [State.setAdmitted_eq, State.noticesAfter_le (Nat.sub_le _ _)]
  rfl

theorem State.discardGroup_none {s : State} (h : s.grp.group = none) : s.discardGroup = s := by
  simp only [State.discardGroup, h]

/-- A reply to a request just taken, with the notices behind it. -/
theorem State.taken_answer_consult {s : State} {f : Frame} (h : s.slot f.tag = none) (k : ReqKind) (r : Request)
    (st : Status) (fields : List Byte) :
    ∃ notes rest, (∀ e ∈ notes, e.frame.kind = kindNote) ∧ ((s.taken k f r).answer f.tag st fields).consult = { s with
      link := { s.link with txq := s.txAfter (plainTx (replyFrame f.tag (le 1 st.code ++ fields))) ++ notes, notices := rest }
      req := { s.req with
        cache := cacheAfter s.req.cache (CacheEntry.mk f.tag f.digest (replyFrame f.tag (le 1 st.code ++ fields))) } } := by
  rw [State.taken_answer h]
  obtain ⟨notes, rest, h1, _, h3⟩ := State.consult_eq { s with
    link := { s.link with txq := s.txAfter (plainTx (replyFrame f.tag (le 1 st.code ++ fields))) }
    req := { s.req with
      cache := cacheAfter s.req.cache (CacheEntry.mk f.tag f.digest (replyFrame f.tag (le 1 st.code ++ fields))) } }
  exact ⟨notes, rest, h1, h3⟩

/-- A request just taken that waits, with the notices behind its PENDING. -/
theorem State.taken_waits_consult {s : State} {f : Frame} (h : s.slot f.tag = none) (k : ReqKind) (r : Request)
    {why : WaitReason} (hw : why ≠ .flashRead) :
    ∃ notes rest, (∀ e ∈ notes, e.frame.kind = kindNote) ∧ ((s.taken k f r).waitFor f.tag why).consultFor f.tag = { s with
      link := { s.link with txq := s.txAfter (plainTx (pendingFrame f.tag)) ++ notes, notices := rest }
      req := { s.req with
        slots := s.req.slots ++ [{ s.takenSlot k f r with state := .waiting, wait := some why, pendingSent := true }]
        cache := s.req.cache.filter (fun e => e.tag != f.tag) } } := by
  rw [State.consultFor, State.taken_told h k r hw]
  obtain ⟨notes, rest, h1, _, h3⟩ := State.consult_eq { s with
    link := { s.link with txq := s.txAfter (plainTx (pendingFrame f.tag)) }
    req := { s.req with
      slots := s.req.slots ++ [{ s.takenSlot k f r with state := .waiting, wait := some why, pendingSent := true }]
      cache := s.req.cache.filter (fun e => e.tag != f.tag) } }
  exact ⟨notes, rest, h1, h3⟩

end Sys2Proof.Machine
end

