-- ==== Sys2Proof/Tests/Slice0.lean ====
section
/-! SUPPORT. Tests: the spec's worked examples, the smoke tests of WellFormed, small tests of the commands, and
the witnesses of the statements' hypotheses. -/

namespace Sys2Proof.Tests

set_option Elab.async false

open Sys2Proof Sys2Proof.Machine

/-! ## Formats (R8, R184, R189, R190) -/

/-- The digits 1 to 9 as ASCII bytes, on which the check values of the CRCs are published. -/
def digits : List Byte := [0x31, 0x32, 0x33, 0x34, 0x35, 0x36, 0x37, 0x38, 0x39]

/-- The frame CRC's published check value (CRC-16 of R184's polynomial and initial value). -/
theorem test_crc16 : crc16 digits = 0x29B1 := by decide +kernel

/-- The record CRC's published check value (CRC-32 of R190). -/
theorem test_crc32 : crc32 digits = 0xCBF43926 := by decide +kernel

/-- The erase word check's published check value (CRC-8 of R190). -/
theorem test_crc8 : crc8 digits = 0xF4 := by decide +kernel

/-- R8's table of record bytes. -/
theorem test_recordBytes :
    [recordBytes 1 0, recordBytes 7 0, recordBytes 32 0, recordBytes 8 4, recordBytes 16 100, recordBytes 1 2000,
      recordBytes 32 2000] = [32, 32, 56, 40, 144, 2032, 2056] := by decide

/-- R190's example: key cfg/mode, a 1-byte value, sequence 1202, no group. -/
def exampleRecord : Record :=
  { kind := .data, key := [0x63, 0x66, 0x67, 0x2F, 0x6D, 0x6F, 0x64, 0x65], value := [0x07], seq := 1202, group := none }

theorem test_example_header :
    exampleRecord.image.take 16 = [0x01, 0x08, 0x01, 0, 0, 0, 0, 0, 0xB2, 0x04, 0, 0, 0, 0, 0, 0] := by decide +kernel

theorem test_example_body :
    (exampleRecord.image.drop 16).take 16 = exampleRecord.key ++ [0x07, 0xFF, 0xFF, 0xFF, 0xFF, 0xFF, 0xFF, 0xFF] := by
  decide +kernel

theorem test_example_trailer : exampleRecord.image.drop 36 = [0x28, 0, 0, 0] ∧ exampleRecord.image.length = 40 := by
  decide +kernel

/-- A blank word is no open word, and an all-zeros word no erase word (R190). -/
theorem test_blank_words : decodeOpenWord (BitVec.allOnes 64) = none ∧ decodeEraseWord 0 = none := by decide +kernel

/-- The magic's byte order (R189): the word holds 3A 5C in bytes 0 and 1. -/
theorem test_erase_magic : (eraseWord 0x0102 5) &&& 0xFFFFFFFF#64 = 0x01025C3A#64 := by decide +kernel

/-- Generation 1 as an open word (R189). -/
theorem test_open_word : openWord 1 = 0xFFFFFFFE00000001#64 := by decide +kernel

/-- Admission limits (R37's table). -/
theorem test_limits : [admissionLimit 128, admissionLimit 127, admissionLimit 125] = [3555328, 3526656, 3469312] := by
  decide

/-- Item sizes (R89's table). -/
theorem test_itemSize : (ListItem.size { key := List.replicate 22 0, state := .present, valLen := 0, seq := 1 }) = 32 := by
  decide

/-! ## WellFormed: each check refuses an ill-formed command -/

theorem test_wf_payload_long : (Instr.put 0 0 (List.replicate 2081 0)).wellFormed = false := by decide +kernel
theorem test_wf_payload_fits : (Instr.put 0 0 (List.replicate 2080 0)).wellFormed = true := by decide +kernel
theorem test_wf_kind_short : (Instr.unknownKindFrame [0x58] 0 0 []).wellFormed = false := by decide
theorem test_wf_kind_known : (Instr.unknownKindFrame (kindCode .get) 0 0 []).wellFormed = false := by decide
theorem test_wf_unknown_payload : (Instr.unknownKindFrame [0x58, 0x58, 0x58, 0x58] 0 0 (List.replicate 2081 0)).wellFormed
    = false := by decide +kernel
theorem test_wf_word_index : (Instr.getReadComplete [(4096, blankWord)]).wellFormed = false := by decide
theorem test_wf_word_fits : (Instr.erasePulseComplete [(4095, blankWord)]).wellFormed = true := by decide

/-- No word of the table spells a command. -/
theorem test_no_table_word : decodeTableWord 32 0 = none ∧ State.reset.withFetchWord 32 0 = State.reset := ⟨rfl, rfl⟩

/-! ## A small machine -/

/-- A sector of the small machine. -/
def sector (st : SectorState) (count live dead : Nat) : SectorEntry :=
  { SectorEntry.initial with state := st, eraseCount := count, live := live, dead := dead }

/-- Online and idle, with three ERASED sectors, a FULL one and room for three more. -/
def base : State :=
  { State.reset with
    link := { State.reset.link with txq := [] }
    dir := { entries := [], reserved := [], admitted := 0, limit := 3555328 }
    wq := { State.reset.wq with seqCounter := some 1 }
    lw := { State.reset.lw with genCounter := some 1 }
    arr := { State.reset.arr with op := none }
    sm := { State.reset.sm with table := [sector .erased 9 0 0, sector .erased 8 0 0, sector .erased 7 0 0,
      sector .full 5 40 100, sector .stale 4 0 0, sector .stale 4 0 0, sector .stale 4 0 0] }
    mount := none
    dev := { State.reset.dev with state := .online } }

/-- The state after a command; the state itself if it stops. -/
def after (c : Instr) (s : State) : State :=
  match exec c s with
  | .next t => t
  | .fault _ | .refused _ => s

/-- The payloads of the frames that wait to be sent. -/
def sent (s : State) : List (List Byte) := s.link.txq.map (fun e => e.frame.payload)

/-- The key a. -/
def keyA : Key := [0x61]
/-- The key b. -/
def keyB : Key := [0x62]

/-- A durable entry of a key, in sector 3 at offset 16. -/
def durableEntry (k : Key) : Entry :=
  { key := k, state := .present, newestSeq := 5, newestLen := 2, queued := 0, flashCopies := 1,
    durable := some { sector := 3, offset := 16, seq := 5, kind := .data, recLen := 32, valLen := 2 } }

/-- The same with a write queued. -/
def queuedEntry (k : Key) : Entry := { durableEntry k with newestSeq := 9, newestLen := 1, queued := 1 }

/-- A Write Queue entry of a key. -/
def queueEntry (k : Key) (waiter : Option Byte) : QueueEntry :=
  { key := k, kind := .data, seq := 9, recLen := 32, value := [0x2A], group := none, waiter := waiter, state := .waiting }

/-- The machine with these Directory entries, whose durable parts take 32 bytes each. -/
def withEntries (es : List Entry) (s : State) : State :=
  { s with dir := { s.dir with entries := es, admitted := s.dir.admitted + 32 * es.length } }

/-- The machine with one queued write of key a over its durable version. -/
def busy : State :=
  let s := withEntries [queuedEntry keyA] base
  { s with dir := { s.dir with admitted := 64 }
           wq := { s.wq with entries := [queueEntry keyA none], charged := 32, seqCounter := some 10 } }

/-- A member of a group. -/
def member (k : Key) : Member := { key := k, kind := .data, value := [1], recLen := 32, ifSeq := none }

/-- The machine with an open group. -/
def grouped (ms : List Member) : State :=
  { base with grp := { group := some { id := 1, members := ms, bytes := 32 * ms.length }, counter := 2 }
              dir := { base.dir with admitted := 32 * ms.length }
              wq := { base.wq with charged := 32 * ms.length } }

/-- The payload of a PUT of key a with the value 42. -/
def putA : List Byte := [0, 0, 1, 0x61, 1, 0, 0x2A]
/-- The write it asks for. -/
def writeA : WriteFields := { durable := false, group := false, key := keyA, value := [0x2A], ifSeq := none }
/-- The same with its group flag. -/
def putGroup : List Byte := [0, 2, 1, 0x61, 1, 0, 0x2A]
/-- The write it asks for. -/
def writeGroup : WriteFields := { writeA with group := true }

/-- A slot in use. -/
def slotOf (kind : ReqKind) (tag : Byte) (r : Request) : Slot :=
  { newSlot (some kind) { kind := kindCode kind, tag := tag, flags := 0, payload := [] } with request := some r }

/-- The machine with these slots in use. -/
def withSlots (slots : List Slot) (s : State) : State := { s with req := { s.req with slots := slots } }

/-- Eight slots in use, with tags 1 to 8. -/
def eight : List Slot := (List.range 8).map (fun n => slotOf .get (BitVec.ofNat 8 (n + 1)) (.get keyA))

/-- The machine with an array operation under way. -/
def withOp (op : ArrayOp) (s : State) : State := { s with arr := { s.arr with op := some op } }

/-- The machine with an erase under way. -/
def withErase (phase : ErasePhase) (s : State) : State :=
  { s with arr := { s.arr with erase := some { req := { sector := 4, epoch := 0, count := 5, forFormat := false }, phase := phase } }
           sm := { s.sm with batch := { running := true, members := [4], window := false } } }

/-- The machine in HOLD. -/
def inHold (s : State) : State := { s with sup := { s.sup with condition := .hold } }

/-! ## The commands -/

theorem test_hello_session : (after (.hello 3 0 [0, 7, 0]) (withSlots eight base)).req.session = 7
    ∧ (after (.hello 3 0 [0, 7, 0]) (withSlots eight base)).req.slots.all (fun sl => sl.session == .ended) := by
  decide +kernel

theorem test_hello_zero_session : sent (after (.hello 3 0 [0, 0, 0]) base) = [[6]] := by decide +kernel

theorem test_get_not_found : sent (after (.get 3 0 [1, 0x61]) base) = [[1]] := by decide +kernel

theorem test_get_queued : sent (after (.get 3 0 [1, 0x61]) busy) = [[0, 1, 0, 0x2A, 9, 0, 0, 0, 0, 0, 0]] := by decide +kernel

theorem test_stat : sent (after (.stat 3 0 [1, 0x61]) busy)
    = [[0, 1, 0, 1, 0, 9, 0, 0, 0, 0, 0, 5, 0, 0, 0, 0, 0, 1]] := by decide +kernel

theorem test_list_one : sent (after (.list 3 0 [0, 1]) (withEntries [durableEntry keyA, durableEntry keyB] base))
    = [[0, 1, 1, 1, 0x61, 0, 2, 0, 5, 0, 0, 0, 0, 0]] := by decide +kernel

theorem test_put_admitted : sent (after (.put 3 0 putA) base) = [[0, 1, 0, 0, 0, 0, 0]]
    ∧ (after (.put 3 0 putA) base).dir.admitted = 32 := by decide +kernel

/-- A PUT opens the ERASED sector of the lowest erase count, sector 2. -/
theorem test_put_opens : (after (.put 3 0 putA) base).lw.openAt = some { sector := 2, offset := 16 } := by decide +kernel

theorem test_delete_absent : sent (after (.delete 3 0 [0, 0, 1, 0x61]) base) = [[1]] := by decide +kernel

theorem test_fence_empty : sent (after (.fence 3 0 []) base) = [[0]] := by decide +kernel

theorem test_fence_waits : (after (.fence 3 0 []) busy).wq.fences = [{ tag := 3, mark := 9, failed := false }] := by
  decide +kernel

theorem test_begin : sent (after (.beginGroup 3 0 []) base) = [[0, 1, 0]] := by decide +kernel

theorem test_group_put : sent (after (.put 3 0 putGroup) (grouped [member keyB])) = [[0, 2]] := by decide +kernel

theorem test_commit_empty : sent (after (.commit 3 0 []) (grouped [])) = [[0, 0, 0]] := by decide +kernel

theorem test_commit_queues : ((after (.commit 3 0 []) (grouped [member keyA, member keyB])).wq.entries.map
    (fun q => (q.seq, q.group, q.waiter))) = [(1, some (1, false), none), (2, some (1, true), some 3)] := by decide +kernel

theorem test_abort : sent (after (.abort 3 0 []) (grouped [member keyA])) = [[0, 1]]
    ∧ (after (.abort 3 0 []) (grouped [member keyA])).dir.admitted = 0 := by decide +kernel

theorem test_space_counts : (sent (after (.space 3 0 []) base)).map (fun p => p.take 8) = [[0, 3, 0, 1, 0, 3, 0, 0]] := by
  decide +kernel

theorem test_sectors_row : sent (after (.sectors 3 0 [3, 1]) base)
    = [[0, 1, 3, 2, 5, 0, 0, 0, 0, 0, 0, 40, 0, 100, 0, 0, 0, 0, 0, 0, 0]] := by decide +kernel

theorem test_tidy_none : sent (after (.tidy 3 0 [50]) base) = [[0, 0]] := by decide +kernel

theorem test_tidy_waits : (after (.tidy 3 0 [1]) { base with sm := { base.sm with table := [sector .full 5 0 328] } }).sm.engine
    = .walking := by decide +kernel

theorem test_format_not_idle : sent (after (.format 3 0 []) busy) = [[18]] := by decide +kernel

theorem test_format_epoch : (after (.format 3 0 []) base).sm.epoch = 1 ∧ (after (.format 3 0 []) base).dev.state = .formatting
    ∧ (after (.format 3 0 []) (withErase .blankCheck base)).arr.erase.map (fun r => r.req.epoch) = some 0 := by
  decide +kernel

/-- R148: with a batch erase that a FORMAT overtook ended DONE and no format erase begun, the word written carries
the old epoch. -/
theorem test_format_overtakes : ((after (.eraseWordProgramComplete true)
      (after (.format 3 0 []) (withErase .header base))).flash.word 4 0).erase? = some (0, 5) := by
  decide +kernel

theorem test_reset_discard : (after (.reset 3 0 [1]) busy).dev.restartLatch = true ∧ (after (.reset 3 0 [1]) busy).wq.frozen := by
  decide +kernel

theorem test_reset_drain : (after (.reset 3 0 [0]) busy).dev.state = .draining
    ∧ (after (.reset 3 0 [0]) busy).dev.restartLatch = false := by decide +kernel

theorem test_unknown_kind : sent (after (.unknownKindFrame [0x67, 0x65, 0x74, 0x76] 3 0 []) base) = [[6]] := by decide +kernel

theorem test_character_sync : (after (.characterReceived 0x5A false) base).link.rx = .header
    ∧ (after (.characterReceived 0x5B false) base).link.rx = .hunt := by decide +kernel

/-- The bytes of a SPACE frame, with its CRC, reach the Request Table. -/
theorem test_character_frame : ((feed (requestFrame .space 3 0 []).wire base).map (fun t => (sent t).map (fun p => p.take 2)))
    = some [[0, 3]] := by decide +kernel

theorem test_gap_drops : (after .gapTimerExpiry (after (.characterReceived 0x5A false) base)).link.rx = .hunt
    ∧ sent (after .gapTimerExpiry (after (.characterReceived 0x5A false) base)) = [[5]] := by decide +kernel

theorem test_break : sent (after .breakRecognised { base with link := { base.link with rate := 921600 } })
    = [[6, 0x00, 0xC2, 0x01, 0x00]] := by decide +kernel

theorem test_frame_sent_rate :
    (after .frameSent { base with link := { base.link with txq := [TxFrame.mk (replyFrame 3 []) (some 460800) false] } }).link.rate
    = 460800 := by decide +kernel

theorem test_list_step : sent (after (.listStep 3) (withSlots [{ slotOf .list 3 (.list none 5) with
      progress := .listing { cursor := some keyA, max := 5, items := [], bytes := 0 } }]
      (withEntries [durableEntry keyA] base))) = [[0, 0, 0]] := by decide +kernel

/-- A GET's read under way: the record of key a at sector 3. -/
def reading : State :=
  let d : ReadDescriptor := { key := keyA, sector := 3, offset := 16, recLen := 32, seq := 5, valLen := 2 }
  withOp (.read { who := .get 3, sector := 3, offset := 16, words := 4, discard := false })
    (withSlots [{ slotOf .get 3 (.get keyA) with progress := .reading d }] (withEntries [durableEntry keyA] base))

/-- The record of key a on the array. -/
def recordA : Record := { kind := .data, key := keyA, value := [7, 8], seq := 5, group := none }

/-- Words of a sector from word 2 on. -/
def imageAt (ws : List Word) : List (Nat × RawWord) := ws.mapIdx (fun i w => (i + 2, RawWord.mk w Ecc.clean))

theorem test_get_read : sent (after (.getReadComplete (imageAt recordA.words)) reading)
    = [[0, 2, 0, 7, 8, 5, 0, 0, 0, 0, 0, 1]] := by decide +kernel

/-- Blank words are no record: CORRUPT with the sequence. -/
theorem test_get_corrupt : sent (after (.getReadComplete []) reading) = [[12, 5, 0, 0, 0, 0, 0]] := by decide +kernel

/-- A walk of sector 3 under way, at its first record. -/
def walking (phase : WalkPhase) (offset words : Nat) : State :=
  let s := withOp (.read { who := .reclaim, sector := 3, offset := offset, words := words, discard := false })
    (withEntries [durableEntry keyA] base)
  { s with sm := { s.sm with engine := .walking, walk := some { victim := 3, offset := 16, phase := phase, sweep := false, forTidy := false }
                             table := [sector .erased 9 0 0, sector .erased 8 0 0, sector .erased 7 0 0, sector .reclaiming 5 40 100] } }

theorem test_reclaim_copies :
    ((after (.reclaimReadComplete (imageAt recordA.words)) (walking (.body []) 16 4)).lw.relocLane.map (fun r => r.record))
    = some recordA := by decide +kernel

theorem test_reclaim_marks_lost :
    ((after (.reclaimReadComplete []) (walking (.body []) 16 4)).dir.entries.map (fun e => e.state)) = [.lost] := by
  decide +kernel

theorem test_mount_first_header : (after (.mountReadComplete []) State.reset).mount.map (fun m => m.heads.length) = some 1
    ∧ (after (.mountReadComplete []) State.reset).arr.op = some (.read (Mount.headerRead 1)) := by decide +kernel

/-- The host lane's record of key a, its last word under way, at sector 2. -/
def lastWord : State :=
  withOp (.word { sector := 2, index := 5, data := 7, role := .lastWord, discard := false })
    { busy with lw := { busy.lw with openAt := some { sector := 2, offset := 16 }, point := .host
                                     hostLane := some { members := 1, total := 32 }
                                     cur := some { image := [1, 2, 3, 7], done := 3, begun := 4, member := 0 } }
                wq := { busy.wq with entries := [{ queueEntry keyA none with state := .programming }] } }

theorem test_word_durable : (after (.wordProgramComplete true) lastWord).wq.entries = []
    ∧ (after (.wordProgramComplete true) lastWord).dir.admitted = 32 := by decide +kernel

theorem test_word_fails : ((after (.wordProgramComplete false) lastWord).sector 2).fault = true
    ∧ (after (.wordProgramComplete false) lastWord).lw.hostFailures = 1 := by decide +kernel

theorem test_word_timeout : ((after .wordProgramTimeout lastWord).sector 2).state = .full := by decide +kernel

theorem test_erase_suspend :
    (after .eraseSuspend { withErase .pulse base with
      arr := { (withErase .pulse base).arr with gets := [Mount.headerRead 3] } }).arr.op = some (.read (Mount.headerRead 3)) := by
  decide +kernel

theorem test_erase_pulse : (after (.erasePulseComplete []) (withErase .pulse base)).flash.word 4 17 = blankWord := by
  decide +kernel

/-- R111: only running time counts, and a suspended erase does not time out. -/
theorem test_erase_timeout : ((after .eraseTimeout (withErase .pulse base)).sector 4).state = .retired
    ∧ after .eraseTimeout (withErase .suspended base) = withErase .suspended base := by decide +kernel

theorem test_blank_check_fails : ((after .blankCheckComplete { withErase .blankCheck base with
    flash := { cells := [(4 * 4096 + 4095, .stored (RawWord.mk 0 Ecc.clean))], wrecks := [] } }).sector 4).state = .retired := by
  decide +kernel

theorem test_erase_word : ((after (.eraseWordProgramComplete true) (withErase .header base)).sector 4).state = .erased
    ∧ ((after (.eraseWordProgramComplete true) (withErase .header base)).sector 4).eraseCount = 5 := by decide +kernel

theorem test_erase_window : (after .eraseWindowExpiry { base with sm := { base.sm with
    batch := { running := false, members := [4], window := true } } }).arr.erase.isSome = true := by decide +kernel

theorem test_supply_hold : (after .supplyBelowHold busy).sup.holdTimer = true
    ∧ (after .supplyBelowHold base).sup.holdTimer = false := by decide +kernel

theorem test_supply_normal : (after .qualificationTimerExpiry (after .supplyAboveNormal (inHold base))).sup.condition = .normal := by
  decide +kernel

theorem test_supply_fall : (after .supplyFallInQualification (after .supplyAboveNormal (inHold base))).sup.qualifying = false := by
  decide +kernel

theorem test_hold_expires : (after .holdTimerExpiry (after .supplyBelowHold busy)).dir.entries = [durableEntry keyA]
    ∧ (after .holdTimerExpiry (after .supplyBelowHold busy)).dir.admitted = 32 := by decide +kernel

theorem test_power_on : (after (.powerOnRelease true) (after .supplyAbovePowerOnThreshold (after .powerOnResetAsserted busy))).dev.state
    = .mounting := by decide +kernel

theorem test_power_on_no_rise : (after (.powerOnRelease true) (after .powerOnResetAsserted busy)).sup.powerOnReset = true := by
  decide +kernel

theorem test_nreset : (after .nresetHigh (after .nresetLow busy)).wq.entries = []
    ∧ (after .nresetLow busy).wq.entries.length = 1 := by decide +kernel

/-! ## Witnesses: states and operands that meet the hypotheses of the statements -/

/-- A frame of a kind with tag 9. -/
def frame (k : ReqKind) (payload : List Byte) : Frame := requestFrame k 9 0 payload

/-- The same as a retry. -/
def retried (k : ReqKind) (payload : List Byte) : Frame := requestFrame k 9 1 payload

/-- The machine with its queue holding one command. -/
def about (c : Instr) (s : State) : State := s.withQueue [c]

theorem witness_StepRunsFrontCommand : State.reset.pending = [] := rfl

theorem witness_EventsEndClean : exec (.put 9 0 putA) base = .next (after (.put 9 0 putA) base) ∧ base.marksOk :=
  ⟨rfl, by decide⟩

theorem witness_EveryCommandCompletes :
    (∀ r, reading.arr.op = some (.read r) → r.sector < 128 ∧ r.offset / 8 + r.words ≤ 4096)
    ∧ (∀ w, reading.arr.op = some (.word w) → w.sector < 128 ∧ w.index < 4096)
    ∧ (∀ r, reading.arr.erase = some r → r.req.sector < 128) :=
  ⟨by intro r h; cases h; decide, (by intro w h; cases h), by intro r h; cases h⟩

theorem witness_RecordRoundTrip : recordA.wellFormed = true
    ∧ values? (recordA.words.map (fun w => RawWord.mk w Ecc.corrected)) = some recordA.words ∧ 32736 + recordA.bytes ≤ 32768 := by
  decide +kernel

theorem witness_RecordRoundTrip_get : recordA.kind = .data
    ∧ ∃ d : ReadDescriptor, d.key = recordA.key ∧ d.seq = recordA.seq ∧ d.valLen = recordA.value.length ∧ d.recLen = recordA.bytes :=
  ⟨rfl, { key := keyA, sector := 3, offset := 16, recLen := 32, seq := 5, valLen := 2 }, by decide⟩

theorem witness_FrameThroughReceiver : (frame .get [1, 0x61]).kind.length = 4 ∧ (frame .get [1, 0x61]).payload.length ≤ 2080
    ∧ base.held = false ∧ base.link.rx = .hunt := by decide

theorem witness_FrameLayout : (frame .get (List.replicate 2080 0)).kind.length = 4
    ∧ (frame .get (List.replicate 2080 0)).payload.length ≤ 2080 := by decide +kernel

theorem witness_NoticePayloads : [NoticeKind.state, .wear].Pairwise (fun a b => a.number < b.number)
    ∧ NoticeKind.wear ∈ [NoticeKind.state, .wear] ∧ NoticeKind.spaceLow ∉ [NoticeKind.state, .wear] := by decide

/-- With four frames waiting, one notice joins, of the lowest kind. -/
theorem test_consult : (let s : State := { base with link := { base.link with
        txq := List.replicate 4 (plainTx (replyFrame 1 [0])), notices := [.state, .wear] } }
      ((sent s.consult).drop 4, s.consult.link.notices)) = ([[1, 3]], [.wear]) := by decide +kernel

theorem witness_ArrayStaysCanonical : (about (.wordProgramComplete true) lastWord).arrayOk
    ∧ ∃ t, step (about (.wordProgramComplete true) lastWord) = .next t := ⟨by decide +kernel, _, rfl⟩

theorem witness_LinkAndTimersKeepTheirLaws_link : (about (.characterReceived 0x5A false) base).linkOk
    ∧ ∃ t, step (about (.characterReceived 0x5A false) base) = .next t := ⟨by decide, _, rfl⟩

theorem witness_RequestTableKeepsItsLaws : (about (.get 9 0 [1, 0x61]) (withSlots eight base)).tableOk
    ∧ ∃ t, step (about (.get 9 0 [1, 0x61]) (withSlots eight base)) = .next t := ⟨by decide +kernel, _, rfl⟩

theorem witness_DirectoryKeepsItsLaws : (about (.put 9 0 putA) (withEntries [durableEntry keyB] base)).directoryOk
    ∧ ∃ t, step (about (.put 9 0 putA) (withEntries [durableEntry keyB] base)) = .next t :=
  ⟨⟨by decide, by decide, by intro m h; cases h⟩, _, rfl⟩

theorem witness_QueuesKeepTheirBounds : (about (.commit 9 0 []) (grouped [member keyA])).queueOk
    ∧ ∃ t, step (about (.commit 9 0 []) (grouped [member keyA])) = .next t :=
  ⟨⟨by decide, by decide, by intro g h; cases h; decide⟩, _, rfl⟩

theorem witness_SpaceAccountsAgree : (about .supplyBelowHold busy).accountOk
    ∧ ∃ t, step (about .supplyBelowHold busy) = .next t :=
  ⟨⟨by decide, by decide, by decide, by decide, by decide, (by intro g h; cases h), by intro m h; cases h⟩, _, rfl⟩

theorem witness_LinkAndTimersKeepTheirLaws_timers : (about .holdTimerExpiry (after .supplyBelowHold busy)).timersOk
    ∧ ∃ t, step (about .holdTimerExpiry (after .supplyBelowHold busy)) = .next t := ⟨by decide +kernel, _, rfl⟩

theorem witness_OneSectorOpen : (about (.put 9 0 putA) base).openOk ∧ ∃ t, step (about (.put 9 0 putA) base) = .next t :=
  ⟨⟨by intro n hn hs; exfalso; revert hs; revert n; decide, by intro m h; cases h⟩, _, rfl⟩

/-! ### Frames -/

theorem witness_FrameSettledWithoutSlot_tag : (withSlots eight base).fresh (requestFrame .get 8 0 []) = true
    ∧ kindOf (requestFrame .get 8 0 []).kind ≠ some .hello ∧ ((withSlots eight base).slot 8).isSome := by decide +kernel

theorem witness_FrameSettledWithoutSlot_full : (withSlots eight base).fresh (frame .get []) = true
    ∧ kindOf (frame .get []).kind ≠ some .hello ∧ (withSlots eight base).slot 9 = none
    ∧ 8 ≤ (withSlots eight base).req.slots.length := by decide +kernel

/-- A slot in use that holds the retried frame. -/
def retriedSlot : Slot := newSlot (some .get) (retried .get [1, 0x61])

theorem witness_FrameSettledWithoutSlot_slot : (withSlots [retriedSlot] base).held = false ∧ (retried .get [1, 0x61]).retry = true
    ∧ kindOf (retried .get [1, 0x61]).kind ≠ some .hello ∧ (withSlots [retriedSlot] base).slot 9 = some retriedSlot
    ∧ retriedSlot.session = .current ∧ retriedSlot.digest = (retried .get [1, 0x61]).digest := by decide +kernel

/-- The machine with a cached reply to the retried frame. -/
def cached : State :=
  { base with req := { base.req with cache := [CacheEntry.mk 9 (retried .get [1, 0x61]).digest (replyFrame 9 [1])] } }

theorem witness_FrameSettledWithoutSlot_cache : cached.slot 9 = none
    ∧ (cached.req.cache.find? (fun x => x.tag == 9)).map (fun e => e.digest) = some (retried .get [1, 0x61]).digest := by
  decide +kernel

theorem witness_FrameSettledWithoutSlot_new : base.held = false ∧ base.slot 9 = none ∧ base.req.cache = [] := by decide

theorem witness_FrameSettledWithoutSlot_orphan :
    (withSlots [{ retriedSlot with session := .ended }] base).slot 9 = some { retriedSlot with session := .ended } := by
  decide +kernel

/-- The machine in a device state. -/
def inState (d : DeviceState) : State := { base with dev := { base.dev with state := d } }

theorem witness_FramesRefused_state :
    ((inState .online).accepts (frame .put putA) = true ∧ kindOf (frame .put putA).kind = some .put
      ∧ decodeRequest .put (frame .put putA).payload = some (.put writeA))
    ∧ (inState .mounting).accepts (frame .put putA) = true ∧ (inState .formatting).accepts (frame .put putA) = true
    ∧ (inState .unformatted).accepts (frame .put putA) = true ∧ (inState .readOnly).accepts (frame .put putA) = true
    ∧ (inState .draining).accepts (frame .put putA) = true
    ∧ State.accepts { base with dev := { base.dev with restartLatch := true } } (frame .put putA) = true := by decide +kernel

theorem witness_FramesRefused_bad : base.accepts (frame .get [0]) = true ∧ decodeRequest .get [0] = none
    ∧ base.accepts { kind := [0x67, 0x65, 0x74, 0x76], tag := 9, flags := 0, payload := [] } = true
    ∧ kindOf [0x67, 0x65, 0x74, 0x76] = none := by decide +kernel

theorem witness_HelloDecided : base.held = false ∧ decodeHello [0, 0, 0] = none
    ∧ decodeHello [0, 0xFF, 0xFF] = some (65535, none) ∧ decodeHello [1, 1, 0, 0x00, 0xC2, 0x01, 0x00] = some (1, some 115200)
    ∧ (grouped [member keyA]).held = false ∧ (grouped [member keyA]).grp.group.isSome
    ∧ (grouped [member keyA]).wq.admission = [] := by decide +kernel

/-! ### Reading -/

theorem witness_KeyAnsweredAtLookup_stat : base.takes .stat (frame .stat [1, 0x61]) (.stat keyA) = true ∧ base.entry keyA = none
    ∧ busy.takes .stat (frame .stat [1, 0x61]) (.stat keyA) = true ∧ busy.entry keyA = some (queuedEntry keyA) := by
  decide +kernel

/-- The machine with one entry of key a in a state. -/
def oneEntry (st : EntryState) : State := withEntries [{ durableEntry keyA with state := st }] base

theorem witness_KeyAnsweredAtLookup_get :
    (base.takes .get (frame .get [1, 0x61]) (.get keyA) = true ∧ base.entry keyA = none)
    ∧ ((oneEntry .tombstone).takes .get (frame .get [1, 0x61]) (.get keyA) = true
      ∧ ((oneEntry .tombstone).entry keyA).map (fun e => e.state) = some .tombstone)
    ∧ ((oneEntry .lost).takes .get (frame .get [1, 0x61]) (.get keyA) = true
      ∧ ((oneEntry .lost).entry keyA).map (fun e => e.state) = some .lost)
    ∧ (busy.takes .get (frame .get [1, 0x61]) (.get keyA) = true ∧ busy.entry keyA = some (queuedEntry keyA)
      ∧ (queuedEntry keyA).state = .present ∧ 0 < (queuedEntry keyA).queued
      ∧ busy.wq.entries = [] ++ queueEntry keyA none :: []) := by decide +kernel

theorem witness_GetReadsTheArray_starts : (oneEntry .present).takes .get (frame .get [1, 0x61]) (.get keyA) = true
    ∧ (oneEntry .present).entry keyA = some (durableEntry keyA) ∧ (durableEntry keyA).state = .present
    ∧ (durableEntry keyA).queued = 0 ∧ (durableEntry keyA).durable.isSome := by decide +kernel

/-- A LIST in progress. -/
def listing : Listing := { cursor := some keyA, max := 1, items := [], bytes := 0 }

theorem witness_ListingStepsAndEnds_steps : base.takes .list (frame .list [0, 64]) (.list none 64) = true
    ∧ (withSlots [{ slotOf .list 9 (.list none 1) with progress := .listing listing }] base).held = false
    ∧ (withSlots [{ slotOf .list 9 (.list none 1) with progress := .listing listing }] base).slot 9
      = some { slotOf .list 9 (.list none 1) with progress := .listing listing } := by decide +kernel

theorem witness_ListingStepsAndEnds_ends : keysRise [durableEntry keyA, durableEntry keyB] ∧ listing.items.length < listing.max
    ∧ listing.bytes = (listing.items.map ListItem.size).sum ∧ listing.bytes ≤ 2048
    ∧ listing.items.Pairwise (fun a b => keyLt a.key b.key = true)
    ∧ (∀ i ∈ listing.items, ∃ c, listing.cursor = some c ∧ (i.key = c ∨ keyLt i.key c = true)) :=
  ⟨by decide, by decide, by decide, by decide, by decide, by intro i h; cases h⟩

/-- A listing ends full with a key behind its last item, or at the size limit. -/
theorem witness_ListingStepsAndEnds_more :
    Listing.step [durableEntry keyA, durableEntry keyB] { listing with cursor := none } = .ends [(durableEntry keyA).item] true
    ∧ Listing.step [durableEntry keyA, durableEntry keyB] { listing with bytes := 2048 } = .ends [] true := by decide +kernel

/-! ### Writing -/

theorem witness_WriteNotAdmittedAtOnce_taken : base.takesWrite false (frame .put putA) writeA = true ∧ writeA.group = false
    ∧ base.listOpen ∧ base.wq.mediaFault = false := by decide +kernel

/-- A PUT whose key has 33 bytes. -/
def longKey : WriteFields := { writeA with key := List.replicate 33 0x61 }

theorem witness_WriteNotAdmittedAtOnce_large : base.takesWrite false (frame .put (Request.put longKey).encode) longKey = true
    ∧ ¬ sizesFit false longKey := by decide +kernel

theorem witness_WriteNotAdmittedAtOnce_absent :
    base.takesWrite true (frame .delete [0, 0, 1, 0x61]) { writeA with value := [] } = true
    ∧ sizesFit true { writeA with value := [] } ∧ ¬ base.deletable true keyA := by
  refine ⟨by decide +kernel, by decide, ?_⟩
  intro h; exact absurd (h rfl) (by decide)

/-- A PUT with if-sequence 1 on an absent key. -/
def writeIf : WriteFields := { writeA with ifSeq := some 1 }

theorem witness_WriteNotAdmittedAtOnce_conflict :
    base.takesWrite false (frame .put [1, 0, 1, 0x61, 1, 0, 0x2A, 1, 0, 0, 0, 0, 0]) writeIf = true
    ∧ sizesFit false writeIf ∧ base.deletable false keyA ∧ ¬ base.condHolds writeIf := by
  refine ⟨by decide +kernel, by decide, nofun, ?_⟩
  intro h; exact absurd (h 1 rfl) (by decide)

/-- A full Directory: 3072 reserved places. -/
def fullDirectory : State :=
  { base with dir := { base.dir with reserved := List.replicate 3072 { key := keyB, victim := 3 } } }

theorem witness_WriteNotAdmittedAtOnce_noEntry : fullDirectory.takesWrite false (frame .put putA) writeA = true
    ∧ fullDirectory.condHolds writeA ∧ ¬ fullDirectory.placeFree keyA :=
  ⟨by decide +kernel, nofun, by decide +kernel⟩

/-- One byte short of the room a write of 32 bytes needs. -/
def noSpace : State := { base with dir := { base.dir with admitted := 3555328 - 31 } }

theorem witness_WriteNotAdmittedAtOnce_noSpace : noSpace.takesWrite false (frame .put putA) writeA = true
    ∧ noSpace.condHolds writeA ∧ noSpace.placeFree keyA ∧ ¬ noSpace.spaceFree (writeBytes false writeA) :=
  ⟨by decide +kernel, nofun, by decide, by decide⟩

/-- One byte short of the Staging Buffer room that a write of 32 bytes needs. -/
def noRoom : State := { base with wq := { base.wq with charged := 24576 - 31 } }

theorem passesLone_base (s : State) (h1 : s.placeFree keyA) (h2 : s.spaceFree 32) : s.passesLone false writeA :=
  ⟨by decide, nofun, nofun, h1, h2⟩

theorem witness_WriteNotAdmittedAtOnce_room : noRoom.takesWrite false (frame .put putA) writeA = true ∧ noRoom.listOpen
    ∧ noRoom.wq.mediaFault = false ∧ noRoom.passesLone false writeA ∧ ¬ noRoom.roomFree (writeBytes false writeA) :=
  ⟨by decide +kernel, by decide, rfl, passesLone_base _ (by decide) (by decide), by decide⟩

theorem witness_WriteNotAdmittedAtOnce_queue :
    State.takes { base with wq := { base.wq with admission := [1] } } .put (frame .put putA) (.put writeA) = true := by
  decide +kernel

theorem witness_LoneWriteAdmitted : base.takesWrite false (frame .put putA) writeA = true ∧ base.listOpen
    ∧ base.wq.mediaFault = false ∧ base.passesLone false writeA ∧ base.roomFree (writeBytes false writeA)
    ∧ base.wq.seqCounter = some 1 :=
  ⟨by decide +kernel, by decide, rfl, passesLone_base _ (by decide) (by decide), by decide, rfl⟩

/-- An open group with this many bytes. -/
def groupBytes (n : Nat) : State := { base with grp := { group := some { id := 1, members := [], bytes := n }, counter := 2 } }

theorem witness_GroupOpenedAndFilled_taken : base.takesWrite false (frame .put putGroup) writeGroup = true
    ∧ writeGroup.group = true ∧ base.listOpen ∧ base.wq.mediaFault = false ∧ base.grp.group = none
    ∧ (grouped [member keyB]).takesWrite false (frame .put putGroup) writeGroup = true ∧ sizesFit false writeGroup
    ∧ (grouped [member keyB]).spaceFree (writeBytes false writeGroup) := by decide +kernel

theorem witness_GroupOpenedAndFilled_full : (groupBytes (16384 - 31)).takesWrite false (frame .put putGroup) writeGroup = true
    ∧ 16384 < (16384 - 31) + writeBytes false writeGroup
    ∧ (grouped (List.replicate 16 (member keyB))).takesWrite false (frame .put putGroup) writeGroup = true := by decide +kernel

theorem witness_GroupOpenedAndFilled_space :
    State.takesWrite { grouped [] with dir := noSpace.dir } false (frame .put putGroup) writeGroup = true
    ∧ ¬ State.spaceFree { grouped [] with dir := noSpace.dir } (writeBytes false writeGroup) := by decide +kernel

theorem witness_GroupOpenedAndFilled_staging :
    State.takesWrite { grouped [] with wq := noRoom.wq } false (frame .put putGroup) writeGroup = true
    ∧ State.spaceFree { grouped [] with wq := noRoom.wq } (writeBytes false writeGroup)
    ∧ 24576 < noRoom.wq.charged + writeBytes false writeGroup := by decide +kernel

theorem witness_GroupOpenedAndFilled_large :
    (grouped []).takesWrite false (frame .put (Request.put { longKey with group := true }).encode) { longKey with group := true } = true
    ∧ ¬ sizesFit false { longKey with group := true } := by decide +kernel

theorem witness_FenceDecided : base.takes .fence (frame .fence []) .fence = true ∧ base.listOpen ∧ base.wq.entries = []
    ∧ busy.takes .fence (frame .fence []) .fence = true ∧ busy.listOpen
    ∧ busy.wq.entries = [] ++ [queueEntry keyA none] := by decide +kernel

theorem witness_GroupOpenedAndFilled_begin : base.takes .beginGroup (frame .beginGroup []) .beginGroup = true ∧ base.grp.group = none
    ∧ (grouped []).takes .beginGroup (frame .beginGroup []) .beginGroup = true ∧ (grouped []).grp.group.isSome := by
  decide +kernel

theorem witness_CommitChecked_checks :
    base.commitCheck [member keyA, { member keyB with kind := .tombstone, value := [] }] [] 1 = some (.notFound, 2, 0)
    ∧ base.commitCheck [{ member keyA with ifSeq := some 7 }] [] 1 = some (.conflict, 1, 0)
    ∧ base.commitCheck [member keyA] [] 1 = none := by decide +kernel

theorem witness_CommitChecked_taken : base.takes .commit (frame .commit []) .commit = true ∧ base.listOpen
    ∧ base.wq.mediaFault = false ∧ base.grp.group = none
    ∧ (grouped []).takes .commit (frame .commit []) .commit = true ∧ (grouped []).commitCheck [] [] 1 = none
    ∧ (grouped []).newPlaces [] ≤ 3072 - (grouped []).places := by decide +kernel

theorem witness_CommitChecked_refused :
    (grouped [{ member keyA with kind := .tombstone }]).takes .commit (frame .commit []) .commit = true
    ∧ (grouped [{ member keyA with kind := .tombstone }]).commitCheck [{ member keyA with kind := .tombstone }] [] 1
      = some (.notFound, 1, 0)
    ∧ (grouped [{ member keyA with ifSeq := some 7 }]).takes .commit (frame .commit []) .commit = true
    ∧ (grouped [{ member keyA with ifSeq := some 7 }]).commitCheck [{ member keyA with ifSeq := some 7 }] [] 1
      = some (.conflict, 1, 0) := by decide +kernel

theorem witness_CommitChecked_places :
    State.takes { grouped [member keyA] with dir := fullDirectory.dir } .commit (frame .commit []) .commit = true
    ∧ 3072 - State.places { grouped [member keyA] with dir := fullDirectory.dir }
      < State.newPlaces { grouped [member keyA] with dir := fullDirectory.dir } [member keyA] := by decide +kernel

/-- A group of one member behind a full Write Queue. -/
def fullQueue : State := { grouped [member keyA] with wq := { base.wq with entries := List.replicate 24 (queueEntry keyB none) } }

theorem witness_CommitChecked_room : fullQueue.takes .commit (frame .commit []) .commit = true ∧ fullQueue.listOpen
    ∧ fullQueue.newPlaces [member keyA] ≤ 3072 - fullQueue.places ∧ 24 - fullQueue.wq.entries.length < [member keyA].length := by
  decide +kernel

/-- A group of 16 members, three of them of key b. -/
def sixteen : List Member := [member keyB, member keyA, member keyB] ++ List.replicate 12 (member keyA) ++ [member keyB]

theorem witness_CommitAdmitted : (grouped sixteen).takes .commit (frame .commit []) .commit = true ∧ (grouped sixteen).listOpen
    ∧ (grouped sixteen).wq.mediaFault = false ∧ sixteen ≠ [] ∧ (grouped sixteen).commitCheck sixteen [] 1 = none
    ∧ (grouped sixteen).newPlaces sixteen ≤ 3072 - (grouped sixteen).places
    ∧ (grouped sixteen).wq.entries.length + sixteen.length ≤ 24 ∧ (grouped sixteen).wq.seqCounter = some 1
    ∧ (grouped sixteen).dir.entries = [] := by decide +kernel

theorem witness_AbortDecided : base.takes .abort (frame .abort []) .abort = true ∧ base.grp.group = none
    ∧ (grouped [member keyA]).takes .abort (frame .abort []) .abort = true ∧ (grouped [member keyA]).grp.group.isSome
    ∧ (grouped [member keyA]).wq.admission = [] := by decide +kernel

/-! ### The head of the Admission List -/

/-- The machine with one request waiting, at the head of the Admission List with tag 9. -/
def waitingHead (r : Request) (bound : Option Nat) (s : State) : State :=
  { withSlots [{ slotOf .put 9 r with bound := bound, state := .waiting, wait := some .admission, pendingSent := true }] s with
    wq := { s.wq with admission := [9] } }

/-- The request is at the head of a list that is not frozen. -/
abbrev AtHead (r : Request) (bound : Option Nat) (s : State) : Prop :=
  s.wq.frozen = false ∧ s.wq.admission = 9 :: [] ∧ (9 : Byte) ∉ ([] : List Byte)
    ∧ (s.slot 9).map (fun sl => (sl.request, sl.bound)) = some (some r, bound)

/-- A head that leaves the list without joining the Write Queue, an empty list, and a head that joins the queue. -/
theorem witness_EventsEndClean_discard :
    (waitingHead (.commit) (some 5) base).considerAdmissions.wq.entries.length = (waitingHead (.commit) (some 5) base).wq.entries.length
    ∧ (waitingHead (.commit) (some 5) base).considerAdmissions.wq.admission ≠ (waitingHead (.commit) (some 5) base).wq.admission
    ∧ base.considerAdmissions.wq.admission = base.wq.admission
    ∧ (waitingHead (.put { durable := true, group := false, key := keyA, value := [1], ifSeq := none }) none base).considerAdmissions.wq.entries.length = 1 := by decide +kernel

/-- The device takes writes. -/
abbrev Acting (s : State) : Prop := (s.dev.state = .online ∨ s.dev.state = .draining) ∧ s.wq.mediaFault = false

theorem witness_WaitingHeadConsidered_idle : base.wq.admission = []
    ∧ (after (.reset 3 0 [1]) (waitingHead (.put writeA) none base)).wq.frozen = true := by decide +kernel

theorem witness_WaitingHeadConsidered_stopped :
    AtHead (.put writeA) none (waitingHead (.put writeA) none (inState .readOnly))
    ∧ (waitingHead (.put writeA) none (inState .readOnly)).dev.state = .readOnly
    ∧ AtHead .commit (some 1) (waitingHead .commit (some 1) { grouped [] with dev := (inState .readOnly).dev })
    ∧ AtHead (.put writeA) none (waitingHead (.put writeA) none { base with wq := { base.wq with mediaFault := true } })
    ∧ (waitingHead (.put writeA) none { base with wq := { base.wq with mediaFault := true } }).wq.mediaFault = true
    ∧ base.dev.state = .online
    ∧ AtHead (.put writeA) none (waitingHead (.put writeA) none { inState .draining with wq := { base.wq with mediaFault := true } })
    ∧ (inState .draining).dev.state = .draining := by decide +kernel

theorem witness_WaitingHeadConsidered_lone :
    (AtHead (.put writeA) none (waitingHead (.put writeA) none base) ∧ Acting (waitingHead (.put writeA) none base))
    ∧ (waitingHead (.put writeA) none base).passesLone false writeA
    ∧ (waitingHead (.put writeA) none base).roomFree (writeBytes false writeA)
    ∧ (waitingHead (.put writeA) none base).wq.seqCounter = some 1
    ∧ (waitingHead (.put writeA) none noRoom).passesLone false writeA ∧ Acting (waitingHead (.put writeA) none noRoom)
    ∧ ¬ (waitingHead (.put writeA) none noRoom).roomFree (writeBytes false writeA) :=
  ⟨by decide +kernel, passesLone_base _ (by decide) (by decide), by decide, rfl, passesLone_base _ (by decide) (by decide),
    by decide, by decide⟩

theorem witness_WaitingHeadConsidered_refused :
    (AtHead (.put longKey) none (waitingHead (.put longKey) none base) ∧ ¬ sizesFit false longKey)
    ∧ AtHead (.delete writeA) none (waitingHead (.delete writeA) none base)
    ∧ ¬ (waitingHead (.delete writeA) none base).deletable true keyA
    ∧ AtHead (.put writeIf) none (waitingHead (.put writeIf) none base)
    ∧ ¬ (waitingHead (.put writeIf) none base).condHolds writeIf
    ∧ (waitingHead (.put writeA) none fullDirectory).condHolds writeA
    ∧ (¬ (waitingHead (.put writeA) none fullDirectory).placeFree keyA
      ∧ ¬ (waitingHead (.put writeA) none noSpace).spaceFree (writeBytes false writeA)) :=
  ⟨by decide +kernel, by decide +kernel, fun h => absurd (h rfl) (by decide), by decide +kernel,
    fun h => absurd (h 1 rfl) (by decide), nofun, by decide +kernel⟩

/-- A group-flagged write at the head, bound to group 1. -/
def memberHead (s : State) : State := waitingHead (.put writeGroup) (some 1) s

theorem witness_WaitingHeadConsidered_member :
    AtHead (.put writeGroup) (some 1) (memberHead (grouped [member keyB])) ∧ Acting (memberHead (grouped [member keyB]))
    ∧ (memberHead (grouped [member keyB])).grp.group.map (fun g => g.id) = some 1 ∧ writeGroup.group = true
    ∧ AtHead (.put writeGroup) (some 2) (waitingHead (.put writeGroup) (some 2) (grouped [member keyB]))
    ∧ sizesFit false writeGroup ∧ (memberHead (grouped [member keyB])).spaceFree (writeBytes false writeGroup)
    ∧ (memberHead (grouped [member keyB])).wq.charged + writeBytes false writeGroup ≤ 24576
    ∧ 16 ≤ (List.replicate 16 (member keyB)).length ∧ 16384 < (16384 - 31) + writeBytes false writeGroup
    ∧ ¬ (memberHead { grouped [] with dir := noSpace.dir }).spaceFree (writeBytes false writeGroup)
    ∧ 24576 < (memberHead { grouped [] with wq := noRoom.wq }).wq.charged + writeBytes false writeGroup := by decide +kernel

/-- A COMMIT at the head, bound to group 1. -/
def commitHead (s : State) : State := waitingHead .commit (some 1) s

theorem witness_WaitingHeadConsidered_commit :
    AtHead .commit (some 1) (commitHead (grouped sixteen)) ∧ Acting (commitHead (grouped sixteen))
    ∧ (commitHead (grouped sixteen)).commitCheck sixteen [] 1 = none
    ∧ (commitHead (grouped sixteen)).newPlaces sixteen ≤ 3072 - (commitHead (grouped sixteen)).places
    ∧ (commitHead (grouped sixteen)).wq.entries.length + sixteen.length ≤ 24
    ∧ (commitHead (grouped sixteen)).dir.entries = []
    ∧ AtHead .commit none (waitingHead .commit none (grouped sixteen))
    ∧ (commitHead (grouped [])).commitCheck [] [] 1 = none
    ∧ (commitHead fullQueue).wq.entries.length = 24
    ∧ (commitHead (grouped [{ member keyA with kind := .tombstone }])).commitCheck [{ member keyA with kind := .tombstone }] [] 1
      = some (.notFound, 1, 0)
    ∧ (commitHead (grouped [{ member keyA with ifSeq := some 7 }])).commitCheck [{ member keyA with ifSeq := some 7 }] [] 1
      = some (.conflict, 1, 0)
    ∧ 3072 - (commitHead { grouped [member keyA] with dir := fullDirectory.dir }).places
      < (commitHead { grouped [member keyA] with dir := fullDirectory.dir }).newPlaces [member keyA] := by decide +kernel

theorem witness_WaitingHeadConsidered_fence : AtHead .fence none (waitingHead .fence none base)
    ∧ (waitingHead .fence none base).wq.entries = [] ∧ AtHead .fence none (waitingHead .fence none busy)
    ∧ (waitingHead .fence none busy).wq.entries = [] ++ [queueEntry keyA none] := by decide +kernel

/-- A waiting write is admitted once the FENCE before it has left the list, and both are answered in order. -/
theorem test_heads_in_order : sent (State.considerAdmissions { withSlots [slotOf .fence 8 .fence, slotOf .put 9 (.put writeA)] base with
    wq := { base.wq with admission := [8, 9] } }) = [[0], [0, 1, 0, 0, 0, 0, 0]] := by decide +kernel

/-! ### SPACE, SECTORS, TIDY, FORMAT, RESET -/

theorem witness_SpaceAndSectorsAnswered : base.takes .space (frame .space []) .space = true
    ∧ base.takes .sectors (frame .sectors [120, 32]) (.sectors 120 32) = true := by decide +kernel

theorem witness_TidyDecided : base.takes .tidy (frame .tidy [50]) (.tidy 50) = true ∧ base.sm.tidy = none
    ∧ (∀ n ∈ List.range 7, ¬ ((base.sector n).state = .full ∧ 50 * 32752 ≤ (base.sector n).dead * 100))
    ∧ State.takes { base with sm := { base.sm with table := [sector .full 5 0 328] } } .tidy (frame .tidy [1]) (.tidy 1) = true
    ∧ 1 * 32752 ≤ (sector .full 5 0 328).dead * 100
    ∧ State.takes { base with sm := { base.sm with tidy := some { tag := 1, list := [3], drained := 0 } } } .tidy
      (frame .tidy [100]) (.tidy 100) = true := by decide +kernel

/-- The machine with a TIDY of this list and 3 sectors drained. -/
def tidying (list : List Nat) (s : State) : State := { s with sm := { s.sm with tidy := some { tag := 9, list := list, drained := 3 } } }

theorem witness_TidyDecided_ends : base.sm.tidy = none
    ∧ (tidying [] base).sm.tidy = some { tag := 9, list := [], drained := 3 } ∧ base.sm.walk = none
    ∧ (tidying [3] base).sm.tidy = some { tag := 9, list := [3], drained := 3 }
    ∧ (let w : Walk := { victim := 3, offset := 16, phase := .header, sweep := false, forTidy := true }
       State.finishTidy { tidying [] base with sm := { (tidying [] base).sm with walk := some w } }
         = { tidying [] base with sm := { (tidying [] base).sm with walk := some w } }) := by decide +kernel

theorem witness_FormatRefused : base.dev.restartLatch = false
    ∧ (withSlots [slotOf .get 1 (.get keyA)] base).takes .format (frame .format []) .format = true
    ∧ (withSlots [slotOf .get 1 (.get keyA)] base).req.slots ≠ []
    ∧ busy.takes .format (frame .format []) .format = true ∧ busy.wq.entries ≠ []
    ∧ (grouped []).takes .format (frame .format []) .format = true ∧ (grouped []).grp.group ≠ none := by decide +kernel

theorem witness_FormatTakesEffect : base.takes .format (frame .format []) .format = true ∧ base.req.slots = []
    ∧ base.wq.entries = [] ∧ base.grp.group = none := by decide +kernel

/-- A FORMAT with an erase of sector 127 under way and these sectors left. -/
def formatting (phase : ErasePhase) (list : List Nat) : State :=
  let s := inState .formatting
  { s with
    arr := { s.arr with erase := some { req := { sector := 127, epoch := 1, count := 16777215, forFormat := true }, phase := phase } }
    sm := { s.sm with format := some { tag := 9, list := list } } }

theorem witness_FormatErases : (formatting .header [127]).held = false
    ∧ ((formatting .header [127]).arr.erase.map (fun r => (r.phase, r.req.forFormat, r.req.sector, r.req.count)))
      = some (.header, true, 127, 16777215)
    ∧ (formatting .header [127]).dev.state = .formatting ∧ [127].drop 1 = [] ∧ [126, 127].drop 1 ≠ []
    ∧ ((formatting .header [127]).flash.word 127 0).isBlank = true ∧ (formatting .header [127]).arr.op = none
    ∧ ((formatting .pulse [126, 127]).arr.erase.map (fun r => r.phase)) = some .pulse
    ∧ ({ cells := [(127 * 4096 + 4095, .stored (RawWord.mk 0 Ecc.clean))], wrecks := [] } : Flash).word 127 4095
      ≠ { data := BitVec.allOnes 64, ecc := .clean }
    ∧ (formatting .pulse [127]).sup.condition = .normal := by decide +kernel

theorem witness_FormatErases_asks : (formatting .pulse [127]).arr.eraseReq = none
    ∧ ((formatting .pulse [127]).sm.format.map (fun f => f.list)) = some (127 :: [])
    ∧ State.arr { formatting .pulse [127] with arr := base.arr } = base.arr ∧ base.arr.erase = none := by decide +kernel

/-- A FORMAT's last sector completes it, an earlier one does not. -/
theorem test_format_completes : (after (.eraseWordProgramComplete true) (formatting .header [127])).dev.state = .online
    ∧ (after (.eraseWordProgramComplete true) (formatting .header [126, 127])).dev.state = .formatting := by decide +kernel

/-- A full Transmit Queue. -/
def fullTx (s : State) : State := { s with link := { s.link with txq := List.replicate 32 (plainTx (replyFrame 1 [0])) } }

theorem witness_ResetDecided : base.takes .reset (frame .reset [1]) (.reset .discard) = true ∧ base.dev.restartDue = false
    ∧ base.link.txq.length < 32 ∧ base.wq.entries = [] ∧ base.wq.admission = [] ∧ base.req.slots = []
    ∧ base.takes .reset (frame .reset [0]) (.reset .drain) = true
    ∧ (fullTx base).takes .reset (frame .reset [1]) (.reset .discard) = true ∧ 32 ≤ (fullTx base).link.txq.length
    ∧ busy.takes .reset (frame .reset [0]) (.reset .drain) = true ∧ busy.wq.entries ≠ []
    ∧ (withSlots [{ slotOf .reset 1 (.reset .drain) with wait := some .drain }] base).takes .reset (frame .reset [0]) (.reset .drain)
      = true := by decide +kernel

theorem witness_ResetDecided_report :
    (withSlots [{ slotOf .reset 1 (.reset .drain) with wait := some .drain }] base).req.slots
      = [] ++ { slotOf .reset 1 (.reset .drain) with wait := some .drain } :: []
    ∧ base.wq.entries = [] ∧ base.wq.admission = [] ∧ base.req.slots = [] := by decide +kernel

/-! ### The link -/

/-- The receiver inside a frame. -/
def receiving (rx : RxState) (got : List Byte) : State := { base with link := { base.link with rx := rx, got := got, gap := true } }

/-- LENGTH 2081, the smallest that is too large. -/
theorem witness_LinkRules_length : (receiving .header [0x21]).held = false ∧ (receiving .header [0x21]).link.rx = .header
    ∧ (receiving .header [0x21]).link.got = [0x21] ∧ 2080 < (0x21 : Byte).toNat + 256 * (0x08 : Byte).toNat := by decide

theorem witness_LinkRules_check :
    (receiving .check ((frame .get []).start ++ [0] ++ [] ++ [0xFF])).link.rx = .check
    ∧ le 2 (frame .get []).crc.toNat ≠ [0xFF, 0xFF] := by decide +kernel

theorem witness_LinkRules_receiver : base.held = false ∧ base.link.rx = .hunt ∧ base.link.gap = false
    ∧ (receiving .header []).link.rx ≠ .hunt ∧ (receiving .header []).link.gap = true := by decide

/-- The machine with these frames waiting to be sent. -/
def sending (q : List TxFrame) : State := { base with link := { base.link with txq := q } }

theorem witness_LinkRules_transmitter : base.held = false ∧ base.link.txq = []
    ∧ (plainTx (replyFrame 1 [0])).restarts = false ∧ (plainTx (replyFrame 1 [0])).rateChange = none
    ∧ (sending [TxFrame.mk (replyFrame 1 [0]) (some 460800) false]).held = false
    ∧ (sending [TxFrame.mk (replyFrame 1 [0]) none true]).link.txq = TxFrame.mk (replyFrame 1 [0]) none true :: []
    ∧ base.link.txq.head? = none := by decide

/-! ### Reads of the array -/

theorem witness_GetReadsTheArray_completes : reading.held = false
    ∧ reading.arr.op = some (.read { who := .get 3, sector := 3, offset := 16, words := 4, discard := false })
    ∧ ({ who := .get 3, sector := 3, offset := 16, words := 4, discard := false } : ReadReq).inside = true
    ∧ (reading.slot 3).map (fun sl => sl.progress)
      = some (.reading { key := keyA, sector := 3, offset := 16, recLen := 32, seq := 5, valLen := 2 }) := by decide +kernel

/-- The words of the record of key a. -/
def wordsA : List RawWord := recordA.words.map (fun w => RawWord.mk w Ecc.clean)

theorem witness_ReclaimReadTaken_header : (walking .header 16 2).held = false
    ∧ (walking .header 16 2).arr.op = some (.read { who := .reclaim, sector := 3, offset := 16, words := 2, discard := false })
    ∧ (headerWithin (((walking .header 16 2).flash.decay { who := .reclaim, sector := 3, offset := 16, words := 2, discard := false }
        (imageAt recordA.words)).read { who := .reclaim, sector := 3, offset := 16, words := 2, discard := false }) 16).isSome
    ∧ wordsA.head?.any RawWord.allOnes = false := by decide +kernel

theorem witness_ReclaimReadTaken_copy : validRecord ([] ++ wordsA) 16 = some recordA
    ∧ (walking (.body []) 16 4).entry recordA.key = some (durableEntry keyA) ∧ (durableEntry keyA).namesPlace 3 16 = true
    ∧ recordA.kind ≠ .tombstone ∧ (durableEntry keyA).state ≠ .tombstone := by decide +kernel

/-- A walk of sector 3 that reads at this offset, over these entries. -/
def walkRead (es : List Entry) (phase : WalkPhase) (sweep : Bool) (offset words : Nat) : State :=
  let s := withOp (.read { who := .reclaim, sector := 3, offset := offset, words := words, discard := false }) (withEntries es base)
  { s with sm := { s.sm with
    engine := .walking, walk := some { victim := 3, offset := offset, phase := phase, sweep := sweep, forTidy := false } } }

/-- The words that the read under way returns. -/
def readBack (s : State) (decayed : List (Nat × RawWord)) : List RawWord :=
  match s.arr.op with
  | some (.read r) => (s.flash.decay r decayed).read r
  | some (.word _) | none => []

/-- The words of a record at an offset. -/
def recordAt (r : Record) (offset : Nat) : List (Nat × RawWord) :=
  r.words.mapIdx (fun i w => (offset / 8 + i, RawWord.mk w Ecc.clean))

/-- The entry of key a with its durable version elsewhere. -/
def elsewhere : Entry :=
  { durableEntry keyA with durable := some { sector := 3, offset := 48, seq := 5, kind := .data, recLen := 32, valLen := 2 } }

theorem witness_ReclaimReadTaken_discard : base.held = false
    ∧ (withOp (.read { who := .reclaim, sector := 127, offset := 32752, words := 2, discard := true }) base).arr.op
      = some (.read { who := .reclaim, sector := 127, offset := 32752, words := 2, discard := true })
    ∧ ({ who := .reclaim, sector := 127, offset := 32752, words := 2, discard := true } : ReadReq).inside = true := by decide +kernel

theorem witness_ReclaimReadTaken_sweep :
    validRecord (readBack (walkRead [durableEntry keyA] .sweepRead true 16 4) (recordAt recordA 16)) 16 = some recordA
    ∧ entryAt 3 16 (walkRead [durableEntry keyA] .sweepRead true 16 4).dir.entries = some (durableEntry keyA)
    ∧ (durableEntry keyA).key = recordA.key ∧ (durableEntry keyA).durable.map (fun d => d.seq) = some recordA.seq := by
  decide +kernel

theorem witness_ReclaimReadTaken_unreadable :
    headerWithin (readBack (walkRead [durableEntry keyA] .header false 16 2) []) 16 = none
    ∧ validRecord (readBack (walkRead [durableEntry keyA] .sweepRead true 16 4) []) 16 = none
    ∧ entryAt 3 16 (walkRead [durableEntry keyA] .header false 16 2).dir.entries = some (durableEntry keyA) := by decide +kernel

theorem witness_ReclaimWalkGoesOn_ends :
    ((readBack (walkRead [] .header false 16 2) []).head?.any RawWord.allOnes) = true
    ∧ ((readBack (walkRead [] .header false 32760 1) []).head?.any RawWord.allOnes) = true
    ∧ entryAt 3 16 (walkRead [] .header false 16 2).dir.entries = none := by decide +kernel

theorem witness_ReclaimWalkGoesOn_sweeps :
    headerWithin (readBack (walkRead [elsewhere] .header false 16 2) [(2, RawWord.mk 5 Ecc.clean)]) 16 = none
    ∧ ((readBack (walkRead [elsewhere] .header false 16 2) [(2, RawWord.mk 5 Ecc.clean)]).head?.any RawWord.allOnes) = false
    ∧ entryAt 3 16 (walkRead [elsewhere] .header false 16 2).dir.entries = none := by decide +kernel

/-- A record at the very end of a sector, after which the walk ends at the end of the data area. -/
theorem witness_ReclaimWalkGoesOn_noEntry :
    validRecord ([] ++ readBack (walkRead [] (.body []) false 32736 4) (recordAt recordA 32736)) 32736 = some recordA
    ∧ (walkRead [] (.body []) false 32736 4).entry recordA.key = none ∧ 32768 ≤ 32736 + recordA.bytes := by decide +kernel

theorem witness_ReclaimWalkGoesOn_dead :
    validRecord ([] ++ readBack (walkRead [elsewhere] (.body []) false 16 4) (recordAt recordA 16)) 16 = some recordA
    ∧ (walkRead [elsewhere] (.body []) false 16 4).entry recordA.key = some elsewhere ∧ elsewhere.namesPlace 3 16 = false
    ∧ ¬ (elsewhere.flashCopies = 1 ∧ elsewhere.state = .tombstone ∧ elsewhere.queued = 0)
    ∧ validRecord (readBack (walkRead [elsewhere] .sweepRead true 16 4) (recordAt recordA 16)) 16 = some recordA
    ∧ entryAt 3 16 (walkRead [elsewhere] .sweepRead true 16 4).dir.entries = none
    ∧ validRecord (readBack (walkRead [elsewhere] .sweepRead true 16 4) []) 16 = none := by decide +kernel

/-- A durable TOMBSTONE of key a, and its record. -/
def tombstoneA : Entry :=
  { key := keyA, state := .tombstone, newestSeq := 5, newestLen := 0, queued := 0, flashCopies := 1,
    durable := some { sector := 3, offset := 16, seq := 5, kind := .tombstone, recLen := 32, valLen := 0 } }
/-- Its record. -/
def tombstoneRecord : Record := { kind := .tombstone, key := keyA, value := [], seq := 5, group := none }

theorem witness_ReclaimWalkGoesOn_leaves :
    validRecord ([] ++ readBack (walkRead [tombstoneA] (.body []) false 16 4) (recordAt tombstoneRecord 16)) 16 = some tombstoneRecord
    ∧ (walkRead [tombstoneA] (.body []) false 16 4).entry tombstoneRecord.key = some tombstoneA
    ∧ tombstoneRecord.kind = .tombstone ∧ tombstoneA.queued = 0 ∧ tombstoneA.flashCopies = 1 ∧ tombstoneA.state = .tombstone := by
  decide +kernel

theorem witness_ReclaimReadTaken_lost : validRecord ([] ++ [blankWord, blankWord, blankWord, blankWord]) 16 = none
    ∧ entryAt 3 16 (walking (.body []) 16 4).dir.entries = some (durableEntry keyA) := by decide +kernel

theorem witness_MountReadTaken : State.reset.held = false ∧ State.reset.arr.op = some (.read (Mount.headerRead 0))
    ∧ (Mount.headerRead 0).inside = true ∧ (State.reset.mount.map (fun m => m.phase)) = some .headers
    ∧ (State.reset.flash.read (Mount.headerRead 0)) = [blankWord, blankWord]
    ∧ ({ who := .mount, sector := 127, offset := 32760, words := 1, discard := false } : ReadReq).inside = true := by decide +kernel

/-- A mount read of sector 127 under way. -/
def mounting (phase : MountPhase) (offset words : Nat) : State :=
  { withOp (.read { who := .mount, sector := 127, offset := offset, words := words, discard := false }) State.reset with
    mount := some { Mount.start with phase := phase } }

/-- The candidate's remainder at its smallest: room for one record of the largest size. -/
theorem witness_MountReadTaken_remainder : (mounting (.remainder 127 30712) 30720 256).held = false
    ∧ ((mounting (.remainder 127 30712) 30720 256).mount.map (fun m => m.phase)) = some (.remainder 127 30712)
    ∧ ({ who := .mount, sector := 127, offset := 30720, words := 256, discard := false } : ReadReq).inside = true := by decide +kernel

/-- The header read of the last sector, with a valid erase word of the last count and a valid open word. -/
theorem witness_HeaderPassEnds : (mounting .headers 0 2).held = false
    ∧ readBack (mounting .headers 0 2) [(0, RawWord.mk (eraseWord 65535 16777215) Ecc.clean), (1, RawWord.mk (openWord 4294967295) Ecc.corrected)]
      = [RawWord.mk (eraseWord 65535 16777215) Ecc.clean, RawWord.mk (openWord 4294967295) Ecc.corrected]
    ∧ (RawWord.mk (eraseWord 65535 16777215) Ecc.clean).erase? = some (65535, 16777215)
    ∧ (RawWord.mk (openWord 4294967295) Ecc.corrected).open? = some 4294967295
    ∧ (List.replicate 127 (blankWord, blankWord)).length = 127 ∧ Mount.start.table.length = 128
    ∧ ((mounting .blankCheck 16 4094).mount.map (fun m => m.phase)) = some .blankCheck
    ∧ ({ who := .mount, sector := 127, offset := 16, words := 4094, discard := false } : ReadReq).inside = true := by decide +kernel

/-- The word at an offset: blank at the last word of the sector, the header of a record, and neither. -/
theorem witness_MountWalks_first :
    readBack (mounting (.walkFirst 127 32760) 32760 1) [] = [blankWord] ∧ blankWord.value? = some (BitVec.allOnes 64)
    ∧ (readBack (mounting (.walkFirst 127 32736) 32736 1) (recordAt recordA 32736)).map (fun a => extentOf a 32736) = [some 32]
    ∧ (readBack (mounting (.walkFirst 127 32744) 32744 1) (recordAt recordA 32744)).map (fun a => extentOf a 32744) = [none]
    ∧ ({ who := .mount, sector := 127, offset := 32760, words := 1, discard := false } : ReadReq).inside = true := by decide +kernel

/-- The rest of a record in the middle of a sector, at its very end, and invalid. -/
theorem witness_MountWalks_rest : (wordsA.head?.map (fun a =>
      [validRecord (a :: readBack (mounting (.walkRest 127 16 a) 24 3) (recordAt recordA 16)) 16,
       validRecord (a :: readBack (mounting (.walkRest 127 32736 a) 32744 3) (recordAt recordA 32736)) 32736,
       validRecord (a :: readBack (mounting (.walkRest 127 16 a) 24 3) []) 16])) = some [some recordA, some recordA, none]
    ∧ 16 + recordA.bytes < 32768 ∧ 32768 ≤ 32736 + recordA.bytes := by decide +kernel

theorem witness_MountPresents : Mount.start.run = [] ∧ findEntry keyA [durableEntry keyA] = some (durableEntry keyA)
    ∧ (durableEntry keyA).durable.map (fun d => d.seq) = some 5 ∧ 5 ≤ 5 ∧ 4 < 5
    ∧ findEntry keyA (List.replicate 3072 (durableEntry keyB)) = none ∧ 3072 ≤ (List.replicate 3072 (durableEntry keyB)).length
    ∧ Mount.start.entries.length < 3072 := by decide +kernel

/-- R12 on small runs: one that ends is accepted whole, one that another group interrupts is torn. -/
theorem test_decided : ((decided ([(1, false), (1, true), (2, false), (3, true)].map (fun g =>
    MountRec.mk 0 16 .data keyA 1 32 1 (some g)))).map (fun p => p.1)) = [true, true, false, true] := by decide

/-! ### Word programs and erases -/

/-- An open word under way, at the last sector. -/
def openWordReq : WordReq := { sector := 127, index := 1, data := openWord 1, role := .openWord, discard := false }
/-- A record's word under way, at the array's last word. -/
def recordWordReq : WordReq := { sector := 127, index := 4095, data := 5, role := .innerWord, discard := false }

/-- The machine opening a sector for a lane. -/
def opening (l : Lane) : State :=
  withOp (.word openWordReq) { base with lw := { base.lw with openAt := some { sector := 127, offset := 16 }, point := .opening (some l) false } }

/-- The machine programming a record of a lane. -/
def programming (p : AppendPoint) (failures : Nat) : State :=
  withOp (.word recordWordReq) { base with lw := { base.lw with
    openAt := some { sector := 127, offset := 32736 }, point := p, hostFailures := failures, relocFailures := failures
    cur := some { image := [1, 2, 3, 5], done := 2, begun := 3, member := 0 } } }

theorem witness_WordProgrammed : (opening .host).held = false ∧ (opening .host).arr.op = some (.word openWordReq)
    ∧ openWordReq.sector < 128 ∧ openWordReq.index < 4096 ∧ openWordReq.discard = false
    ∧ ((opening .host).flash.word 127 1).isBlank = true ∧ (opening .host).lw.point = .opening (some .host) false
    ∧ (programming .host 0).arr.op = some (.word recordWordReq) ∧ ((programming .host 0).flash.word 127 4095).isBlank = true
    ∧ (programming .host 0).lw.cur = some { image := [1, 2, 3, 5], done := 2, begun := 3, member := 0 } := by decide +kernel

theorem witness_LoneRecordDurable : lastWord.held = false ∧ (lastWord.flash.word 2 5).isBlank = true
    ∧ lastWord.lw.cur = some { image := [1, 2, 3, 7], done := 3, begun := 4, member := 0 } ∧ lastWord.lw.point = .host
    ∧ lastWord.lw.openAt = some { sector := 2, offset := 16 }
    ∧ lastWord.wq.entries = { queueEntry keyA none with state := .programming } :: []
    ∧ lastWord.entry keyA = some (queuedEntry keyA) ∧ lastWord.wq.fences = [] := by decide +kernel

theorem witness_WordProgramFails : (programming .host 1).held = false
    ∧ (programming .host 1).arr.op = some (.word recordWordReq) ∧ recordWordReq.discard = false
    ∧ (programming .host 1).lw.openAt.isSome ∧ (programming .host 1).lw.point = .host ∧ (programming .host 1).lw.hostFailures < 2
    ∧ (opening .host).lw.point = .opening (some .host) false ∧ (opening .host).lw.openAt.isSome
    ∧ (programming .relocation 1).lw.relocFailures < 2 ∧ (opening .relocation).lw.point = .opening (some .relocation) false
    ∧ 2 ≤ (programming .host 2).lw.hostFailures := by decide +kernel

/-- The last word of a record under way. -/
def lastReq : WordReq := { sector := 2, index := 5, data := 7, role := .lastWord, discard := false }
/-- The record it ends. -/
def lastRecord (member : Nat) : CurRecord := { image := [1, 2, 3, 7], done := 3, begun := 4, member := member }

/-- A member of a run of two. -/
def runEntry (k : Key) (seq : Nat) (last : Bool) (st : QueueState) : QueueEntry :=
  { queueEntry k (if last then some 3 else none) with seq := seq, group := some (1, last), state := st }

/-- A run of two, its member of this index ending, placed at offsets 16 and 48. -/
def running (member : Nat) (placement : List Nat) : State :=
  { lastWord with
    lw := { lastWord.lw with cur := some (lastRecord member), placement := placement }
    wq := { lastWord.wq with entries := [runEntry keyA 9 false .programmed, runEntry keyA 10 true .programming] } }

theorem witness_LoneRecordDurable_ends : lastWord.endsRecord lastReq (lastRecord 0) { sector := 2, offset := 16 } := by
  unfold State.endsRecord; decide +kernel

theorem witness_RunMemberDurable : (running 0 [16]).endsRecord lastReq (lastRecord 0) { sector := 2, offset := 16 }
    ∧ (running 0 [16]).wq.entries[0]? = some (runEntry keyA 9 false .programmed)
    ∧ (running 1 [16, 48]).endsRecord lastReq (lastRecord 1) { sector := 2, offset := 16 } ∧ (running 1 [16, 48]).lw.point = .host
    ∧ (running 1 [16, 48]).wq.entries[1]? = some (runEntry keyA 10 true .programming)
    ∧ (running 1 [16, 48]).wq.entries = (runEntry keyA 9 false .programmed :: [runEntry keyA 10 true .programming]) ++ []
    ∧ (running 1 [16, 48]).lw.placement.length = 2 := by
  unfold State.endsRecord; decide +kernel

/-- A relocated copy of key a, its last word under way, for which a walk waits. -/
def relocating (es : List Entry) : State :=
  let s := walkRead es (.copying 48) false 16 2
  { withOp (.word lastReq) s with lw := { lastWord.lw with
    point := .relocation, hostLane := none, relocLane := some { record := recordA, sector := 3, offset := 16 } } }

theorem witness_RelocationDurable : (relocating [durableEntry keyA]).endsRecord lastReq (lastRecord 0) { sector := 2, offset := 16 }
    ∧ (relocating [durableEntry keyA]).lw.point = .relocation ∧ (relocating [durableEntry keyA]).lw.relocLane.isSome
    ∧ (relocating [durableEntry keyA]).entry recordA.key = some (durableEntry keyA)
    ∧ ((relocating [durableEntry keyA]).sm.walk.map (fun w => w.phase)) = some (.copying 48)
    ∧ (relocating [elsewhere]).entry recordA.key = some elsewhere
    ∧ elsewhere.durable.map (fun d => (d.sector, d.offset)) ≠ some (3, 16) := by
  unfold State.endsRecord; decide +kernel

/-- Words whose record or lane has been given up. -/
theorem witness_WordProgrammed_given_up :
    (withOp (.word { recordWordReq with discard := true }) (programming .host 0)).arr.op = some (.word { recordWordReq with discard := true })
    ∧ State.lw { opening .host with lw := { (opening .host).lw with point := .opening none false } }
      = { (opening .host).lw with point := .opening none false }
    ∧ (programming (.opening none false) 0).lw.point.lane = none ∧ 2 ≤ (programming .relocation 2).lw.relocFailures := by decide +kernel

/-- The machine between an open word or a run member that has ended and what begins next, with these entries. -/
def between (p : AppendPoint) (placement : List Nat) (entries : List QueueEntry) (s : State) : State :=
  { s with lw := { s.lw with openAt := some { sector := 2, offset := 48 }, point := p, placement := placement, cur := none }
           wq := { s.wq with entries := entries } }

theorem witness_WordProgrammed_begins :
    (let s := between (.opening (some .host) true) [] [queueEntry keyA none] base
     s.sup.condition = .normal ∧ s.lw.point = .opening (some .host) true ∧ s.lw.openAt = some { sector := 2, offset := 48 }
       ∧ s.wq.entries = queueEntry keyA none :: [] ∧ s.wq.frozen = false ∧ (queueEntry keyA none).state = .waiting)
    ∧ (let s := { relocating [] with lw := { (relocating []).lw with point := .opening (some .relocation) true, cur := none } }
       s.lw.point = .opening (some .relocation) true ∧ s.lw.relocLane.isSome)
    ∧ (let s := between .host [16] [runEntry keyA 9 false .programmed, runEntry keyA 10 true .waiting] base
       s.lw.point = .host ∧ s.lw.cur = none ∧ s.lw.placement ≠ []
         ∧ s.wq.entries[s.lw.placement.length]? = some (runEntry keyA 10 true .waiting) ∧ s.wq.frozen = false
         ∧ (runEntry keyA 10 true .waiting).group.isSome)
    ∧ lastWord.lw.cur.isSome ∧ lastWord.lw.point = .host ∧ base.lw.point = .free ∧ (inHold base).sup.condition = .hold := by
  decide +kernel

theorem witness_WordProgrammed_gives :
    (let s := { lastWord with arr := base.arr }
     s.lw.cur = some (lastRecord 0) ∧ s.lw.openAt = some { sector := 2, offset := 16 } ∧ (lastRecord 0).image[3]? = some 7
       ∧ s.arr.word = none ∧ s.arr.op = none)
    ∧ lastWord.arr.op = some (.word lastReq) ∧ base.lw.cur = none := by decide +kernel

theorem witness_WordProgrammed_offers :
    (let run := [runEntry keyA 9 false .waiting, runEntry keyB 10 true .waiting]
     (between .free [] (run ++ [queueEntry keyA none]) base).lw.hostLane = none
       ∧ (between .free [] (run ++ [queueEntry keyA none]) base).wq.entries
         = [runEntry keyA 9 false .waiting] ++ runEntry keyB 10 true .waiting :: [queueEntry keyA none]
       ∧ (∀ e, run.head? = some e → e.state = .waiting))
    ∧ busy.lw.hostLane = none ∧ busy.wq.entries = queueEntry keyA none :: [] ∧ (queueEntry keyA none).group = none
    ∧ lastWord.lw.hostLane.isSome :=
  ⟨⟨by decide +kernel, by decide +kernel, by intro e h; cases h; rfl⟩, by decide +kernel⟩

/-- The machine with three STALE sectors in the stale order. -/
def stale : State := { base with sm := { base.sm with staleOrder := [4, 5, 6] } }

theorem witness_EraseBatchGathers : stale.dev.state = .online ∧ stale.sm.batch.running = false
    ∧ stale.sm.staleOrder.take (4 - stale.sm.batch.members.length) ≠ [] ∧ base.sm.staleOrder = []
    ∧ 4 ≤ [4, 5, 6, 3].length ∧ (inState .formatting).dev.state = .formatting
    ∧ State.count { base with sm := { base.sm with table := [sector .full 5 0 328] } } .erased = 0
    ∧ (let s := { withErase .pulse base with arr := base.arr }
       s.arr.eraseReq = none ∧ s.sm.format = none ∧ s.sm.batch.members = 4 :: [] ∧ s.sm.batch.running = true
         ∧ s.arr.erase = none ∧ (s.sector 4).readers = 0) := by decide +kernel

/-- Four sectors join in one event, and the batch closes. -/
theorem test_batch_closes : (stale.joinBatch.sm.batch.members, (State.joinBatch { stale with
      sm := { stale.sm with staleOrder := [4, 5, 6, 0, 1] } }).closeBatch.sm.batch)
    = ([4, 5, 6], { running := true, members := [4, 5, 6, 0], window := false }) := by decide +kernel

theorem witness_ErasePhases : (withErase .pulse base).held = false
    ∧ ((withErase .pulse base).arr.erase.map (fun r => (r.phase, r.req.sector))) = some (.pulse, 4)
    ∧ (withErase .pulse base).arr.op = none ∧ base.arr.gets = [] ∧ base.arr.walks = [] ∧ base.arr.word = none
    ∧ ((withErase .blankCheck base).arr.erase.map (fun r => r.phase)) = some .blankCheck := by decide

/-- Every word of the erased sector is blank. -/
theorem witness_ErasePhases_blank : ∀ i, i < 4096 → (withErase .blankCheck base).flash.word 4 i = { data := BitVec.allOnes 64, ecc := .clean } :=
  fun _ _ => rfl

/-- An erase request of sector 127. -/
def asked : EraseReq := { sector := 127, epoch := 0, count := 5, forFormat := false }

theorem witness_ErasePhases_suspends :
    (let s := { withErase .pulse base with arr := { (withErase .pulse base).arr with word := some openWordReq } }
     s.arr.word.isSome ∧ s.sup.condition = .normal ∧ s.arr.gets = [] ∧ s.arr.walks = [])
    ∧ (State.arr { withErase .pulse base with arr := { (withErase .pulse base).arr with walks := [Mount.headerRead 0] } }).walks ≠ [] := by
  decide +kernel

theorem witness_ErasePhases_timeout : (withErase .suspended base).held = false
    ∧ (withErase .suspended base).arr.erase.all (fun r => r.phase != .pulse) = true := by decide

theorem witness_ErasePhases_starts :
    base.arr.op = none ∧ base.arr.erase = none ∧ base.sup.condition = .normal ∧ base.arr.eraseReq = none
    ∧ (∀ p ∈ [ErasePhase.suspended, .blankCheck, .checked], p ≠ .pulse ∧ p ≠ .header)
    ∧ (withErase .checked base).arr.op = none
    ∧ State.arr { base with arr := { base.arr with eraseReq := some asked } } = { base.arr with eraseReq := some asked }
    ∧ asked.sector < 128 ∧ lastWord.lw.cur.isSome ∧ base.lw.cur = none ∧ base.lw.point = .free
    ∧ reading.arr.op.isSome ∧ (inHold base).sup.condition = .hold := by decide +kernel

theorem witness_ErasePhases_window : State.held { base with sm := { base.sm with
    batch := { running := false, members := [4], window := true } } } = false := by decide

/-- A sector that did not come back blank. -/
def stuckSector : State := { withErase .blankCheck base with flash := { cells := [(4 * 4096 + 4095, .stored (RawWord.mk 0 Ecc.clean))], wrecks := [] } }

theorem witness_EraseRetires : (withErase .pulse base).held = false
    ∧ ((withErase .pulse base).arr.erase.map (fun r => (r.phase, r.req.forFormat))) = some (.pulse, false)
    ∧ stuckSector.flash.word 4 4095 ≠ { data := BitVec.allOnes 64, ecc := .clean }
    ∧ ((withErase .header base).arr.erase.map (fun r => (r.phase, r.req.forFormat))) = some (.header, false)
    ∧ (withErase .header base).arr.op = none
    ∧ (Flash.word { cells := [(4 * 4096, .stored (RawWord.mk 0 Ecc.clean))], wrecks := [] } 4 0).isBlank = false
    ∧ ((withErase .header base).flash.word 4 0).erase? = none := by decide +kernel

theorem witness_EraseDone : ((withErase .header base).arr.erase.map (fun r => (r.phase, r.req.sector, r.req.count)))
    = some (.header, 4, 5) ∧ ((withErase .header base).flash.word 4 0).isBlank = true := by decide +kernel

/-! ### The supply -/

theorem witness_SupplyConditions : base.held = false ∧ base.sup.condition = .normal ∧ base.arr.erase = none
    ∧ (withErase .checked base).sup.condition = .normal ∧ (withErase .checked base).storeActive = true
    ∧ (inHold base).held = false ∧ (inHold base).sup.condition = .hold ∧ (after .supplyAboveNormal (inHold base)).sup.qualifying = true
    ∧ base.sup.qualifying = false ∧ (withErase .pulse (inState .formatting)).storeActive = false := by decide

/-- R146: a batch erase that a FORMAT has overtaken, abandoned by HOLD, leaves its sector in no stale order. -/
theorem test_hold_overtaken :
    (let t := after .supplyBelowHold (withErase .pulse (inState .formatting))
     ((t.sector 4).state, (t.sector 4).dirty, t.sm.staleOrder)) = (.stale, true, []) := by decide +kernel

theorem witness_HoldTimerExpires : (after .supplyBelowHold busy).held = false
    ∧ (after .supplyBelowHold busy).sup.holdTimer = true := by decide +kernel

/-- The machine held by its pins. -/
def held (power releasing pin : Bool) : State :=
  { busy with sup := { busy.sup with powerOnReset := power, releasing := releasing, nresetLow := pin } }

theorem witness_RestartEvents : lastWord.sup.powerOnReset = false ∧ (held true true false).sup.releasing = true
    ∧ (held true true true).sup.nresetLow = true ∧ (held false false true).held = true ∧ (held false false false).held = false := by
  decide

/-- The word under way is the one word that an assertion may touch. -/
theorem witness_RestartEvents_word : lastWord.underWay 2 5 ∧ ¬ lastWord.underWay 2 6 := by
  refine ⟨.inl ⟨_, rfl, rfl, rfl⟩, ?_⟩
  rintro (⟨w, h, -, h2⟩ | ⟨r, h, -⟩)
  · cases h; revert h2; decide
  · cases h

/-- The machine whose list a RESET in DISCARD mode has frozen, a host record not begun in its lane. -/
def frozen : State := { busy with wq := { busy.wq with frozen := true }, lw := { busy.lw with hostLane := some { members := 1, total := 32 } } }

theorem witness_LaneAndVictimChosen : base.wq.frozen = false ∧ frozen.wq.frozen = true
    ∧ (frozen.wq.entries.map (fun e => e.state)) = [.waiting] ∧ frozen.granted = none := by decide +kernel

/-- The machine short of space, with one victim to choose. -/
def short : State := { base with sm := { base.sm with lowSpace := true } }

/-- A spread of 2001 erases above the least worn FULL sector, and the wear check due. -/
def worn (high : Nat) : State :=
  { base with sm := { base.sm with wearDue := true, table := [sector .erased high 0 0, sector .full 5 32 0, sector .full 5 32 0] } }

theorem witness_DemandsAct : short.dev.state = .online ∧ short.sm.engine = .idle ∧ short.sm.lowSpace = true
    ∧ short.victim? = some 3 ∧ (inState .formatting).dev.state = .formatting
    ∧ State.victim? { short with sm := { short.sm with table := [sector .full 5 40 0] } } = none
    ∧ (worn 2006).sm.wearDue = true ∧ ((worn 2006).sector 1).state = .full ∧ ((worn 2006).sector 1).eraseCount + 2000 < 2006
    ∧ ¬ ((worn 2005).sector 1).eraseCount + 2000 < 2005
    ∧ short.sm.latchFor ≠ short.latchNumbers ∧ short.evalLatch.sm.latchFor = short.evalLatch.latchNumbers := by decide +kernel

/-- R118, R146: a FORMAT that changes none of the latch's numbers leaves it clear. -/
theorem test_format_latch :
    (let s := { base with sm := { base.sm with table := List.replicate 4 (sector .erased 5 0 0), lowSpace := true } }
     (after (.format 3 0 []) s).sm.lowSpace) = false := by decide +kernel

/-- Of two FULL sectors of equal count the lower one is moved, and only above a spread of 2000. -/
theorem test_wear : ((worn 2006).wearCheck.sm.walk.map (fun w => w.victim), (worn 2005).wearCheck.sm.walk) = (some 1, none) := by
  decide +kernel

/-- The machine with a lane that holds a record or run, the open sector full up to its last 32 bytes. -/
def laned (host : Option HostOffer) (reloc : Option RelocRecord) (s : State) : State :=
  { s with lw := { s.lw with openAt := some { sector := 3, offset := 32736 }, hostLane := host, relocLane := reloc } }

/-- No sector ERASED, and none to become so. -/
def full (s : State) : State := { s with sm := { s.sm with table := [sector .full 5 40 0, sector .opened 5 40 0] } }

theorem witness_StallsRelieved_arbiter :
    (laned (some { members := 1, total := 32 }) none busy).lw.point = .free
    ∧ (laned (some { members := 1, total := 32 }) none busy).sup.condition = .normal
    ∧ (laned (some { members := 1, total := 32 }) none busy).granted = some .host
    ∧ busy.wq.entries = queueEntry keyA none :: [] ∧ (queueEntry keyA none).state = .waiting
    ∧ ({ queueEntry keyA none with state := .programming } : QueueEntry).state ≠ .waiting
    ∧ (laned none (some { record := recordA, sector := 3, offset := 16 }) base).granted = some .relocation
    ∧ (laned (some { members := 1, total := 40 }) none busy).granted = some .host
    ∧ lowestErased (busy.sm.table.modify 3 (fun e => { e with state := .full, appendOffset := none })) = some 2
    ∧ busy.lw.genCounter = some 1 ∧ (full (laned (some { members := 1, total := 40 }) none busy)).granted = none
    ∧ (inHold base).sup.condition = .hold := by decide +kernel

/-- A host record that cannot be placed is found stalled while a relocation record is in progress, paused in HOLD, and
not when it is itself in progress (R97, R154). -/
theorem test_stall_found :
    (let s := full (laned (some { members := 1, total := 40 }) none busy)
     [AppendPoint.relocation, .host, .free].map (fun p =>
       (State.arbitrate (inHold { s with lw := { s.lw with point := p } })).sm.hostStall)) = [true, false, true] := by decide +kernel

/-- A relocation record of 40 bytes, one word too long for the open sector's remainder. -/
def longRecord : RelocRecord := { record := { recordA with key := List.replicate 8 0x61 }, sector := 3, offset := 16 }

theorem witness_StallsRelieved_relief :
    (let s := full (laned none (some longRecord) { base with sm := { base.sm with relocStall := true } })
     s.dev.state = .online ∧ s.sm.relocStall = true ∧ s.count .erased = 0 ∧ s.count .stale = 0 ∧ s.count .erasing = 0
       ∧ 32768 < 32736 + longRecord.record.bytes ∧ s.sm.hostStall = false)
    ∧ (let s := full (laned (some { members := 1, total := 40 }) none { busy with sm := { busy.sm with hostStall := true } })
       s.sm.hostStall = true ∧ s.sm.engine = .idle ∧ s.victim? = none ∧ s.count .stale = 0 ∧ s.count .erasing = 0) := by
  decide +kernel

end Sys2Proof.Tests
end

section
/-! PROOFS. FORMAT: the payload it takes, the device states that take it, and its refusal when the device is not idle
(R138, R145). -/

namespace Sys2Proof.Machine

/-- The requests without fields are the ones whose payload is empty (R185). -/
theorem decodeEmpty_eq_some {q r : Request} {bs : List Byte} : decodeEmpty q bs = some r ↔ bs = [] ∧ q = r := by
  simp [decodeEmpty]

/-- FORMAT's column of the table of R138. -/
theorem gateFormat_eq_none (d : DeviceState) : gateFormat d = none ↔ d ∈ [.unformatted, .online, .readOnly] := by
  cases d <;> simp [gateFormat]

/-- Without the restart latch the device state alone gates a request (R138, R151). -/
theorem State.gate_unlatched {s : State} (h : s.dev.restartLatch = false) (k : ReqKind) :
    s.gate k = gateTable k s.dev.state := by
  simp [State.gate, h]

/-- A request just taken finds another slot in use just when some slot was in use before it came: the tag it has
taken was free. -/
theorem State.taken_otherSlot {s : State} {f : Frame} (h : s.slot f.tag = none) (k : ReqKind) (r : Request) :
    (s.taken k f r).req.slots.any (fun sl => sl.tag != f.tag) = true ↔ s.req.slots ≠ [] := by
  have hother := find_tag_none h
  rw [State.taken_eq h]
  cases hslots : s.req.slots with
  | nil => simp [State.takenSlot, newSlot]
  | cons sl l => simp [hother sl (by simp [hslots])]

/-- R145's three reasons, in the state that the FORMAT met. -/
theorem State.taken_notIdle {s : State} {f : Frame} (h : s.slot f.tag = none) (k : ReqKind) (r : Request) :
    (s.taken k f r).notIdle f.tag = true ↔ s.req.slots ≠ [] ∨ s.wq.entries ≠ [] ∨ s.grp.group ≠ none := by
  simp only [State.notIdle, Bool.or_eq_true, State.taken_otherSlot h, or_assoc]
  simp [Option.isSome_iff_ne_none]

/-- A FORMAT of a device that is not idle is answered NOT_IDLE. -/
theorem State.actFormat_notIdle {s : State} {tag : Byte} (h : s.notIdle tag = true) :
    s.actFormat tag = (s.answer tag .notIdle []).consult := by
  simp [State.actFormat, h]

/-- A FORMAT just taken from a state that is not idle leaves nothing but its NOT_IDLE behind. -/
theorem State.taken_actFormat_notIdle {s : State} {f : Frame} (h : s.slot f.tag = none) (k : ReqKind) (r : Request)
    (hbusy : s.req.slots ≠ [] ∨ s.wq.entries ≠ [] ∨ s.grp.group ≠ none) :
    s.answered f [18] ((s.taken k f r).actFormat f.tag) := by
  rw [State.actFormat_notIdle ((State.taken_notIdle h k r).2 hbusy)]
  exact State.taken_answered h k r .notIdle []

/-- Settles O34: a FORMAT that is taken runs `actFormat` with its own slot in the table, where `notIdle` says what
R145 asks of the state before it. -/
theorem formatRefused : Obligations.FormatRefused := by
  refine ⟨fun payload => ?_, fun s hlatch => ?_, ?_⟩
  · simp [decodeRequest, decodeEmpty_eq_some]
  · rw [State.gate_unlatched hlatch]
    exact gateFormat_eq_none s.dev.state
  · intro s tag flags payload f htakes hbusy
    exact ⟨_, exec_format_taken htakes, State.taken_actFormat_notIdle (State.takes_slot htakes) _ _ hbusy⟩

end Sys2Proof.Machine
end

section
/-! PROOFS. The fields of a frame on the link (R183), and the notices: their payloads (R188), the Notice Set and its
consultation (R181). -/

namespace Sys2Proof.Machine

/-! ## Frames (R183) -/

/-- A one-byte field. -/
theorem le_one (v : Nat) : le 1 v = [BitVec.ofNat 8 v] := rfl

/-- A two-byte field, low byte first. -/
theorem le_two (v : Nat) : le 2 v = [BitVec.ofNat 8 v, BitVec.ofNat 8 (v / 256)] := rfl

/-- The fields of a frame that its CRC covers (R184). -/
def Frame.body (f : Frame) : List Byte := f.start ++ [f.flags] ++ f.payload

/-- Those fields are LENGTH, KIND, TAG, FLAGS and the payload. -/
theorem Frame.body_eq (f : Frame) :
    f.body = [BitVec.ofNat 8 f.payload.length, BitVec.ofNat 8 (f.payload.length / 256)]
      ++ f.kind ++ [f.tag] ++ [f.flags] ++ f.payload := by
  simp only [Frame.body, Frame.start, le_two]

/-- On the line the body stands between SYNC and its CRC. -/
theorem Frame.wire_eq (f : Frame) : f.wire = [0x5A] ++ f.body ++ le 2 (crc16 f.body).toNat := by
  simp [Frame.wire, Frame.crc, Frame.body]

/-- Settles O8: the body is what stands between SYNC and the CRC, and the part builds its own frames with FLAGS 0. -/
theorem frameLayout : Obligations.FrameLayout := by
  refine ⟨fun f _ _ => ?_, fun _ => rfl, fun _ _ => ⟨rfl, rfl, rfl⟩, fun _ => ⟨rfl, rfl⟩⟩
  exact ⟨f.body, le 2 (crc16 f.body).toNat, f.wire_eq, f.body_eq, le_two _⟩

/-! ## The payloads of the notices (R188) -/

/-- Every payload is the kind's number and then the fields of that kind. -/
theorem noticePayload_cases (s : State) :
    noticePayload s .state = [1, BitVec.ofNat 8 s.dev.state.code]
    ∧ noticePayload s .supply = [2, BitVec.ofNat 8 s.sup.condition.code]
    ∧ noticePayload s .sectorRetired = [3, BitVec.ofNat 8 (s.sm.table.countP (fun e => e.state == .retired))]
    ∧ noticePayload s .spaceLow = [4] ++ le 4 s.dir.admitted ++ le 4 s.dir.limit
    ∧ noticePayload s .frameDropped = [5]
    ∧ noticePayload s .linkReset = [6] ++ le 4 s.link.rate
    ∧ noticePayload s .wear =
        [7] ++ le 3 (((s.sm.table.filter (fun e => e.state != .retired)).map (fun e => e.eraseCount)).foldl max 0)
            ++ le 3 (lowestCount (fun e => e.state == .full) s.sm.table) :=
  ⟨rfl, rfl, rfl, rfl, rfl, rfl, rfl⟩

/-- No payload tells what the Transmit Queue or the Notice Set holds. -/
theorem noticePayload_congr_link (s : State) (q : List TxFrame) (l : List NoticeKind) :
    noticePayload { s with link := { s.link with txq := q, notices := l } } = noticePayload s := by
  funext k
  cases k <;> rfl

/-! ## The consultation of the Notice Set (R181) -/

/-- The entry of the Transmit Queue that a notice kind brings. -/
def State.noticeEntry (s : State) (k : NoticeKind) : TxFrame := plainTx (noticeFrame (noticePayload s k))

/-- The lowest kind's frame has joined the Transmit Queue and the kind has left the Notice Set. -/
def State.sendNotice (s : State) (k : NoticeKind) (rest : List NoticeKind) : State :=
  { s with link := { s.link with txq := s.link.txq ++ [s.noticeEntry k], notices := rest } }

/-- One notice sent leaves the frames of the others as they were. -/
theorem State.noticeEntry_sendNotice (s : State) (k : NoticeKind) (rest : List NoticeKind) :
    (s.sendNotice k rest).noticeEntry = s.noticeEntry := by
  funext j
  simp only [State.noticeEntry, State.sendNotice, noticePayload_congr_link]

/-- An empty Notice Set sends nothing. -/
theorem State.consult_nil {s : State} (h : s.link.notices = []) : s.consult = s := by
  simp [State.consult, State.consultUpTo, h]

/-- While 4 frames or fewer wait, the lowest kind is sent and the set is consulted again. -/
theorem State.consult_cons {s : State} {k : NoticeKind} {rest : List NoticeKind} (h : s.link.notices = k :: rest)
    (hroom : s.link.txq.length ≤ 4) : s.consult = (s.sendNotice k rest).consult := by
  simp [State.consult, State.consultUpTo, h, hroom, State.sendNotice, State.noticeEntry, State.pushTx]

/-- With more than 4 frames waiting, no notice is sent. -/
theorem State.consult_full {s : State} (h : 4 < s.link.txq.length) : s.consult = s := by
  cases hn : s.link.notices with
  | nil => exact State.consult_nil hn
  | cons k rest => simp [State.consult, State.consultUpTo, hn, Nat.not_le.2 h]

/-- A consultation fills the Transmit Queue up to 5 frames with the notices of the lowest kinds. -/
theorem State.consult_eq_take (s : State) :
    s.consult = { s with link := { s.link with
      txq := s.link.txq ++ (s.link.notices.take (5 - s.link.txq.length)).map s.noticeEntry
      notices := s.link.notices.drop (5 - s.link.txq.length) } } := by
  generalize hn : s.link.notices = l
  induction l generalizing s with
  | nil =>
    simp only [State.consult_nil hn, List.take_nil, List.map_nil, List.append_nil, List.drop_nil]
    rw [← hn]
  | cons k rest ih =>
    by_cases hroom : s.link.txq.length ≤ 4
    · have hmost : 5 - s.link.txq.length = (5 - (s.link.txq.length + 1)) + 1 := by omega
      rw [State.consult_cons hn hroom, ih (s.sendNotice k rest) rfl, State.noticeEntry_sendNotice, hmost]
      simp [State.sendNotice]
    · have hmost : 5 - s.link.txq.length = 0 := by omega
      rw [State.consult_full (Nat.not_le.1 hroom), hmost]
      simp [← hn]

/-! ## The order of the Notice Set (R181) -/

/-- No two kinds have one number (R182). -/
theorem NoticeKind.number_injective : Function.Injective NoticeKind.number := by
  intro a b
  cases a <;> cases b <;> simp [NoticeKind.number]

/-- A kind that joins is in the set, with those that were there. -/
theorem mem_joinNotice (j k : NoticeKind) (l : List NoticeKind) : j ∈ joinNotice k l ↔ j = k ∨ j ∈ l := by
  induction l with
  | nil => simp [joinNotice]
  | cons i rest ih =>
    simp only [joinNotice]
    split
    next hki => simp [hki]
    next =>
      split
      · exact List.mem_cons
      · simp only [List.mem_cons, ih, or_left_comm]

/-- The set stays in rising number. -/
theorem joinNotice_pairwise (k : NoticeKind) {l : List NoticeKind} (h : l.Pairwise (fun a b => a.number < b.number)) :
    (joinNotice k l).Pairwise (fun a b => a.number < b.number) := by
  induction l with
  | nil => simp [joinNotice]
  | cons i rest ih =>
    obtain ⟨hfirst, hrest⟩ := List.pairwise_cons.1 h
    simp only [joinNotice]
    split
    next => exact h
    next hne =>
      split
      next hlt =>
        refine List.pairwise_cons.2 ⟨fun j hj => ?_, h⟩
        rcases List.mem_cons.1 hj with rfl | hj
        · exact hlt
        · exact Nat.lt_trans hlt (hfirst j hj)
      next hge =>
        have hik : i.number < k.number :=
          Nat.lt_of_le_of_ne (Nat.not_lt.1 hge) (fun e => hne (NoticeKind.number_injective e.symm))
        refine List.pairwise_cons.2 ⟨fun j hj => ?_, ih hrest⟩
        rcases (mem_joinNotice j k rest).1 hj with rfl | hj
        · exact hik
        · exact hfirst j hj

/-- A kind that is in the set already does not join again. -/
theorem joinNotice_of_mem {k : NoticeKind} {l : List NoticeKind} (h : l.Pairwise (fun a b => a.number < b.number))
    (hk : k ∈ l) : joinNotice k l = l := by
  induction l with
  | nil => simp at hk
  | cons i rest ih =>
    obtain ⟨hfirst, hrest⟩ := List.pairwise_cons.1 h
    rcases List.mem_cons.1 hk with rfl | hk
    · simp [joinNotice]
    · have hik := hfirst k hk
      have hne : k ≠ i := by rintro rfl; exact Nat.lt_irrefl _ hik
      simp [joinNotice, hne, Nat.le_of_lt hik, ih hrest hk]

/-- Settles O9: the payloads kind by kind, a consultation by induction on the Notice Set, and the set's order by
induction along the insertion. -/
theorem noticePayloads : Obligations.NoticePayloads :=
  ⟨noticePayload_cases, State.consult_eq_take,
    fun k l h => ⟨joinNotice_pairwise k h, fun j => mem_joinNotice j k l, joinNotice_of_mem h⟩⟩

end Sys2Proof.Machine
end

section
/-! PROOFS. What it is for an operation to keep the laws of the blocks, and what a change to one block has to
keep of them. -/

namespace Sys2Proof.Machine

/-- From `s` to `t` every law of the blocks but the supply timers' is kept, each by itself, and the queue of commands
is untouched. -/
structure KeepsUntimed (s t : State) : Prop where
  array : s.arrayOk → t.arrayOk
  link : s.linkOk → t.linkOk
  table : s.tableOk → t.tableOk
  directory : s.directoryOk → t.directoryOk
  queue : s.queueOk → t.queueOk
  account : s.accountOk → t.accountOk
  opens : s.openOk → t.openOk
  pending : t.pending = s.pending

/-- From `s` to `t` every law of the blocks is kept, each by itself, and the queue of commands is untouched. -/
structure Keeps (s t : State) : Prop extends KeepsUntimed s t where
  timers : s.timersOk → t.timersOk

theorem KeepsUntimed.trans {s t u : State} (h : KeepsUntimed s t) (h' : KeepsUntimed t u) : KeepsUntimed s u :=
  ⟨h'.array ∘ h.array, h'.link ∘ h.link, h'.table ∘ h.table, h'.directory ∘ h.directory,
    h'.queue ∘ h.queue, h'.account ∘ h.account, h'.opens ∘ h.opens, h'.pending.trans h.pending⟩

namespace Keeps

theorem refl (s : State) : Keeps s s := ⟨⟨id, id, id, id, id, id, id, rfl⟩, id⟩

theorem trans {s t u : State} (h : Keeps s t) (h' : Keeps t u) : Keeps s u :=
  ⟨h.toKeepsUntimed.trans h'.toKeepsUntimed, h'.timers ∘ h.timers⟩

theorem of_eq {s t : State} (h : s = t) : Keeps s t := h ▸ refl s

/-! ## A change to one block -/

variable {s : State}

theorem of_link {l : Link} (h : s.linkOk → ({ s with link := l } : State).linkOk) : Keeps s { s with link := l } :=
  ⟨⟨id, h, id, id, id, id, id, rfl⟩, id⟩

theorem of_req {r : RequestTable} (h : s.tableOk → ({ s with req := r } : State).tableOk) : Keeps s { s with req := r } :=
  ⟨⟨id, id, h, id, id, id, id, rfl⟩, id⟩

theorem of_sup {p : Supply} (h : s.timersOk → ({ s with sup := p } : State).timersOk) : Keeps s { s with sup := p } :=
  ⟨⟨id, id, id, id, id, id, id, rfl⟩, h⟩

theorem of_flash {f : Flash} {n : Nat} (h : s.flash.wf = true → f.wf = true) : Keeps s { s with flash := f, seeds := n } :=
  ⟨⟨h, id, id, id, id, id, id, rfl⟩, id⟩

theorem of_arr (a : ArrayCtl) : Keeps s { s with arr := a } := ⟨⟨id, id, id, id, id, id, id, rfl⟩, id⟩

/-- The accounts ask of the device state only that a mount in progress finds MOUNTING. -/
theorem of_dev {d : Device} (h : s.dev.state = .mounting → d.state = .mounting) : Keeps s { s with dev := d } := by
  refine ⟨⟨id, id, id, id, id, fun hs => ?_, id, rfl⟩, id⟩
  obtain ⟨hrise, hqueued, hentry, hadmitted, hcharged, hgroup, hmount⟩ := hs
  refine ⟨hrise, hqueued, hentry, hadmitted, hcharged, hgroup, fun m hm => ?_⟩
  obtain ⟨hstate, hrest⟩ := hmount m hm
  exact ⟨h hstate, hrest⟩

/-- The accounts ask of the Sector Manager only that no FORMAT begins. -/
theorem of_writer {m : SectorManager} {l : LogWriter}
    (h : s.openOk → ({ s with sm := m, lw := l } : State).openOk) (hf : s.sm.format = none → m.format = none) :
    Keeps s { s with sm := m, lw := l } := by
  refine ⟨⟨id, id, id, id, id, fun hs => ?_, h, rfl⟩, id⟩
  obtain ⟨hrise, hqueued, hentry, hadmitted, hcharged, hgroup, hmount⟩ := hs
  refine ⟨hrise, hqueued, hentry, hadmitted, hcharged, hgroup, fun m hm => ?_⟩
  obtain ⟨hstate, hformat, hrest⟩ := hmount m hm
  exact ⟨hstate, hf hformat, hrest⟩

theorem of_dir {d : Directory} (hd : s.directoryOk → ({ s with dir := d } : State).directoryOk)
    (ha : s.accountOk → ({ s with dir := d } : State).accountOk) : Keeps s { s with dir := d } :=
  ⟨⟨id, id, id, hd, id, ha, id, rfl⟩, id⟩

theorem of_wq {q : WriteQueue} (ht : s.timersOk → ({ s with wq := q } : State).timersOk)
    (hq : s.queueOk → ({ s with wq := q } : State).queueOk)
    (ha : s.accountOk → ({ s with wq := q } : State).accountOk) : Keeps s { s with wq := q } :=
  ⟨⟨id, id, id, id, hq, ha, id, rfl⟩, ht⟩

/-- No law reads anything of the Write Queue but its entries and its charge. -/
theorem of_wq_same {q : WriteQueue} (he : q.entries = s.wq.entries) (hc : q.charged = s.wq.charged) :
    Keeps s { s with wq := q } := by
  refine of_wq (fun h => ?_) (fun h => ?_) (fun h => ?_)
  · simpa [State.timersOk, he] using h
  · simpa [State.queueOk, he, hc] using h
  · simpa [State.accountOk, State.queuedShare, State.stagedShare, State.entry, he, hc] using h

/-! ## Link and Request Table -/

theorem mark (k : NoticeKind) (s : State) : Keeps s (s.mark k) := of_link id

theorem pushTx {e : TxFrame} {s : State} (h : s.link.txq.length < Config.maxTx) : Keeps s (s.pushTx e) :=
  of_link (fun hs => ⟨Nat.le_trans (Nat.le_of_eq List.length_append) h, hs.2⟩)

theorem sendReply (e : TxFrame) (s : State) : Keeps s (s.sendReply e) := by
  simp only [State.sendReply]
  split
  next h => exact pushTx h
  next =>
    split
    · exact of_dev id
    · exact refl s

theorem sendRetry (f : Frame) (s : State) : Keeps s (s.sendRetry f) := by
  simp only [State.sendRetry]
  split
  next h => exact pushTx (Nat.lt_of_le_of_lt h (by decide))
  next => exact refl s

theorem answerUnslotted (tag : Byte) (st : Status) (s : State) : Keeps s (s.answerUnslotted tag st) := sendReply _ s

theorem consult (s : State) : Keeps s s.consult := by
  rw [State.consult_eq_take]
  refine of_link (fun hs => ⟨?_, hs.2⟩)
  have := hs.1
  simp only [List.length_append, List.length_map, List.length_take, Config.maxTx] at this ⊢
  omega

/-- A change to the slots that leaves their tags. -/
theorem modSlot {tag : Byte} {f : Slot → Slot} (h : ∀ sl, (f sl).tag = sl.tag) (s : State) : Keeps s (s.modSlot tag f) := by
  have htag : ∀ sl : Slot, (if sl.tag = tag then f sl else sl).tag = sl.tag := fun sl => by split <;> simp [h]
  refine of_req (fun hs => ?_)
  obtain ⟨hlen, hnodup, hcache, hctags, hdisj⟩ := hs
  refine ⟨by simpa using hlen, ?_, hcache, hctags, ?_⟩
  · simpa [Function.comp_def, htag] using hnodup
  · intro sl hsl e he
    obtain ⟨x, hx, rfl⟩ := List.mem_map.1 hsl
    rw [htag]
    exact hdisj x hx e he

theorem waitFor (tag : Byte) (why : WaitReason) (s : State) : Keeps s (s.waitFor tag why) := modSlot (by intro; rfl) s

theorem tellPending (tag : Byte) (s : State) : Keeps s (s.tellPending tag) := by
  simp only [State.tellPending]
  split
  · split
    · exact (modSlot (by intro; rfl) s).trans (sendReply _ _)
    · exact refl s
  · exact refl s

theorem freeSlot (tag : Byte) (s : State) : Keeps s (s.freeSlot tag) := by
  refine of_req (fun hs => ?_)
  obtain ⟨hlen, hnodup, hcache, hctags, hdisj⟩ := hs
  exact ⟨Nat.le_trans (List.length_filter_le _ _) hlen, hnodup.sublist (List.filter_sublist.map _), hcache, hctags,
    fun sl hsl => hdisj sl (List.mem_filter.1 hsl).1⟩

/-- The reply of a tag that holds a slot is cached as the slot is freed (R165, R167). -/
theorem cacheReply_freeSlot {s : State} {tag : Byte} {sl : Slot} (h : s.slot tag = some sl) (digest : BitVec 16) (f : Frame) :
    Keeps s ((s.cacheReply { tag := tag, digest := digest, frame := f }).freeSlot tag) := by
  refine of_req (fun hs => ?_)
  obtain ⟨hlen, hnodup, hcache, hctags, hdisj⟩ := hs
  have hsl : sl ∈ s.req.slots := List.mem_of_find?_eq_some h
  have htag : sl.tag = tag := by simpa using List.find?_some h
  have hkept : (if s.req.cache.length < Config.maxCache then s.req.cache else s.req.cache.drop 1).Sublist s.req.cache := by
    split
    · exact List.Sublist.refl _
    · exact List.drop_sublist _ _
  refine ⟨Nat.le_trans (List.length_filter_le _ _) hlen, hnodup.sublist (List.filter_sublist.map _), ?_, ?_, ?_⟩
  · have : s.req.cache.length ≤ 8 := hcache
    simp only [State.cacheReply_fields, List.length_append, List.length_singleton, Config.maxCache]
    split
    · omega
    · simp only [List.length_drop]; omega
  · simp only [State.cacheReply_fields, List.map_append, List.nodup_append]
    refine ⟨hctags.sublist (hkept.map _), by simp, ?_⟩
    intro a ha b hb
    obtain ⟨e, he, rfl⟩ := List.mem_map.1 ha
    simp only [List.map_cons, List.map_nil, List.mem_singleton] at hb
    subst hb
    exact fun heq => hdisj sl hsl e (hkept.subset he) (htag.trans heq.symm)
  · intro x hx e he
    simp only [State.cacheReply_fields, List.mem_filter, List.mem_append, List.mem_singleton, bne_iff_ne] at hx he
    rcases he with he | rfl
    · exact hdisj x hx.1 e (hkept.subset he)
    · exact hx.2

theorem finish (tag : Byte) (payload : List Byte) (restarts : Bool) (s : State) : Keeps s (s.finish tag payload restarts) := by
  simp only [State.finish]
  split
  next sl h =>
    split
    · refine (sendReply _ s).trans (cacheReply_freeSlot (sl := sl) ?_ _ _)
      simpa [State.slot] using h
    · split
      · exact (show Keeps s s.dueRestart from of_dev id).trans (freeSlot tag _)
      · exact freeSlot tag s
  next => exact refl s

theorem answer (tag : Byte) (st : Status) (fields : List Byte) (s : State) : Keeps s (s.answer tag st fields) :=
  finish tag _ false s

/-- A frame takes a free slot, and its tag's reply leaves the cache (R161). -/
theorem takeSlot {s : State} {f : Frame} (hs : s.slot f.tag = none) (hl : s.req.slots.length < Config.maxSlots)
    (kind : Option ReqKind) : Keeps s (s.takeSlot kind f) := by
  refine of_req (fun h => ?_)
  obtain ⟨hlen, hnodup, hcache, hctags, hdisj⟩ := h
  have hfree := find_tag_none hs
  refine ⟨Nat.le_trans (Nat.le_of_eq List.length_append) hl, ?_, Nat.le_trans (List.length_filter_le _ _) hcache, hctags.sublist (List.filter_sublist.map _), ?_⟩
  · simp only [List.map_append, List.nodup_append]
    refine ⟨hnodup, by simp, ?_⟩
    intro a ha b hb
    obtain ⟨x, hx, rfl⟩ := List.mem_map.1 ha
    simp only [List.map_cons, List.map_nil, List.mem_singleton, newSlot] at hb
    subst hb
    exact hfree x hx
  · intro x hx e he
    obtain ⟨hmem, hne⟩ := List.mem_filter.1 he
    rcases List.mem_append.1 hx with hx | hx
    · exact hdisj x hx e hmem
    · rw [List.mem_singleton.1 hx]
      exact fun heq => (bne_iff_ne.1 hne) heq.symm

theorem recordRequest (tag : Byte) (r : Request) (s : State) : Keeps s (s.recordRequest tag r) := modSlot (by intro; rfl) s

theorem startHoldTimer (s : State) : Keeps s s.startHoldTimer := by
  simp only [State.startHoldTimer]
  split
  next h => exact of_sup (fun hs => ⟨hs.1, fun _ => h⟩)
  next => exact refl s

theorem stopHoldTimer (s : State) : Keeps s s.stopHoldTimer := by
  simp only [State.stopHoldTimer]
  split
  · exact of_sup (fun hs => ⟨hs.1, by simp⟩)
  · exact refl s

end Keeps
end Sys2Proof.Machine
end

section
/-! PROOFS. The Directory's operations keep the laws: entries put, dropped and made durable, against the space
accounts (R18 to R37). -/

namespace Sys2Proof.Machine

/-! ## The accounts, key by key -/

/-- The queued count that a list of entries gives for a key (R18). -/
def queuedIn (es : List Entry) (k : Key) : Nat :=
  match findEntry k es with
  | some e => e.queued
  | none => 0

theorem queuedIn_put (e : Entry) (es : List Entry) (k : Key) :
    queuedIn (putEntry e es) k = if k = e.key then e.queued else queuedIn es k := by
  by_cases h : k = e.key
  · simp [queuedIn, h, findEntry_put]
  · simp [queuedIn, h, findEntry_put_other h]

theorem queuedIn_drop (k j : Key) (es : List Entry) : queuedIn (dropEntry k es) j = if j = k then 0 else queuedIn es j := by
  by_cases h : j = k
  · simp [queuedIn, h, findEntry_drop]
  · simp [queuedIn, h, findEntry_drop_other h]

theorem queuedIn_of_find {es : List Entry} {k : Key} {e : Entry} (h : findEntry k es = some e) : queuedIn es k = e.queued := by
  simp only [queuedIn, h]

theorem queuedIn_of_none {es : List Entry} {k : Key} (h : findEntry k es = none) : queuedIn es k = 0 := by
  simp only [queuedIn, h]

/-- The accounts' clause on a mount in progress. -/
def State.mountQuiet (s : State) : Prop :=
  ∀ m, s.mount = some m → s.dev.state = .mounting ∧ s.sm.format = none ∧ s.wq.entries = []
    ∧ s.grp.group = none ∧ keysRise m.entries ∧ ∀ e ∈ m.entries, e.queued = 0

/-- Each key's queued count is the number of its entries in the Write Queue, also where the key has no entry. -/
theorem State.accountOk_iff (s : State) : s.accountOk ↔
    keysRise s.dir.entries
    ∧ (∀ k, queuedIn s.dir.entries k = s.wq.entries.countP (fun q => q.key == k))
    ∧ s.dir.admitted = durableShare s.dir.entries + s.queuedShare + s.stagedShare
    ∧ s.wq.charged = s.queuedShare + s.stagedShare
    ∧ (∀ g, s.grp.group = some g → g.bytes = (g.members.map (fun m => m.recLen)).sum)
    ∧ s.mountQuiet := by
  constructor
  · rintro ⟨hrise, hqueued, hentry, hrest⟩
    refine ⟨hrise, fun k => ?_, hrest⟩
    cases hf : findEntry k s.dir.entries with
    | some e => rw [queuedIn_of_find hf, hqueued e (findEntry_mem hf), findEntry_key hf]
    | none =>
      rw [queuedIn_of_none hf, eq_comm, List.countP_eq_zero]
      intro q hq hk
      have := hentry q hq
      rw [State.entry, beq_iff_eq.1 hk, hf] at this
      cases this
  · rintro ⟨hrise, hqueued, hrest⟩
    refine ⟨hrise, fun e he => ?_, fun q hq => ?_, hrest⟩
    · rw [← hqueued, queuedIn_of_find (findEntry_of_mem hrise he)]
    · rw [Option.isSome_iff_ne_none]
      intro hnone
      have hzero := hqueued q.key
      rw [queuedIn_of_none hnone, eq_comm, List.countP_eq_zero] at hzero
      exact hzero q hq (beq_self_eq_true _)

/-- An entry found is as long as the key's part of the durable share. -/
theorem findEntry_share_le {es : List Entry} {k : Key} {e : Entry} (h : findEntry k es = some e) :
    durableLen e.durable ≤ durableShare es := durableLen_le_share (findEntry_mem h)

namespace Keeps

variable {s : State}

/-! ## Entries that stay -/

/-- An entry of the Directory is put back with its queued count, and admitted bytes follow its record length. -/
theorem of_put {e e' : Entry} (he : e ∈ s.dir.entries) (hk : e'.key = e.key) (hq : e'.queued = e.queued) {n : Nat}
    (hn : durableLen e.durable ≤ s.dir.admitted → n + durableLen e.durable = s.dir.admitted + durableLen e'.durable) :
    Keeps s { s with dir := { s.dir with entries := putEntry e' s.dir.entries, admitted := n } } := by
  refine of_dir (fun hs => ?_) (fun hs => ?_)
  · obtain ⟨hrise, hplaces, hmount⟩ := hs
    have hf : findEntry e'.key s.dir.entries = some e := hk ▸ findEntry_of_mem hrise he
    refine ⟨keysRise_put hrise _, ?_, hmount⟩
    simpa [State.places, length_put_some hrise hf] using hplaces
  · rw [State.accountOk_iff] at hs ⊢
    obtain ⟨hrise, hqueued, hadmitted, hrest⟩ := hs
    have hf : findEntry e'.key s.dir.entries = some e := hk ▸ findEntry_of_mem hrise he
    refine ⟨keysRise_put hrise _, fun k => ?_, ?_, hrest⟩
    · rw [← hqueued]
      show queuedIn (putEntry e' s.dir.entries) k = _
      rw [queuedIn_put]
      split
      next h => rw [h, queuedIn_of_find hf, hq]
      next => rfl
    · have hshare := durableShare_put_some hrise hf
      have hle := durableLen_le_share he
      have := hn (by omega)
      show n = durableShare (putEntry e' s.dir.entries) + s.queuedShare + s.stagedShare
      omega

theorem putEntry_same {e e' : Entry} (he : e ∈ s.dir.entries) (hk : e'.key = e.key) (hq : e'.queued = e.queued)
    (hd : durableLen e'.durable = durableLen e.durable) : Keeps s (s.putEntry e') :=
  of_put he hk hq (fun _ => by rw [hd])

theorem copyBegun (k : Key) (s : State) : Keeps s (s.copyBegun k) := by
  simp only [State.copyBegun]
  split
  next e h => exact putEntry_same (findEntry_mem h) rfl rfl rfl
  next => exact refl s

theorem viewFromDurable_fields (e : Entry) :
    e.viewFromDurable.key = e.key ∧ e.viewFromDurable.queued = e.queued ∧ e.viewFromDurable.durable = e.durable := by
  simp only [Entry.viewFromDurable]
  split
  next h => exact ⟨rfl, rfl, h ▸ rfl⟩
  next h => exact ⟨rfl, rfl, h ▸ rfl⟩

theorem markLost {e : Entry} {d : DurablePart} (he : e ∈ s.dir.entries) (hd : e.durable = some d) : Keeps s (s.markLost e d) := by
  simp only [State.markLost]
  obtain ⟨hkey, hqueued, hdurable⟩ := viewFromDurable_fields
    { e with durable := some { d with kind := .loss, valLen := 0 }, flashCopies := e.flashCopies - 1 }
  split
  · exact putEntry_same he hkey hqueued (by rw [hdurable, hd]; rfl)
  · exact putEntry_same he rfl rfl (by rw [hd]; rfl)

theorem setAdmitted_put {e e' : Entry} (he : e ∈ s.dir.entries) (hk : e'.key = e.key) (hq : e'.queued = e.queued) {n : Nat}
    (hn : durableLen e.durable ≤ s.dir.admitted → n + durableLen e.durable = s.dir.admitted + durableLen e'.durable) :
    Keeps s ((s.putEntry e').setAdmitted n) := by
  rw [State.setAdmitted_eq]
  exact (of_put he hk hq hn).trans (of_link id)

theorem releasePlaces (n : Nat) (s : State) : Keeps s (s.releasePlaces n) := by
  refine of_dir (fun hs => ⟨hs.1, ?_, hs.2.2⟩) id
  have := hs.2.1
  have hlen := List.length_filter_le (fun r : ReservedPlace => r.victim != n) s.dir.reserved
  simp only [State.places] at this ⊢
  omega

theorem setLimit (n : Nat) (s : State) : Keeps s { s with dir := { s.dir with limit := n } } := of_dir id id

/-! ## Sectors whose state does not become OPEN -/

/-- The Sector Table changes without a sector becoming OPEN, and the open sector stays where it is. -/
theorem of_table {m : SectorManager} {l : LogWriter} (hlen : m.table.length = s.sm.table.length)
    (hopen : ∀ n, (m.table.getD n SectorEntry.initial).state = .opened → (s.sector n).state = .opened)
    (hat : l.openAt.map OpenSector.sector = s.lw.openAt.map OpenSector.sector)
    (hf : s.sm.format = none → m.format = none) : Keeps s { s with sm := m, lw := l } := by
  refine of_writer (fun hs => ⟨fun n hn ho => ?_, hs.2⟩) hf
  obtain ⟨o, hlw, hsector⟩ := hs.1 n (hlen ▸ hn) (hopen n ho)
  rw [hlw, Option.map_some, Option.map_eq_some_iff] at hat
  obtain ⟨o', hl, ho'⟩ := hat
  exact ⟨o', hl, ho'.trans hsector⟩

/-- The Log Writer changes, and the open sector stays where it is. -/
theorem modWriter {f : LogWriter → LogWriter} (s : State)
    (hat : (f s.lw).openAt.map OpenSector.sector = s.lw.openAt.map OpenSector.sector) : Keeps s (s.modWriter f) :=
  of_table (m := s.sm) rfl (fun _ h => h) hat id

/-- The Sector Manager changes, but for its table, and no FORMAT begins. -/
theorem modManager {f : SectorManager → SectorManager} (s : State) (ht : (f s.sm).table = s.sm.table)
    (hf : s.sm.format = none → (f s.sm).format = none) : Keeps s (s.modManager f) :=
  of_table (l := s.lw) (by rw [ht]) (fun n h => by rw [ht] at h; exact h) rfl hf

theorem getD_modify (l : List SectorEntry) (n k : Nat) (f : SectorEntry → SectorEntry) (hn : n < l.length) :
    (l.modify n f).getD k SectorEntry.initial
      = if k = n then f (l.getD n SectorEntry.initial) else l.getD k SectorEntry.initial := by
  simp only [List.getD_eq_getElem?_getD, List.getElem?_modify]
  split
  next h => subst h; simp [List.getElem?_eq_getElem hn]
  next h => rw [if_neg (fun h' => h h'.symm)]; simp

theorem modify_of_length_le (l : List SectorEntry) {n : Nat} (f : SectorEntry → SectorEntry) (hn : l.length ≤ n) :
    l.modify n f = l := by
  apply List.ext_getElem?
  intro i
  rw [List.getElem?_modify]
  split
  next h => subst h; simp [List.getElem?_eq_none hn]
  next => simp

/-- The entry of a sector changes without becoming OPEN. -/
theorem modSector {f : SectorEntry → SectorEntry} (h : ∀ e, (f e).state = .opened → e.state = .opened) (n : Nat) (s : State) :
    Keeps s (s.modSector n f) := by
  refine of_table (l := s.lw) (List.length_modify ..) (fun k hk => ?_) rfl id
  by_cases hn : n < s.sm.table.length
  · simp only [getD_modify _ _ _ _ hn] at hk
    split at hk
    next heq => subst heq; exact h _ hk
    next => exact hk
  · simp only [modify_of_length_le _ f (Nat.not_lt.1 hn)] at hk
    exact hk

theorem liveToDead (n b : Nat) (s : State) : Keeps s (s.liveToDead n b) := modSector (by simp) n s

theorem deadToLive (n b : Nat) (s : State) : Keeps s (s.deadToLive n b) := modSector (by simp) n s

theorem addDead (n b : Nat) (s : State) : Keeps s (s.addDead n b) := modSector (by simp) n s

theorem addCorrected (n b : Nat) (s : State) : Keeps s (s.addCorrected n b) := modSector (by simp) n s

theorem retireDurable (d : Option DurablePart) (s : State) : Keeps s (s.retireDurable d) := by
  simp only [State.retireDurable]
  split
  · exact liveToDead _ _ s
  · exact refl s

theorem copyComplete (r : RelocRecord) (sector offset : Nat) (s : State) : Keeps s (s.copyComplete r sector offset) := by
  simp only [State.copyComplete]
  split
  next e he =>
    split
    next d hd =>
      split
      · refine ((liveToDead d.sector d.recLen s).trans (deadToLive sector r.record.bytes _)).trans ?_
        refine setAdmitted_put (e := e) (by exact findEntry_mem he) (by rfl) (by rfl) (fun hle => ?_)
        simp only [hd, durableLen, State.deadToLive_fields, State.liveToDead_fields] at hle ⊢
        omega
      · exact refl s
    next => exact refl s
  next => exact refl s

/-! ## An entry leaves, its place reserved (R33) -/

theorem remove_reserve {e x : Entry} (hx : x ∈ s.dir.entries) (hk : x.key = e.key) (hd : x.durable = e.durable)
    (hq : x.queued = 0) (victim : Nat) : Keeps s ((s.removeEntry e).reservePlace e.key victim) := by
  have hdrop : Keeps s { s with dir := { s.dir with
      entries := dropEntry e.key s.dir.entries
      admitted := s.dir.admitted - durableLen e.durable
      reserved := s.dir.reserved ++ [{ key := e.key, victim := victim }] } } := by
    refine of_dir (fun hs => ?_) (fun hs => ?_)
    · obtain ⟨hrise, hplaces, hmount⟩ := hs
      have hlen := length_drop_some hrise (hk ▸ findEntry_of_mem hrise hx)
      refine ⟨keysRise_drop hrise _, ?_, hmount⟩
      simp only [State.places, List.length_append, List.length_singleton] at hplaces ⊢
      omega
    · rw [State.accountOk_iff] at hs ⊢
      obtain ⟨hrise, hqueued, hadmitted, hrest⟩ := hs
      have hf : findEntry e.key s.dir.entries = some x := hk ▸ findEntry_of_mem hrise hx
      refine ⟨keysRise_drop hrise _, fun k => ?_, ?_, hrest⟩
      · rw [← hqueued]
        show queuedIn (dropEntry e.key s.dir.entries) k = _
        rw [queuedIn_drop]
        split
        next h => rw [h, queuedIn_of_find hf, hq]
        next => rfl
      · have hshare := durableShare_drop_some hrise hf
        rw [hd] at hshare
        show s.dir.admitted - _ = durableShare (dropEntry e.key s.dir.entries) + s.queuedShare + s.stagedShare
        omega
  have heq : (s.removeEntry e).reservePlace e.key victim = ({ s with dir := { s.dir with
      entries := dropEntry e.key s.dir.entries
      admitted := s.dir.admitted - durableLen e.durable
      reserved := s.dir.reserved ++ [{ key := e.key, victim := victim }] } } : State).retireDurable e.durable := by
    rw [State.removeEntry, State.setAdmitted_eq, State.noticesAfter_le (by simp)]
    cases e.durable <;> rfl
  rw [heq]
  exact hdrop.trans (retireDurable _ _)

theorem passRecord (k : Key) (victim : Nat) (s : State) : Keeps s (s.passRecord k victim) := by
  simp only [State.passRecord]
  split
  next e he =>
    have hput : Keeps s (s.putEntry { e with flashCopies := e.flashCopies - 1 }) := putEntry_same (findEntry_mem he) rfl rfl rfl
    split
    next h =>
      have hkey := State.entry_key he
      subst hkey
      refine hput.trans (remove_reserve (x := { e with flashCopies := e.flashCopies - 1 }) ?_ rfl rfl h.2.2 victim)
      exact findEntry_mem (findEntry_put { e with flashCopies := e.flashCopies - 1 } s.dir.entries)
    next => exact hput
  next => exact refl s

end Keeps
end Sys2Proof.Machine
end

section
/-! PROOFS. Admission keeps the laws: writes taken by the Directory, groups staged, admitted and discarded, and the
consideration of the Admission List (R23, R40 to R44, R61 to R73). -/

namespace Sys2Proof.Machine

/-! ## The Directory takes a write (R23) -/

/-- The entry of a key once the Directory has taken a write of it. -/
def takenEntry (old : Option Entry) (k : Key) (kind : RecordKind) (seq valLen : Nat) : Entry :=
  let e := old.getD
    { key := k, state := .tombstone, newestSeq := 0, newestLen := 0, queued := 0, durable := none, flashCopies := 0 }
  { (e.viewFromWrite kind seq valLen) with queued := e.queued + 1 }

theorem State.dirTake_eq (k : Key) (kind : RecordKind) (seq valLen : Nat) (s : State) :
    s.dirTake k kind seq valLen = { s with dir := { s.dir with
      entries := Machine.putEntry (takenEntry (s.entry k) k kind seq valLen) s.dir.entries
      reserved := s.dir.reserved.filter (fun r => r.key != k) } } := rfl

theorem takenEntry_key {old : Option Entry} {k : Key} (h : ∀ e, old = some e → e.key = k) (kind : RecordKind) (seq valLen : Nat) :
    (takenEntry old k kind seq valLen).key = k := by
  cases old with
  | none => rfl
  | some e => exact h e rfl

theorem takenEntry_queued (old : Option Entry) (k : Key) (kind : RecordKind) (seq valLen : Nat) :
    (takenEntry old k kind seq valLen).queued = (match old with
      | some e => e.queued
      | none => 0) + 1 := by
  cases old <;> rfl

theorem takenEntry_durable (old : Option Entry) (k : Key) (kind : RecordKind) (seq valLen : Nat) :
    (takenEntry old k kind seq valLen).durable = old.bind (fun e => e.durable) := by
  cases old <;> rfl

theorem State.takenEntry_key (s : State) (k : Key) (kind : RecordKind) (seq valLen : Nat) :
    (takenEntry (s.entry k) k kind seq valLen).key = k :=
  Machine.takenEntry_key (fun _ h => State.entry_key h) kind seq valLen

/-- Keys rise and every key's queued count is the number of its entries in the Write Queue. -/
def State.countsAgree (s : State) : Prop :=
  keysRise s.dir.entries ∧ ∀ k, queuedIn s.dir.entries k = s.wq.entries.countP (fun q => q.key == k)

/-- The Directory takes a write as its entry joins the Write Queue. -/
theorem State.countsAgree_take {s t : State} {q : QueueEntry} (h : s.countsAgree) {kind : RecordKind} {seq valLen : Nat}
    (hd : t.dir.entries = (s.dirTake q.key kind seq valLen).dir.entries) (hq : t.wq.entries = s.wq.entries ++ [q]) :
    t.countsAgree := by
  obtain ⟨hrise, hqueued⟩ := h
  rw [State.dirTake_eq] at hd
  refine ⟨hd ▸ keysRise_put hrise _, fun k => ?_⟩
  rw [hd, hq, List.countP_append, ← hqueued]
  show queuedIn (Machine.putEntry _ _) k = _
  rw [queuedIn_put, s.takenEntry_key, takenEntry_queued]
  split
  next h => subst h; simp only [List.countP_singleton, beq_self_eq_true, if_true]; rfl
  next h => simp [show (q.key == k) = false from beq_eq_false_iff_ne.2 (Ne.symm h)]

theorem State.share_take {s : State} (h : keysRise s.dir.entries) (k : Key) (kind : RecordKind) (seq valLen : Nat) :
    durableShare (s.dirTake k kind seq valLen).dir.entries = durableShare s.dir.entries := by
  rw [State.dirTake_eq]
  cases hf : s.entry k with
  | none =>
    have := durableShare_put_none (e := takenEntry none k kind seq valLen) h (by exact hf)
    simpa [takenEntry_durable, durableLen] using this
  | some e =>
    have hkey : (takenEntry (some e) k kind seq valLen).key = k := hf ▸ s.takenEntry_key k kind seq valLen
    have := durableShare_put_some (e := takenEntry (some e) k kind seq valLen) h (hkey ▸ hf)
    rw [takenEntry_durable] at this
    exact Nat.add_right_cancel this

/-- A write takes a place only when its key needs one (R21, R33). -/
theorem State.places_take {s : State} (h : keysRise s.dir.entries) (k : Key) (kind : RecordKind) (seq valLen : Nat) :
    (s.dirTake k kind seq valLen).places ≤ s.places + (if s.needsPlace k then 1 else 0) := by
  have hplaces : (s.dirTake k kind seq valLen).places
      = (Machine.putEntry (takenEntry (s.entry k) k kind seq valLen) s.dir.entries).length
        + (s.dir.reserved.filter (fun r => r.key != k)).length := rfl
  have hkey := s.takenEntry_key k kind seq valLen
  rw [hplaces, State.places]
  have hlen := List.length_filter_le (fun r : ReservedPlace => r.key != k) s.dir.reserved
  by_cases hf : (s.entry k).isNone
  case neg =>
    obtain ⟨e, he⟩ := Option.ne_none_iff_exists'.1 (mt Option.isNone_iff_eq_none.2 hf)
    rw [length_put_some h (hkey.symm ▸ he)]
    omega
  case pos =>
    rw [length_put_none h (hkey.symm ▸ Option.isNone_iff_eq_none.1 hf)]
    by_cases hr : s.isReserved k = true
    · have : (s.dir.reserved.filter (fun r => r.key != k)).length < s.dir.reserved.length := by
        rw [List.length_filter_lt_length_iff_exists]
        obtain ⟨r, hmem, hkey⟩ := List.any_eq_true.1 hr
        exact ⟨r, hmem, by simpa using hkey⟩
      omega
    · have hneeds : s.needsPlace k = true := by
        rw [State.needsPlace, hf, Bool.eq_false_iff.2 hr]
        rfl
      rw [if_pos hneeds]
      omega

/-- After a write of a key, that key needs no place, and of the others the same ones do. -/
theorem State.needsPlace_take (s : State) (k : Key) (kind : RecordKind) (seq valLen : Nat) (j : Key) :
    (s.dirTake k kind seq valLen).needsPlace j = (s.needsPlace j && j != k) := by
  simp only [State.needsPlace, State.isReserved, State.entry]
  rw [State.dirTake_eq]
  have hkey := s.takenEntry_key k kind seq valLen
  by_cases hj : j = k
  · subst hj
    have : findEntry j (Machine.putEntry (takenEntry (s.entry j) j kind seq valLen) s.dir.entries)
        = some (takenEntry (s.entry j) j kind seq valLen) := by
      have := findEntry_put (takenEntry (s.entry j) j kind seq valLen) s.dir.entries
      rwa [hkey] at this
    simp [this]
  · have : findEntry j (Machine.putEntry (takenEntry (s.entry k) k kind seq valLen) s.dir.entries) = findEntry j s.dir.entries :=
      findEntry_put_other (by rwa [hkey]) _
    have hreserved : (s.dir.reserved.filter (fun r => r.key != k)).any (fun r => r.key == j)
        = s.dir.reserved.any (fun r => r.key == j) := by
      rw [Bool.eq_iff_iff, List.any_eq_true, List.any_eq_true]
      constructor
      · rintro ⟨r, hr, hrj⟩; exact ⟨r, (List.mem_filter.1 hr).1, hrj⟩
      · rintro ⟨r, hr, hrj⟩
        exact ⟨r, List.mem_filter.2 ⟨hr, by simpa [beq_iff_eq.1 hrj] using hj⟩, hrj⟩
    simp [this, hreserved, hj]

/-! ## The members of a group (R69, R70) -/

theorem mem_distinctKeys {k : Key} {ks : List Key} : k ∈ distinctKeys ks ↔ k ∈ ks := by
  induction ks with
  | nil => rfl
  | cons j rest ih =>
    simp only [distinctKeys, List.contains_iff_mem]
    split
    next h => rw [ih, List.mem_cons, or_iff_right_of_imp fun heq => heq ▸ h]
    next => rw [List.mem_cons, ih, List.mem_cons]

theorem nodup_distinctKeys (ks : List Key) : (distinctKeys ks).Nodup := by
  induction ks with
  | nil => exact List.nodup_nil
  | cons k rest ih =>
    simp only [distinctKeys, List.contains_iff_mem]
    split
    next => exact ih
    next h => exact List.nodup_cons.2 ⟨mt mem_distinctKeys.1 h, ih⟩

/-- Distinct keys that all stand in another list are no more than that list has. -/
theorem length_le_of_nodup {ks js : List Key} (hks : ks.Nodup) (h : ∀ k ∈ ks, k ∈ js) : ks.length ≤ js.length := by
  induction ks generalizing js with
  | nil => exact Nat.zero_le _
  | cons k rest ih =>
    obtain ⟨hk, hrest⟩ := List.nodup_cons.1 hks
    have hmem : k ∈ js := h k List.mem_cons_self
    have hle : rest.length ≤ (js.erase k).length := ih hrest fun i hi =>
      (List.mem_erase_of_ne fun heq : i = k => hk (heq ▸ hi)).2 (h i (List.mem_cons_of_mem k hi))
    rw [List.length_erase_of_mem hmem] at hle
    have hpos : 0 < js.length := List.length_pos_of_mem hmem
    rw [List.length_cons]
    omega

/-- A member's key counts once among those that need a place. -/
theorem State.newPlaces_cons (s : State) (m : Member) (rest : List Member) (kind : RecordKind) (seq valLen : Nat) :
    (if s.needsPlace m.key then 1 else 0) + (s.dirTake m.key kind seq valLen).newPlaces rest ≤ s.newPlaces (m :: rest) := by
  have hmem : ∀ k, k ∈ distinctKeys ((rest.map (fun m => m.key)).filter (s.dirTake m.key kind seq valLen).needsPlace)
      → k ≠ m.key ∧ k ∈ distinctKeys (((m :: rest).map (fun m => m.key)).filter s.needsPlace) := fun k hk => by
    rw [mem_distinctKeys, List.mem_filter, State.needsPlace_take, Bool.and_eq_true, bne_iff_ne] at hk
    obtain ⟨hin, hneeds, hne⟩ := hk
    exact ⟨hne, mem_distinctKeys.2 (List.mem_filter.2 ⟨List.mem_cons_of_mem m.key hin, hneeds⟩)⟩
  rw [State.newPlaces, State.newPlaces]
  by_cases hn : s.needsPlace m.key = true
  · rw [if_pos hn, Nat.add_comm]
    refine length_le_of_nodup (List.nodup_cons.2 ⟨fun hk => (hmem m.key hk).1 rfl, nodup_distinctKeys _⟩) fun k hk => ?_
    rcases List.mem_cons.1 hk with rfl | hk
    · exact mem_distinctKeys.2 (List.mem_filter.2 ⟨List.mem_cons_self, hn⟩)
    · exact (hmem k hk).2
  · rw [if_neg hn, Nat.zero_add]
    exact length_le_of_nodup (nodup_distinctKeys _) fun k hk => (hmem k hk).2

/-- What the admission of a run's members does to the Directory and to the Write Queue. -/
theorem State.admitMembers_counts (gid : Nat) (tag : Byte) (ms : List Member) (seq : Nat) (s : State) (h : s.countsAgree) :
    let t := s.admitMembers gid tag ms seq
    t.countsAgree ∧ durableShare t.dir.entries = durableShare s.dir.entries
      ∧ t.queuedShare = s.queuedShare + (ms.map (fun m => m.recLen)).sum := by
  induction ms generalizing seq s with
  | nil => exact ⟨h, rfl, by simp [State.admitMembers]⟩
  | cons m rest ih =>
    have hstep := State.countsAgree_take (s := s)
      (q := { key := m.key, kind := m.kind, seq := seq, recLen := m.recLen, value := m.value, group := some (gid, rest.isEmpty),
              waiter := if rest.isEmpty then some tag else none, state := .waiting })
      (t := (s.dirTake m.key m.kind seq m.value.length).enqueue
        { key := m.key, kind := m.kind, seq := seq, recLen := m.recLen, value := m.value, group := some (gid, rest.isEmpty),
          waiter := if rest.isEmpty then some tag else none, state := .waiting })
      h (kind := m.kind) (seq := seq) (valLen := m.value.length) (by simp [State.enqueue]) (by simp [State.enqueue])
    obtain ⟨hcounts, hshare, hqueued⟩ := ih (seq + 1) _ hstep
    refine ⟨hcounts, hshare.trans ?_, hqueued.trans ?_⟩
    · rw [← State.share_take h.1 m.key m.kind seq m.value.length]
      simp [State.enqueue]
    · simp only [State.queuedShare, State.enqueue, State.startHoldTimer_frame, State.modQueue_fields, State.dirTake_frame,
        List.map_append, List.sum_append, List.map_cons, List.sum_cons, List.map_nil, List.sum_nil]
      omega

theorem State.admitMembers_places (gid : Nat) (tag : Byte) (ms : List Member) (seq : Nat) (s : State)
    (h : keysRise s.dir.entries) :
    keysRise (s.admitMembers gid tag ms seq).dir.entries
      ∧ (s.admitMembers gid tag ms seq).places ≤ s.places + s.newPlaces ms := by
  induction ms generalizing seq s with
  | nil => exact ⟨h, by simp [State.admitMembers]⟩
  | cons m rest ih =>
    let s1 := s.dirTake m.key m.kind seq m.value.length
    let s2 := s1.enqueue
      { key := m.key, kind := m.kind, seq := seq, recLen := m.recLen, value := m.value, group := some (gid, rest.isEmpty),
        waiter := if rest.isEmpty then some tag else none, state := .waiting }
    have hdir : s2.dir = s1.dir := by simp [s2, State.enqueue]
    have hrise : keysRise s2.dir.entries := by
      rw [hdir]; exact keysRise_put h _
    obtain ⟨hr, hp⟩ := ih (seq + 1) s2 hrise
    refine ⟨hr, Nat.le_trans hp ?_⟩
    have h1 : s2.places = s1.places := by simp only [State.places, hdir]
    have h2 : s2.newPlaces rest = s1.newPlaces rest := by
      have : s2.needsPlace = s1.needsPlace := by
        funext j; simp only [State.needsPlace, State.isReserved, State.entry, hdir]
      simp only [State.newPlaces, this]
    have h3 := State.places_take h m.key m.kind seq m.value.length
    have h4 := s.newPlaces_cons m rest m.kind seq m.value.length
    show s2.places + s2.newPlaces rest ≤ _
    rw [h1, h2]
    have h5 : s1.places ≤ s.places + (if s.needsPlace m.key then 1 else 0) := h3
    have h6 : (if s.needsPlace m.key then 1 else 0) + s1.newPlaces rest ≤ s.newPlaces (m :: rest) := h4
    show s1.places + s1.newPlaces rest ≤ _
    omega

theorem State.admitMembers_entries (gid : Nat) (tag : Byte) (ms : List Member) (seq : Nat) (s : State) :
    (s.admitMembers gid tag ms seq).wq.entries.length = s.wq.entries.length + ms.length
      ∧ (s.admitMembers gid tag ms seq).wq.charged = s.wq.charged
      ∧ (s.admitMembers gid tag ms seq).dir.admitted = s.dir.admitted := by
  induction ms generalizing seq s with
  | nil => simp [State.admitMembers]
  | cons m rest ih =>
    simp only [State.admitMembers]
    obtain ⟨h1, h2, h3⟩ := ih (seq + 1) ((s.dirTake m.key m.kind seq m.value.length).enqueue
      { key := m.key, kind := m.kind, seq := seq, recLen := m.recLen, value := m.value, group := some (gid, rest.isEmpty),
        waiter := if rest.isEmpty then some tag else none, state := .waiting })
    rw [h1, h2, h3]
    simp [State.enqueue, State.dirTake_eq]
    omega

/-- A timer that may run in HOLD while something is queued may run while more is queued. -/
theorem State.timersOk_append {s t : State} (h : s.timersOk) (hs : t.sup = s.sup) {qs : List QueueEntry}
    (hq : t.wq.entries = s.wq.entries ++ qs) : t.timersOk := by
  refine ⟨by rw [hs]; exact h.1, fun ht => ?_⟩
  rw [hs] at ht ⊢
  obtain ⟨hhold, hne⟩ := h.2 ht
  exact ⟨hhold, by simp [hq, hne]⟩

theorem State.admitMembers_timers (gid : Nat) (tag : Byte) (ms : List Member) (seq : Nat) (s : State) (h : s.timersOk) :
    (s.admitMembers gid tag ms seq).timersOk := by
  induction ms generalizing seq s with
  | nil => exact h
  | cons m rest ih =>
    simp only [State.admitMembers]
    refine ih (seq + 1) _ ((Keeps.startHoldTimer _).timers ?_)
    exact State.timersOk_append (s := s) h (by simp) (by simp; rfl)

/-- The device state block lets no write reach the queue while mount runs (R41). -/
theorem State.mount_none_of_gate {s : State} (h : s.headGate = none) (hq : s.mountQuiet) : s.mount = none := by
  cases hm : s.mount with
  | none => rfl
  | some m =>
    have := (hq m hm).1
    simp [State.headGate, this] at h

theorem State.mountQuiet_of_none {s : State} (h : s.mount = none) : s.mountQuiet := by
  intro m hm; rw [h] at hm; cases hm

/-- The staged bytes of an open group, if there is one. -/
def stagedBytes : Option OpenGroup → Nat
  | some g => g.bytes
  | none => 0

theorem State.stagedShare_eq (s : State) : s.stagedShare = stagedBytes s.grp.group := by
  cases hg : s.grp.group <;> rw [State.stagedShare, hg] <;> rfl

namespace Keeps

variable {s : State}

/-- Directory, Write Queue and Group Stage change together. -/
theorem of_stores {d : Directory} {q : WriteQueue} {g : GroupStage}
    (ht : s.timersOk → ({ s with dir := d, wq := q, grp := g } : State).timersOk)
    (hd : s.directoryOk → ({ s with dir := d, wq := q, grp := g } : State).directoryOk)
    (hq : s.queueOk → ({ s with dir := d, wq := q, grp := g } : State).queueOk)
    (ha : s.accountOk → ({ s with dir := d, wq := q, grp := g } : State).accountOk) :
    Keeps s { s with dir := d, wq := q, grp := g } :=
  ⟨⟨id, id, id, hd, hq, ha, id, rfl⟩, ht⟩

theorem leaveList (tag : Byte) (s : State) : Keeps s (s.leaveList tag) := of_wq_same rfl rfl

theorem takeSeqs (n : Nat) (s : State) : Keeps s (s.takeSeqs n) := of_wq_same rfl rfl

/-- A lone write is admitted where there is room for it (R42, R44). -/
theorem admitLone {s : State} {deletes : Bool} {w : WriteFields} (hgate : s.headGate = none)
    (hplace : s.needsPlace w.key = true → s.places < Config.maxEntries) (hroom : s.wq.entries.length < Config.maxQueue)
    (hfree : writeBytes deletes w ≤ s.stagingFree) (tag : Byte) : Keeps s (s.admitLone tag deletes w) := by
  let q : QueueEntry := {
    key := w.key, kind := writeKind deletes, seq := s.nextSeq, recLen := writeBytes deletes w
    value := writeValue deletes w, group := none, waiter := if w.durable then some tag else none, state := .waiting }
  let t := s.dirTake w.key (writeKind deletes) s.nextSeq (writeValue deletes w).length
  let u : State := { s with
    dir := { t.dir with admitted := s.dir.admitted + writeBytes deletes w }
    wq := { s.wq with entries := s.wq.entries ++ [q], charged := s.wq.charged + writeBytes deletes w,
                      seqCounter := some (s.nextSeq + 1) } }
  have hu : Keeps s u := by
    refine of_stores (fun hs => State.timersOk_append hs rfl rfl) (fun hs => ?_) (fun hs => ?_) (fun hs => ?_)
    · obtain ⟨hrise, hplaces, hmount⟩ := hs
      refine ⟨keysRise_put hrise _, ?_, hmount⟩
      have hp := State.places_take hrise w.key (writeKind deletes) s.nextSeq (writeValue deletes w).length
      show t.places ≤ _
      refine Nat.le_trans hp ?_
      split
      next h => have := hplace h; omega
      next => exact hplaces
    · obtain ⟨hlen, hcharged, hgroup⟩ := hs
      simp only [State.stagingFree] at hfree
      refine ⟨?_, ?_, hgroup⟩
      · simp only [List.length_append, List.length_singleton]; omega
      · show s.wq.charged + _ ≤ _; omega
    · rw [State.accountOk_iff] at hs ⊢
      obtain ⟨hrise, hqueued, hadmitted, hcharged, hgroup, hmount⟩ := hs
      have hcounts : u.countsAgree :=
        State.countsAgree_take (s := s) (q := q) ⟨hrise, hqueued⟩ (kind := writeKind deletes) (seq := s.nextSeq)
          (valLen := (writeValue deletes w).length) rfl rfl
      have hshare := State.share_take hrise w.key (writeKind deletes) s.nextSeq (writeValue deletes w).length
      have hsum : u.queuedShare = s.queuedShare + writeBytes deletes w := by simp [u, q, State.queuedShare]
      refine ⟨hcounts.1, hcounts.2, ?_, ?_, hgroup,
        State.mountQuiet_of_none (show s.mount = none from State.mount_none_of_gate hgate hmount)⟩
      · rw [hsum]
        show s.dir.admitted + writeBytes deletes w = durableShare t.dir.entries + _ + s.stagedShare
        rw [show durableShare t.dir.entries = durableShare s.dir.entries from hshare]
        omega
      · rw [hsum]
        show s.wq.charged + writeBytes deletes w = _ + s.stagedShare
        omega
  have hall : Keeps s ({ u with link := { u.link with notices := s.noticesAfter (s.dir.admitted + writeBytes deletes w) } } : State).startHoldTimer := by
    refine Keeps.trans ?_ (startHoldTimer _)
    exact hu.trans (of_link id)
  have hend : s.admitLone tag deletes w
      = if w.durable then State.waitFor tag .durable ({ u with link := { u.link with notices := s.noticesAfter (s.dir.admitted + writeBytes deletes w) } } : State).startHoldTimer
        else State.answer tag .ok (le 6 s.nextSeq) ({ u with link := { u.link with notices := s.noticesAfter (s.dir.admitted + writeBytes deletes w) } } : State).startHoldTimer := by
    simp only [State.admitLone, State.setAdmitted_eq]
    rfl
  rw [hend]
  split
  · exact hall.trans (waitFor _ _ _)
  · exact hall.trans (answer _ _ _ _)

theorem modQueue_same {f : WriteQueue → WriteQueue} (s : State) (he : (f s.wq).entries = s.wq.entries)
    (hc : (f s.wq).charged = s.wq.charged) : Keeps s (s.modQueue f) := of_wq_same he hc

/-- The open group changes and the charge and admitted bytes with it. -/
theorem of_group {g : Option OpenGroup} {n c k : Nat}
    (hq : s.queueOk → c ≤ Config.stagingBytes
      ∧ ∀ x, g = some x → x.members.length ≤ Config.maxMembers ∧ x.bytes ≤ Config.maxStaged)
    (ha : s.accountOk → n + s.stagedShare = s.dir.admitted + stagedBytes g
      ∧ c + s.stagedShare = s.wq.charged + stagedBytes g
      ∧ (∀ x, g = some x → x.bytes = (x.members.map (fun m => m.recLen)).sum)
      ∧ (g ≠ none → s.mount = none)) :
    Keeps s { s with dir := { s.dir with admitted := n }, wq := { s.wq with charged := c },
                     grp := { group := g, counter := k } } := by
  refine of_stores id id (fun hs => ⟨hs.1, hq hs⟩) (fun hs => ?_)
  obtain ⟨h1, h2, h3, hmount⟩ := ha hs
  rw [State.accountOk_iff] at hs ⊢
  obtain ⟨hrise, hqueued, hadmitted, hcharged, hgroup, hquiet⟩ := hs
  refine ⟨hrise, hqueued, ?_, ?_, h3, fun m hm => ?_⟩
  · show n = durableShare s.dir.entries + s.queuedShare + stagedBytes g
    omega
  · show c = s.queuedShare + stagedBytes g
    omega
  · have hnone : g = none := by
      refine Decidable.byContradiction fun hne => ?_
      rw [hmount hne] at hm
      cases hm
    obtain ⟨hstate, hformat, hentries, _, hrest⟩ := hquiet m hm
    exact ⟨hstate, hformat, hentries, hnone, hrest⟩

theorem discardGroup (s : State) : Keeps s s.discardGroup := by
  cases hg : s.grp.group with
  | none => rw [State.discardGroup_none hg]; exact refl s
  | some g =>
    rw [State.discardGroup_some hg]
    have hstaged : s.stagedShare = g.bytes := by rw [State.stagedShare_eq, hg]; rfl
    refine of_group (fun hs => ⟨Nat.le_trans (Nat.sub_le _ _) hs.2.1, by simp⟩) (fun hs => ?_)
    rw [State.accountOk_iff] at hs
    obtain ⟨_, _, hadmitted, hcharged, _⟩ := hs
    exact ⟨by simp only [stagedBytes]; omega, by simp only [stagedBytes]; omega, by simp, by simp⟩

/-- BEGIN opens an empty group (R62). -/
theorem openGroup {s : State} (h : s.grp.group = none) (hstate : s.dev.state ≠ .mounting) (id k : Nat) :
    Keeps s { s with grp := { group := some { id := id, members := [], bytes := 0 }, counter := k } } := by
  have hstaged : s.stagedShare = 0 := by rw [State.stagedShare_eq, h]; rfl
  refine of_group (n := s.dir.admitted) (c := s.wq.charged) (fun hs => ⟨hs.2.1, ?_⟩) (fun hs => ?_)
  · rintro x hx; cases hx; simp
  · refine ⟨by rw [hstaged]; rfl, by rw [hstaged]; rfl, ?_, fun _ => ?_⟩
    · rintro x hx; cases hx; rfl
    · cases hm : s.mount with
      | none => rfl
      | some m => exact absurd (((State.accountOk_iff s).1 hs).2.2.2.2.2 m hm).1 hstate

/-- A member is staged where the group and the Staging Buffer have room for it (R64, R66). -/
theorem stageMember {s : State} {g : OpenGroup} {deletes : Bool} {w : WriteFields} (hgate : s.headGate = none)
    (hg : s.grp.group = some g) (hmembers : g.members.length < Config.maxMembers)
    (hbytes : g.bytes + writeBytes deletes w ≤ Config.maxStaged) (hfree : writeBytes deletes w ≤ s.stagingFree) (tag : Byte) :
    Keeps s (s.stageMember tag deletes w g) := by
  have hstaged : s.stagedShare = g.bytes := by rw [State.stagedShare_eq, hg]; rfl
  simp only [State.stageMember, State.setAdmitted_eq]
  refine Keeps.trans ?_ (answer _ _ _ _)
  refine Keeps.trans (of_group (g := some { g with
      members := g.members ++ [{ key := w.key, kind := writeKind deletes, value := writeValue deletes w,
                                 recLen := writeBytes deletes w, ifSeq := w.ifSeq }]
      bytes := g.bytes + writeBytes deletes w })
    (n := s.dir.admitted + writeBytes deletes w) (c := s.wq.charged + writeBytes deletes w) (k := s.grp.counter)
    (fun hs => ?_) (fun hs => ?_)) (of_link id)
  · have := hs.2.1
    simp only [State.stagingFree] at hfree
    refine ⟨by omega, ?_⟩
    rintro x hx
    cases hx
    simp only [List.length_append, List.length_singleton]
    exact ⟨hmembers, hbytes⟩
  · rw [State.accountOk_iff] at hs
    obtain ⟨_, _, hadmitted, hcharged, hgroup, hmount⟩ := hs
    refine ⟨by simp only [stagedBytes]; omega, by simp only [stagedBytes]; omega, ?_, fun _ => State.mount_none_of_gate hgate hmount⟩
    rintro x hx
    cases hx
    simp [hgroup g hg]

/-- A COMMIT admits its group where the Directory and the Write Queue have room for it (R69, R70). -/
theorem admitGroup {s : State} {g : OpenGroup} (hgate : s.headGate = none) (hg : s.grp.group = some g)
    (hplaces : s.newPlaces g.members ≤ Config.maxEntries - s.places)
    (hroom : g.members.length ≤ Config.maxQueue - s.wq.entries.length) (tag : Byte) : Keeps s (s.admitGroup tag g) := by
  have hstaged : s.stagedShare = g.bytes := by rw [State.stagedShare_eq, hg]; rfl
  simp only [State.admitGroup]
  split
  next hempty =>
    refine Keeps.trans ?_ (answer _ _ _ _)
    refine of_group (n := s.dir.admitted) (c := s.wq.charged) (fun hs => ⟨hs.2.1, by simp⟩) (fun hs => ?_)
    rw [State.accountOk_iff] at hs
    obtain ⟨_, _, _, _, hgroup, _⟩ := hs
    have hzero : g.bytes = 0 := by rw [hgroup g hg, hempty]; rfl
    exact ⟨by rw [hstaged, hzero]; rfl, by rw [hstaged, hzero]; rfl, by simp, by simp⟩
  next =>
    refine Keeps.trans ?_ (waitFor _ _ _)
    let s1 : State := State.takeSeqs g.members.length { s with grp := { s.grp with group := none } }
    let t := s1.admitMembers g.id tag g.members s.nextSeq
    show Keeps s t
    have ht := s1.admitMembers_frame g.id tag g.members s.nextSeq
    obtain ⟨hlen, hcharge, hadm⟩ := s1.admitMembers_entries g.id tag g.members s.nextSeq
    have hgrp : t.grp = { s.grp with group := none } := by simp [t, s1]
    have hmnt : t.mount = s.mount := by simp [t, s1]
    refine ⟨⟨fun hs => ?_, fun hs => ?_, fun hs => ?_, fun hs => ?_, fun hs => ?_, fun hs => ?_, fun hs => ?_, by simp [t, s1]⟩,
      fun hs => State.admitMembers_timers _ _ _ _ _ hs⟩
    · simpa [State.arrayOk, t, s1] using hs
    · simpa [State.linkOk, t, s1] using hs
    · simpa [State.tableOk, t, s1] using hs
    · obtain ⟨hrise, hfull, hmount⟩ := hs
      obtain ⟨h1, h2⟩ := s1.admitMembers_places g.id tag g.members s.nextSeq hrise
      refine ⟨h1, Nat.le_trans h2 ?_, by rw [hmnt]; exact hmount⟩
      show s.places + s.newPlaces g.members ≤ _
      omega
    · obtain ⟨hqlen, hqcharge, _⟩ := hs
      refine ⟨?_, ?_, by rw [hgrp]; simp⟩
      · rw [hlen]
        show s.wq.entries.length + g.members.length ≤ _
        omega
      · rw [hcharge]; exact hqcharge
    · rw [State.accountOk_iff] at hs ⊢
      obtain ⟨hrise, hqueued, hadmitted, hcharged, hgroup, hmount⟩ := hs
      obtain ⟨hcounts, hshare, hsum⟩ := s1.admitMembers_counts g.id tag g.members s.nextSeq ⟨hrise, hqueued⟩
      have hq1 : s1.queuedShare = s.queuedShare := rfl
      have hz : t.stagedShare = 0 := by simp only [State.stagedShare, hgrp]
      rw [← hgroup g hg, hq1] at hsum
      refine ⟨hcounts.1, hcounts.2, ?_, ?_, by rw [hgrp]; simp,
        State.mountQuiet_of_none (hmnt.trans (State.mount_none_of_gate hgate hmount))⟩
      · rw [hz, hsum, hshare, hadm]
        show s.dir.admitted = durableShare s.dir.entries + _ + 0
        omega
      · rw [hz, hsum, hcharge]
        show s.wq.charged = _
        omega
    · simpa [State.openOk, State.sector, t, s1] using hs

theorem admitFence (tag : Byte) (s : State) : Keeps s (s.admitFence tag) := by
  have hnoted : Keeps s (s.modQueue (fun q => { q with failureNote := false, fenceBoundary := s.lastSeq })) := of_wq_same rfl rfl
  simp only [State.admitFence]
  split
  · exact hnoted.trans (answer _ _ _ _)
  · exact (hnoted.trans (modQueue_same _ rfl rfl)).trans (waitFor _ _ _)

/-! ## Consideration of the head (R40) -/

theorem refuse (tag : Byte) (st : Status) (fields : List Byte) (s : State) : Keeps s (s.refuse tag st fields).state :=
  (leaveList tag s).trans (answer _ _ _ _)

theorem refuseCommit (tag : Byte) (st : Status) (fields : List Byte) (s : State) : Keeps s (s.refuseCommit tag st fields).state :=
  ((leaveList tag s).trans (answer _ _ _ _)).trans (discardGroup _)

theorem considerLone {s : State} (hgate : s.headGate = none) (tag : Byte) (deletes : Bool) (w : WriteFields) :
    Keeps s (s.considerLone tag deletes w).state := by
  simp only [State.considerLone]
  split
  · exact refuse _ _ _ s
  split
  · exact refuse _ _ _ s
  split
  · exact refuse _ _ _ s
  split
  · exact refuse _ _ _ s
  next hplace =>
    split
    · exact refuse _ _ _ s
    split
    · exact waitFor _ _ s
    next hroom =>
      refine (leaveList tag s).trans (admitLone (s := s.leaveList tag) hgate (fun h => ?_) ?_ ?_ tag)
      · have h' : s.needsPlace w.key = true := h
        simp only [h', Bool.true_and, decide_eq_true_eq, Nat.not_le] at hplace
        exact hplace
      · show s.wq.entries.length < _; omega
      · show _ ≤ s.stagingFree; omega

theorem boundGroup_some {bound : Option Nat} {g : OpenGroup} (h : s.boundGroup bound = some g) : s.grp.group = some g := by
  simp only [State.boundGroup] at h
  split at h
  next x hx => split at h <;> simp_all
  next => cases h

theorem considerMember {s : State} (hgate : s.headGate = none) (tag : Byte) (deletes : Bool) (w : WriteFields)
    (bound : Option Nat) : Keeps s (s.considerMember tag deletes w bound).state := by
  simp only [State.considerMember]
  split
  · exact refuse _ _ _ s
  next g hg =>
    split
    · exact refuse _ _ _ s
    split
    · exact refuse _ _ _ s
    next hfull =>
      split
      · exact refuse _ _ _ s
      split
      · exact waitFor _ _ s
      next hfree =>
        refine (leaveList tag s).trans (stageMember (s := s.leaveList tag) hgate (boundGroup_some hg) ?_ ?_ ?_ tag)
        · omega
        · omega
        · show _ ≤ s.stagingFree; omega

theorem considerCommit {s : State} (hgate : s.headGate = none) (tag : Byte) (bound : Option Nat) :
    Keeps s (s.considerCommit tag bound).state := by
  simp only [State.considerCommit]
  split
  · exact refuse _ _ _ s
  next g hg =>
    split
    · exact refuseCommit _ _ _ s
    · exact refuseCommit _ _ _ s
    · split
      · exact refuseCommit _ _ _ s
      next hplaces =>
        split
        · exact waitFor _ _ s
        next hroom =>
          refine (leaveList tag s).trans (admitGroup (s := s.leaveList tag) hgate (boundGroup_some hg) ?_ ?_ tag)
          · show s.newPlaces g.members ≤ Config.maxEntries - s.places; omega
          · show _ ≤ Config.maxQueue - s.wq.entries.length; omega

theorem considerHead (sl : Slot) (s : State) : Keeps s (s.considerHead sl).state := by
  simp only [State.considerHead]
  split
  · split
    · exact refuse _ _ _ s
    next hgate =>
      split
      · exact considerMember hgate _ _ _ _
      · exact considerLone hgate _ _ _
  · split
    · exact refuse _ _ _ s
    next hgate =>
      split
      · exact considerMember hgate _ _ _ _
      · exact considerLone hgate _ _ _
  · split
    · simp only [State.refuseCommitGate]
      split
      · exact refuseCommit _ _ _ s
      · exact refuse _ _ _ s
    next hgate => exact considerCommit hgate _ _
  · exact (leaveList _ s).trans (admitFence _ _)
  · exact leaveList _ s

theorem considerUpTo (n : Nat) (s : State) : Keeps s (s.considerUpTo n) := by
  induction n generalizing s with
  | zero => exact refl s
  | succ n ih =>
    simp only [State.considerUpTo]
    split
    · exact refl s
    · split
      · exact (leaveList _ s).trans (ih _)
      next sl _ =>
        have hhead := considerHead sl s
        split
        next h => rw [h] at hhead; exact Keeps.trans hhead (ih _)
        next h => rw [h] at hhead; exact hhead

theorem considerAdmissions (s : State) : Keeps s s.considerAdmissions := by
  simp only [State.considerAdmissions]
  split
  · exact refl s
  · exact considerUpTo _ s

end Keeps
end Sys2Proof.Machine
end

section
/-! PROOFS. Entries that leave the Write Queue keep the laws: durable, or failed with the whole queue (R26 to R28, R48,
R49, R53 to R57). The hold timer's law holds again once the timer has been stopped for an empty queue (R157). -/

namespace Sys2Proof.Machine

namespace KeepsUntimed

variable {s : State}

/-- The first entry leaves the Write Queue: its key's queued count is one lower, its bytes leave the Staging Buffer,
and admitted bytes follow the durable share. -/
theorem of_leave {q : QueueEntry} {rest : List QueueEntry} (hs : s.wq.entries = q :: rest) {es : List Entry} {n : Nat}
    (hd : keysRise s.dir.entries → keysRise es ∧ es.length ≤ s.dir.entries.length)
    (ha : keysRise s.dir.entries → queuedIn s.dir.entries q.key = rest.countP (fun x => x.key == q.key) + 1 → durableShare s.dir.entries + q.recLen ≤ s.dir.admitted →
      (∀ k, queuedIn es k = if k = q.key then queuedIn s.dir.entries k - 1 else queuedIn s.dir.entries k)
        ∧ n + durableShare s.dir.entries + q.recLen = s.dir.admitted + durableShare es) :
    KeepsUntimed s { s with
      dir := { s.dir with entries := es, admitted := n }
      wq := { s.wq with entries := rest, charged := s.wq.charged - q.recLen } } := by
  refine ⟨id, id, id, fun h => ?_, fun h => ?_, fun h => ?_, id, rfl⟩
  · obtain ⟨hrise, hplaces, hmount⟩ := h
    obtain ⟨hrise', hlen⟩ := hd hrise
    simp only [State.places] at hplaces
    exact ⟨hrise', by simp only [State.places]; omega, hmount⟩
  · obtain ⟨hlen, hcharged, hgroup⟩ := h
    rw [hs, List.length_cons] at hlen
    exact ⟨by simp only; omega, Nat.le_trans (Nat.sub_le _ _) hcharged, hgroup⟩
  · rw [State.accountOk_iff] at h ⊢
    obtain ⟨hrise, hqueued, hadmitted, hcharged, hgroup, hmount⟩ := h
    have hsum : s.queuedShare = q.recLen + (rest.map (fun q => q.recLen)).sum := by simp [State.queuedShare, hs]
    have hpos : queuedIn s.dir.entries q.key = rest.countP (fun x => x.key == q.key) + 1 := by
      rw [hqueued, hs, List.countP_cons, beq_self_eq_true, if_pos rfl]
    obtain ⟨hcounts, hn⟩ := ha hrise hpos (by omega)
    refine ⟨(hd hrise).1, fun k => ?_, ?_, ?_, hgroup, fun m hm => ?_⟩
    · show queuedIn es k = rest.countP (fun x => x.key == k)
      have := hqueued k
      rw [hs, List.countP_cons] at this
      rw [hcounts]
      split
      next h => subst h; simp only [beq_self_eq_true, if_true] at this; omega
      next h => simpa [show (q.key == k) = false from beq_eq_false_iff_ne.2 (Ne.symm h)] using this
    · show n = durableShare es + (rest.map (fun q => q.recLen)).sum + s.stagedShare
      omega
    · show s.wq.charged - q.recLen = (rest.map (fun q => q.recLen)).sum + s.stagedShare
      omega
    · have := (hmount m hm).2.2.1
      rw [hs] at this
      cases this

/-- An entry of the leaving write's key is put back with one write fewer queued. -/
theorem of_leave_put {q : QueueEntry} {rest : List QueueEntry} (hs : s.wq.entries = q :: rest) {e e' : Entry}
    (he : s.entry q.key = some e) (hk : e'.key = e.key) (hq : e'.queued = e.queued - 1) {n : Nat}
    (hn : durableLen e.durable + q.recLen ≤ s.dir.admitted →
      n + durableLen e.durable + q.recLen = s.dir.admitted + durableLen e'.durable) :
    KeepsUntimed s { s with
      dir := { s.dir with entries := putEntry e' s.dir.entries, admitted := n }
      wq := { s.wq with entries := rest, charged := s.wq.charged - q.recLen } } := by
  have hkey : e'.key = q.key := hk.trans (State.entry_key he)
  have hf : findEntry e'.key s.dir.entries = some e := hkey ▸ he
  refine of_leave hs (fun hrise => ⟨keysRise_put hrise _, Nat.le_of_eq (length_put_some hrise hf)⟩) (fun hrise _ hle => ⟨fun k => ?_, ?_⟩)
  · rw [queuedIn_put, hkey]
    split
    next h => rw [h, queuedIn_of_find (he : findEntry q.key s.dir.entries = some e), hq]
    next => rfl
  · have hshare := durableShare_put_some hrise hf
    have := durableLen_le_share (findEntry_mem hf)
    have := hn (by omega)
    omega

theorem frontDurable (sector offset : Nat) (s : State) : KeepsUntimed s (s.frontDurable sector offset) := by
  unfold State.frontDurable
  split
  · exact (Keeps.refl s).toKeepsUntimed
  next q rest hs =>
    let s1 := s.modQueue (fun q => { q with entries := rest })
    cases he : s.entry q.key with
    | none =>
      have hentry : s1.entry q.key = none := he
      have heq : (s1.makeDurable q.key
          { sector := sector, offset := offset, seq := q.seq, kind := q.kind, recLen := q.recLen, valLen := q.value.length }).release
            q.recLen = { s with
              dir := { s.dir with entries := s.dir.entries, admitted := s.dir.admitted }
              wq := { s.wq with entries := rest, charged := s.wq.charged - q.recLen } } := by
        simp only [State.makeDurable, hentry]; rfl
      rw [heq]
      refine of_leave hs (fun h => ⟨h, Nat.le_refl _⟩) (fun _ hpos _ => ?_)
      rw [queuedIn_of_none he] at hpos
      omega
    | some e =>
      let d : DurablePart :=
        { sector := sector, offset := offset, seq := q.seq, kind := q.kind, recLen := q.recLen, valLen := q.value.length }
      let t : State := { s with
        dir := { s.dir with
          entries := putEntry { e with durable := some d, queued := e.queued - 1 } s.dir.entries
          admitted := s.dir.admitted - durableLen e.durable }
        wq := { s.wq with entries := rest, charged := s.wq.charged - q.recLen } }
      have hentry : s1.entry q.key = some e := he
      have hleave : KeepsUntimed s t := by
        refine of_leave_put (e' := { e with durable := some d, queued := e.queued - 1 }) hs he rfl rfl (fun hle => ?_)
        show _ = s.dir.admitted + q.recLen
        omega
      have heq : (s1.makeDurable q.key d).release q.recLen = (t.retireDurable e.durable).deadToLive d.sector d.recLen := by
        simp only [State.makeDurable, hentry]
        rw [State.setAdmitted_eq, State.noticesAfter_le (by simp)]
        cases hdurable : e.durable <;> simp only [t, hdurable] <;> rfl
      show KeepsUntimed s ((s1.makeDurable q.key d).release q.recLen)
      rw [heq]
      exact hleave.trans ((Keeps.retireDurable _ _).trans (Keeps.deadToLive _ _ _)).toKeepsUntimed

theorem runDurable (sector : Nat) (places : List Nat) (s : State) : KeepsUntimed s (s.runDurable sector places) := by
  induction places generalizing s with
  | nil => exact (Keeps.refl s).toKeepsUntimed
  | cons o rest ih => exact (frontDurable sector o s).trans (ih _)

/-- The first entry fails: it leaves the queue, and its key reverts (R28, R55). -/
theorem frontFails {q : QueueEntry} {rest : List QueueEntry} (hs : s.wq.entries = q :: rest) :
    KeepsUntimed s (((s.modQueue (fun q => { q with entries := rest })).revertKey q.key q.recLen rest).release q.recLen) := by
  let s1 := s.modQueue (fun q => { q with entries := rest })
  show KeepsUntimed s ((s1.revertKey q.key q.recLen rest).release q.recLen)
  cases he : s.entry q.key with
  | none =>
    have hentry : s1.entry q.key = none := he
    have heq : (s1.revertKey q.key q.recLen rest).release q.recLen = { s with
            dir := { s.dir with entries := s.dir.entries, admitted := s.dir.admitted }
            wq := { s.wq with entries := rest, charged := s.wq.charged - q.recLen } } := by
      simp only [State.revertKey, hentry]; rfl
    rw [heq]
    refine of_leave hs (fun h => ⟨h, Nat.le_refl _⟩) (fun _ hpos _ => ?_)
    rw [queuedIn_of_none he] at hpos
    omega
  | some e =>
    have hentry : s1.entry q.key = some e := he
    have hn : durableLen e.durable + q.recLen ≤ s.dir.admitted →
        s.dir.admitted - q.recLen + durableLen e.durable + q.recLen = s.dir.admitted + durableLen e.durable := by
      intro; omega
    rw [State.revertKey, hentry]
    simp only [State.setAdmitted_eq]
    rw [State.noticesAfter_le (by exact Nat.sub_le _ _)]
    split
    next x hx =>
      exact of_leave_put (e' := ({ e with queued := e.queued - 1 } : Entry).viewFromWrite x.kind x.seq x.value.length)
        hs he rfl rfl hn
    next hlast =>
      split
      next hgone =>
        refine of_leave (s := s) hs (fun hrise => ⟨keysRise_drop hrise _, List.length_filter_le _ _⟩) (fun hrise hcount hle => ?_)
        have hshare : durableShare (dropEntry q.key s.dir.entries) + durableLen e.durable = durableShare s.dir.entries :=
          durableShare_drop_some hrise he
        rw [Option.isNone_iff_eq_none.1 hgone.1] at hshare
        have hzero : rest.countP (fun x => x.key == q.key) = 0 := by
          rw [List.getLast?_eq_none_iff, List.filter_eq_nil_iff] at hlast
          exact List.countP_eq_zero.2 hlast
        refine ⟨fun k => ?_, ?_⟩
        · rw [queuedIn_drop]
          split
          next h => rw [h]; omega
          next => rfl
        · have : durableLen none = 0 := rfl
          show s.dir.admitted - q.recLen + _ + _ = s.dir.admitted + durableShare (dropEntry q.key s.dir.entries)
          omega
      next =>
        obtain ⟨hkey, hqueued, hdurable⟩ := Keeps.viewFromDurable_fields { e with queued := e.queued - 1 }
        exact of_leave_put hs he hkey hqueued (by rw [hdurable]; exact hn)

/-- Every entry fails, head first (R55). -/
theorem failEntries (st : Status) {es : List QueueEntry} (hs : s.wq.entries = es) :
    KeepsUntimed s (s.failEntries st es) ∧ (s.failEntries st es).wq.entries = [] := by
  induction es generalizing s with
  | nil => exact ⟨(Keeps.refl s).toKeepsUntimed, hs⟩
  | cons e rest ih =>
    let s1 := ((s.modQueue (fun q => { q with entries := rest })).revertKey e.key e.recLen rest).release e.recLen
    have hfront : KeepsUntimed s s1 := frontFails hs
    have hleft : s1.wq.entries = rest := by simp [s1, State.release]
    rw [State.failEntries]
    split
    next tag _ =>
      obtain ⟨hkeeps, hnil⟩ := ih (s := s1.answer tag st []) (by simpa using hleft)
      exact ⟨(hfront.trans (Keeps.answer tag st [] s1).toKeepsUntimed).trans hkeeps, hnil⟩
    next =>
      obtain ⟨hkeeps, hnil⟩ := ih (s := s1) hleft
      exact ⟨hfront.trans hkeeps, hnil⟩

end KeepsUntimed

namespace Keeps

/-- The Write Queue has lost entries, and the hold timer is stopped if it is empty (R157). -/
theorem of_stopped {s t : State} (h : KeepsUntimed s t) (hs : t.sup = s.sup) : Keeps s t.stopHoldTimer := by
  refine ⟨h.trans (stopHoldTimer t).toKeepsUntimed, fun ht => ?_⟩
  simp only [State.stopHoldTimer]
  split
  · exact ⟨by rw [hs]; exact ht.1, by simp⟩
  next hne => exact ⟨by rw [hs]; exact ht.1, fun hrun => ⟨by rw [hs] at hrun ⊢; exact (ht.2 hrun).1, hne⟩⟩

theorem answerFences (st : FenceWaiter → Status) (fs : List FenceWaiter) (s : State) : Keeps s (s.answerFences st fs) := by
  induction fs generalizing s with
  | nil => exact refl s
  | cons f rest ih => exact (answer _ _ _ s).trans (ih _)

theorem completeFences (s : State) : Keeps s s.completeFences :=
  Keeps.trans (modQueue_same _ rfl rfl) (answerFences _ _ _)

theorem durableReply (e : QueueEntry) (first count : Nat) (s : State) : Keeps s (s.durableReply e first count) := by
  simp only [State.durableReply]
  split
  · split
    · exact answer _ _ _ s
    · exact answer _ _ _ s
  · exact refl s

theorem failQueue (st : Status) (s : State) : Keeps s (s.failQueue st) := by
  refine of_stopped ?_ (by simp)
  refine KeepsUntimed.trans ?_ (answerFences _ _ _).toKeepsUntimed
  refine (KeepsUntimed.failEntries st rfl).1.trans ?_
  exact (modQueue_same _ rfl rfl).toKeepsUntimed

theorem offerHost (s : State) : Keeps s s.offerHost := by
  simp only [State.offerHost]
  split
  · split
    · exact refl s
    · exact modWriter (f := fun l => { l with hostLane := some _ }) s rfl
  · exact refl s

end Keeps
end Sys2Proof.Machine
end

section
/-! PROOFS. The device state, the Reclaim Engine and the Log Writer keep the laws (R91 to R107, R118 to R126, R137). -/

namespace Sys2Proof.Machine

namespace Keeps

variable {s : State}

/-! ## Device state and admission limit (R37, R137) -/

/-- The device state may change to one that is not MOUNTING, once no mount is in progress. -/
theorem setDevice {s : State} (h : s.mount = none) (d : DeviceState) : Keeps s (s.setDevice d) := by
  simp only [State.setDevice]
  split
  · exact refl s
  · refine Keeps.trans ?_ (mark _ _)
    refine ⟨⟨id, id, id, id, id, fun hs => ?_, id, rfl⟩, id⟩
    rw [State.accountOk_iff] at hs ⊢
    obtain ⟨hrise, hqueued, hadmitted, hcharged, hgroup, hmount⟩ := hs
    exact ⟨hrise, hqueued, hadmitted, hcharged, hgroup, State.mountQuiet_of_none h⟩

/-- From a state that is not MOUNTING the device state may change. -/
theorem setDevice_of_ne {s : State} (h : s.dev.state ≠ .mounting) (d : DeviceState) : Keeps s (s.setDevice d) := by
  simp only [State.setDevice]
  split
  · exact refl s
  · exact (of_dev (s := s) (fun hs => absurd hs h)).trans (mark _ _)

theorem toReadOnly (s : State) : Keeps s s.toReadOnly := by
  simp only [State.toReadOnly]
  split
  next h => exact setDevice_of_ne (by simp [h]) _
  next h => exact setDevice_of_ne (by simp [h]) _
  all_goals exact refl s

theorem hostFaultState (s : State) : Keeps s s.hostFaultState := by
  simp only [State.hostFaultState]
  split
  next h => exact setDevice_of_ne (by simp [h]) _
  all_goals exact refl s

theorem crossMark (before after : Bool) (s : State) : Keeps s (s.crossMark before after) := by
  simp only [State.crossMark]
  split
  · exact mark _ s
  · exact refl s

theorem evalLimit (s : State) : Keeps s s.evalLimit := by
  simp only [State.evalLimit]
  split
  · exact ((setLimit _ s).trans (crossMark _ _ _)).trans (toReadOnly _)
  · exact (setLimit _ s).trans (crossMark _ _ _)

/-! ## The Reclaim Engine (R118 to R126) -/

theorem modArray (f : ArrayCtl → ArrayCtl) (s : State) : Keeps s (s.modArray f) := of_arr _

theorem judgeLatch (s : State) : Keeps s s.judgeLatch := by
  simp only [State.judgeLatch]
  split
  · exact modManager s rfl id
  · exact refl s

theorem evalLatch (s : State) : Keeps s s.evalLatch := by
  simp only [State.evalLatch]
  split
  · exact refl s
  · exact judgeLatch s

theorem walkAsks (victim offset words : Nat) (s : State) : Keeps s (s.walkAsks victim offset words) := modArray _ s

theorem walkAt (w : Walk) (offset : Nat) (s : State) : Keeps s (s.walkAt w offset) :=
  Keeps.trans (modManager s rfl id) (walkAsks _ _ _ _)

theorem startWalk (victim : Nat) (s : State) : Keeps s (s.startWalk victim) := by
  simp only [State.startWalk]
  refine Keeps.trans ?_ (walkAt _ _ _)
  exact Keeps.trans (modSector (by simp) victim s) (modManager _ rfl id)

theorem chooseVictim (s : State) : Keeps s s.chooseVictim := by
  simp only [State.chooseVictim]
  split
  · split
    · exact startWalk _ s
    · exact refl s
  · exact refl s

theorem drain (w : Walk) (s : State) : Keeps s (s.drain w) :=
  Keeps.trans (modSector (by simp) w.victim s) (modManager _ rfl id)

theorem sweepFrom (w : Walk) (bound : Nat) (s : State) : Keeps s (s.sweepFrom w bound) := by
  simp only [State.sweepFrom]
  split
  · exact Keeps.trans (modManager s rfl id) (walkAsks _ _ _ _)
  · exact drain w s

theorem walkOn (w : Walk) (next : Nat) (s : State) : Keeps s (s.walkOn w next) := by
  simp only [State.walkOn]
  split
  · exact sweepFrom w _ s
  split
  · exact drain w s
  · exact walkAt w next s

theorem handCopy (w : Walk) (r : Record) (next : Nat) (s : State) : Keeps s (s.handCopy w r next) :=
  Keeps.trans (modManager s rfl id) (modWriter _ rfl)

theorem decideValid (w : Walk) (r : Record) (s : State) : Keeps s (s.decideValid w r) := by
  simp only [State.decideValid]
  split
  · split
    · exact (passRecord _ _ s).trans (handCopy _ _ _ _)
    · exact (passRecord _ _ s).trans (walkOn _ _ _)
  · exact walkOn _ _ s

theorem decideInvalid (w : Walk) (s : State) : Keeps s (s.decideInvalid w) := by
  simp only [State.decideInvalid]
  split
  next e he =>
    split
    next d hd => exact (markLost (List.mem_of_find?_eq_some he) hd).trans (handCopy _ _ _ _)
    next => exact refl s
  next => exact sweepFrom _ _ s

theorem decideSwept (w : Walk) (words : List RawWord) (s : State) : Keeps s (s.decideSwept w words) := by
  simp only [State.decideSwept]
  split
  · split
    · exact decideValid _ _ s
    · exact decideInvalid _ s
  · exact decideInvalid _ s
  · exact (passRecord _ _ s).trans (walkOn _ _ _)
  · exact walkOn _ _ s

theorem walkRead (words : List RawWord) (s : State) : Keeps s (s.walkRead words) := by
  simp only [State.walkRead]
  split
  · exact refl s
  next w _ =>
    split
    · split
      · exact drain w s
      · split
        · exact Keeps.trans (modManager s rfl id) (walkAsks _ _ _ _)
        · exact decideInvalid w s
    · split
      · exact decideValid w _ s
      · exact decideInvalid w s
    · exact decideSwept w words s
    · exact refl s

theorem copyDone (s : State) : Keeps s s.copyDone := by
  simp only [State.copyDone]
  split
  · split
    · exact walkOn _ _ s
    all_goals exact refl s
  · exact refl s

theorem dropRelocation (s : State) : Keeps s s.dropRelocation := by
  have hdropped : Keeps s ((s.modWriter (fun l => { l with relocLane := none, relocFailures := 0 })).modManager
      (fun m => { m with engine := .abandoned, walk := none, relocStall := false, tidy := none })) :=
    Keeps.trans (modWriter s rfl) (modManager _ rfl id)
  simp only [State.dropRelocation]
  refine Keeps.trans ?_ (toReadOnly _)
  split
  · exact hdropped.trans (answer _ _ _ _)
  · exact hdropped

theorem finishTidy (s : State) : Keeps s s.finishTidy := by
  simp only [State.finishTidy]
  split
  · split
    · exact Keeps.trans (modManager s rfl id) (answer _ _ _ _)
    · exact refl s
  · exact refl s

/-! ## Records begun and sectors opened (R92 to R99) -/

theorem closeSector (n : Nat) (fault : Bool) (b : Nat) (s : State) : Keeps s (s.closeSector n fault b) :=
  modSector (by simp) n s

/-- An entry of the Write Queue changes in nothing that the accounts read. -/
theorem modEntryAt {f : QueueEntry → QueueEntry} (h : ∀ q, (f q).key = q.key ∧ (f q).recLen = q.recLen) (i : Nat) (s : State) :
    Keeps s (s.modEntryAt i f) := by
  have hmap : ∀ {α : Type} (g : QueueEntry → α), (∀ q, g (f q) = g q) →
      (s.wq.entries.modify i f).map g = s.wq.entries.map g := by
    intro α g hg
    apply List.ext_getElem?
    intro k
    simp only [List.getElem?_map, List.getElem?_modify]
    cases s.wq.entries[k]? with
    | none => simp
    | some q => simp only [Option.map_some]; split <;> simp [hg]
  refine of_wq (fun hs => ⟨hs.1, fun ht => ⟨(hs.2 ht).1, ?_⟩⟩) (fun hs => ?_) (fun hs => ?_)
  · have := (hs.2 ht).2
    rw [← List.length_pos_iff] at this ⊢
    simpa using this
  · exact ⟨by simpa using hs.1, hs.2⟩
  · rw [State.accountOk_iff] at hs ⊢
    obtain ⟨hrise, hqueued, hadmitted, hcharged, hgroup, hmount⟩ := hs
    have hsum := hmap (fun q => q.recLen) (fun q => (h q).2)
    have hcount : ∀ k, (s.wq.entries.modify i f).countP (fun q => q.key == k) = s.wq.entries.countP (fun q => q.key == k) := by
      intro k
      have := congrArg (List.countP (fun x => x == k)) (hmap (fun q => q.key) (fun q => (h q).1))
      simpa only [List.countP_map, Function.comp_def] using this
    refine ⟨hrise, fun k => (hqueued k).trans (hcount k).symm, ?_, ?_, hgroup, fun m hm => ?_⟩
    · simpa only [State.queuedShare, hsum, State.stagedShare] using hadmitted
    · simpa only [State.queuedShare, hsum, State.stagedShare] using hcharged
    · obtain ⟨hstate, hformat, hentries, hrest⟩ := hmount m hm
      exact ⟨hstate, hformat, by simp [hentries], hrest⟩

theorem beginHost (i : Nat) (s : State) : Keeps s (s.beginHost i) := by
  simp only [State.beginHost]
  split
  · refine Keeps.trans ?_ (modWriter _ rfl)
    refine Keeps.trans (copyBegun _ s) (modEntryAt (fun q => ?_) i _)
    exact ⟨rfl, rfl⟩
  · exact refl s

theorem beginRelocation (s : State) : Keeps s s.beginRelocation := by
  simp only [State.beginRelocation]
  split
  · exact Keeps.trans (copyBegun _ s) (modWriter _ rfl)
  · exact refl s

theorem beginLane (l : Lane) (s : State) : Keeps s (s.beginLane l) := by
  cases l
  · exact beginHost 0 s
  · exact beginRelocation s

/-- A sector is opened while no other is: it is the Log Writer's (R92). -/
theorem openFor {s : State} (h : s.lw.openAt = none) (l : Lane) : Keeps s (s.openFor l) := by
  simp only [State.openFor]
  split
  next n _ =>
    refine Keeps.trans ?_ (modArray _ _)
    refine of_writer (fun hs => ?_) id
    refine ⟨fun k hk ho => ⟨_, rfl, ?_⟩, hs.2⟩
    refine Decidable.byContradiction fun hne => ?_
    have hold : (s.sector k).state = .opened := by
      by_cases hn : n < s.sm.table.length
      · simp only [State.sector, State.modSector_fields, getD_modify _ _ _ _ hn] at ho
        rw [if_neg (fun hk => hne hk.symm)] at ho
        exact ho
      · simp only [State.sector, State.modSector_fields, modify_of_length_le _ _ (Nat.not_lt.1 hn)] at ho
        exact ho
    obtain ⟨o, ho, _⟩ := hs.1 k (by simpa using hk) hold
    rw [h] at ho
    cases ho
  next => exact refl s

/-- Once the open sector is closed no sector is OPEN, whatever the Log Writer holds (R93, R101, R106). -/
theorem closeOpen {s : State} {o : OpenSector} (h : s.lw.openAt = some o) {f : LogWriter → LogWriter}
    (fault : Bool) (b : Nat) : Keeps s ((s.closeSector o.sector fault b).modWriter f) := by
  refine of_writer (m := (s.closeSector o.sector fault b).sm) (fun hs => ⟨fun k hk ho => ?_, hs.2⟩) id
  exfalso
  simp only [State.sector, State.closeSector, State.modSector_fields] at hk ho
  rw [List.length_modify] at hk
  have hlt : o.sector < s.sm.table.length ∨ s.sm.table.length ≤ o.sector := Nat.lt_or_ge _ _
  rcases hlt with hlt | hge
  · rw [getD_modify _ _ _ _ hlt] at ho
    split at ho
    next => cases ho
    next hne =>
      obtain ⟨o', ho', hsec⟩ := hs.1 k hk ho
      rw [h] at ho'
      cases ho'
      exact hne hsec.symm
  · rw [modify_of_length_le _ _ hge] at ho
    obtain ⟨o', ho', hsec⟩ := hs.1 k hk ho
    rw [h] at ho'
    cases ho'
    omega

theorem closeForGrant (s : State) : Keeps s s.closeForGrant ∧ s.closeForGrant.lw.openAt = none := by
  simp only [State.closeForGrant]
  split
  next o ho => exact ⟨closeOpen ho false 0, rfl⟩
  next ho => exact ⟨refl s, ho⟩

theorem clearStall (l : Lane) (s : State) : Keeps s (s.clearStall l) := by
  cases l
  · exact modManager (f := fun m => { m with hostStall := false }) s rfl id
  · exact modManager (f := fun m => { m with relocStall := false }) s rfl id

theorem grant (l : Lane) (s : State) : Keeps s (s.grant l) := by
  simp only [State.grant]
  split
  · split
    · exact (clearStall l s).trans (beginLane l _)
    · obtain ⟨hclose, hnone⟩ := closeForGrant (s.clearStall l)
      exact ((clearStall l s).trans hclose).trans (openFor hnone l)
  · exact clearStall l s

theorem findStalls (s : State) : Keeps s s.findStalls := modManager s rfl id

theorem arbitrate (s : State) : Keeps s s.arbitrate := by
  simp only [State.arbitrate]
  split
  · split
    · exact (findStalls s).trans (grant _ _)
    · exact findStalls s
  · exact findStalls s

theorem beginNext (s : State) : Keeps s s.beginNext := by
  simp only [State.beginNext]
  split
  · split
    · exact modWriter s rfl
    · exact beginLane _ s
  · exact beginLane _ s
  · split
    · split
      · exact refl s
      · exact beginHost _ s
    · exact refl s
  all_goals exact refl s

theorem giveWord (s : State) : Keeps s s.giveWord := by
  simp only [State.giveWord]
  split
  · split
    · split
      · exact modArray _ s
      · exact refl s
    · exact refl s
  · exact refl s

theorem advanceWriter (s : State) : Keeps s s.advanceWriter := by
  simp only [State.advanceWriter]
  split
  · exact refl s
  · exact (beginNext s).trans (giveWord _)

/-! ## The lanes emptied (R94, R103, R106) -/

theorem emptyHost (s : State) : Keeps s s.emptyHost := Keeps.trans (modWriter s rfl) (clearStall _ _)

theorem freeOpening (s : State) : Keeps s s.freeOpening := by
  simp only [State.freeOpening]
  split
  · exact modWriter s rfl
  all_goals exact refl s

theorem hostMediaFault (s : State) : Keeps s s.hostMediaFault := by
  simp only [State.hostMediaFault]
  refine Keeps.trans ?_ (hostFaultState _)
  exact ((emptyHost s).trans (failQueue _ _)).trans (modQueue_same _ rfl rfl)

theorem dropWord (s : State) : Keeps s s.dropWord := by
  simp only [State.dropWord]
  split
  · exact modArray _ s
  · exact Keeps.trans (modArray _ s) (modWriter _ rfl)
  · exact Keeps.trans (modArray _ s) (modWriter _ rfl)

theorem abandonHost (s : State) : Keeps s s.abandonHost := by
  have hclosed : Keeps s (match s.lw.openAt with
    | some o =>
      if s.hostHasWords then
        (s.closeSector o.sector false s.begunBytes).modWriter (fun w => { w with openAt := none })
      else s
    | none => s) := by
    split
    next o ho =>
      split
      · exact closeOpen ho _ _
      · exact refl s
    next => exact refl s
  simp only [State.abandonHost]
  refine Keeps.trans ?_ (emptyHost _)
  split
  · exact (hclosed.trans (dropWord _)).trans (modWriter _ rfl)
  · exact freeOpening s
  · exact refl s
  · exact refl s

/-! ## A record completes (R48, R49, R99) -/

/-- The append point moves inside the open sector. -/
theorem recordPlaced {s : State} {o : OpenSector} (h : s.lw.openAt = some o) (b : Nat) :
    Keeps s (s.recordPlaced o.sector o.offset b) := by
  simp only [State.recordPlaced]
  refine Keeps.trans (Keeps.trans (modWriter s ?_) (modSector (by simp) _ _)) (addDead _ _ _)
  simp [h]

theorem memberComplete {s : State} {o : OpenSector} (h : s.lw.openAt = some o) (i : Nat) (e : QueueEntry) :
    Keeps s (s.memberComplete i e o.sector o.offset) :=
  (recordPlaced h _).trans (modEntryAt (f := fun q => { q with state := .programmed }) (fun _ => ⟨rfl, rfl⟩) i _)

theorem loneComplete {s : State} {o : OpenSector} (h : s.lw.openAt = some o) (e : QueueEntry) :
    Keeps s (s.loneComplete e o.sector o.offset) := by
  simp only [State.loneComplete]
  refine of_stopped ?_ (by simp)
  refine KeepsUntimed.trans ?_ (completeFences _).toKeepsUntimed
  refine KeepsUntimed.trans ?_ (durableReply _ _ _ _).toKeepsUntimed
  refine KeepsUntimed.trans ?_ (KeepsUntimed.frontDurable _ _ _)
  exact ((recordPlaced h _).trans (modWriter _ rfl)).toKeepsUntimed

theorem runComplete {s : State} {o : OpenSector} (h : s.lw.openAt = some o) (e : QueueEntry) :
    Keeps s (s.runComplete e o.sector o.offset) := by
  simp only [State.runComplete]
  refine of_stopped ?_ (by simp)
  refine KeepsUntimed.trans ?_ (completeFences _).toKeepsUntimed
  refine KeepsUntimed.trans ?_ (durableReply _ _ _ _).toKeepsUntimed
  refine KeepsUntimed.trans ?_ (KeepsUntimed.runDurable _ _ _)
  exact ((recordPlaced h _).trans (modWriter _ rfl)).toKeepsUntimed

theorem relocationComplete {s : State} {o : OpenSector} (h : s.lw.openAt = some o) (r : RelocRecord) :
    Keeps s (s.relocationComplete r o.sector o.offset) := by
  simp only [State.relocationComplete]
  refine Keeps.trans ?_ (copyDone _)
  refine Keeps.trans ?_ (copyComplete _ _ _ _)
  exact (recordPlaced h _).trans (modWriter _ rfl)

theorem recordComplete (s : State) : Keeps s s.recordComplete := by
  simp only [State.recordComplete]
  split
  next c o _ ho =>
    split
    · split
      · split
        · exact loneComplete ho _
        · exact runComplete ho _
        · exact memberComplete ho _ _
      · exact refl s
    · split
      · exact relocationComplete ho _
      · exact refl s
    · exact refl s
    · exact refl s
  next => exact refl s

/-! ## Program failure (R101 to R104) -/

theorem laneFailed (l : Lane) (s : State) : Keeps s (s.laneFailed l) := by
  cases l
  · simp only [State.laneFailed]
    split
    · exact hostMediaFault s
    · exact modWriter s rfl
  · simp only [State.laneFailed]
    split
    · exact dropRelocation s
    · exact modWriter s rfl

theorem closeFailed (s : State) : Keeps s s.closeFailed := by
  simp only [State.closeFailed]
  split
  next o ho => exact closeOpen ho true _
  next ho => exact modWriter s (by simp [ho])

theorem programFailed (s : State) : Keeps s s.programFailed := by
  simp only [State.programFailed]
  split
  · exact (closeFailed s).trans (laneFailed _ _)
  · exact closeFailed s

theorem wordEnded (w : WordReq) (success : Bool) (s : State) : Keeps s (s.wordEnded w success) := by
  simp only [State.wordEnded]
  split
  · exact modWriter s rfl
  split
  · split
    · split
      · exact modWriter s rfl
      · exact modWriter s rfl
      all_goals exact refl s
    · split
      · split
        · exact Keeps.trans (modWriter s rfl) (recordComplete _)
        · exact modWriter s rfl
      · exact refl s
    · split
      · split
        · exact Keeps.trans (modWriter s rfl) (recordComplete _)
        · exact modWriter s rfl
      · exact refl s
    · split
      · split
        · exact Keeps.trans (modWriter s rfl) (recordComplete _)
        · exact modWriter s rfl
      · exact refl s
    · exact refl s
  · exact programFailed s

end Keeps
end Sys2Proof.Machine
end

section
/-! PROOFS. The Erase Batch, FORMAT, and the Mount Engine keep the laws (R12 to R16, R35, R110, R127 to R131, R139 to
R147). -/

namespace Sys2Proof.Machine

namespace Keeps

variable {s : State}

/-! ## The Erase Batch (R127, R128) -/

theorem modBatch (f : EraseBatch → EraseBatch) (s : State) : Keeps s (s.modBatch f) :=
  modManager (f := fun m => { m with batch := f m.batch }) s rfl id

theorem joinUpTo (n : Nat) (s : State) : Keeps s (s.joinUpTo n) := by
  induction n generalizing s with
  | zero => exact refl s
  | succ n ih =>
    simp only [State.joinUpTo]
    split
    · exact refl s
    · split
      · exact refl s
      · refine Keeps.trans ?_ (ih _)
        exact Keeps.trans (modSector (by simp) _ s) (modManager _ rfl id)

theorem joinBatch (s : State) : Keeps s s.joinBatch := by
  simp only [State.joinBatch]
  split
  · exact joinUpTo _ s
  · exact refl s

theorem runBatch (s : State) : Keeps s s.runBatch := modBatch _ s

theorem closeBatch (s : State) : Keeps s s.closeBatch := by
  simp only [State.closeBatch]
  split
  · exact runBatch s
  · exact refl s

theorem askErase (sector : Nat) (forFormat : Bool) (s : State) : Keeps s (s.askErase sector forFormat) := of_arr _

theorem requestErase (s : State) : Keeps s s.requestErase := by
  simp only [State.requestErase]
  split
  · exact refl s
  · split
    · exact askErase _ _ s
    · exact askErase _ _ s
    · exact refl s

/-! ## Outcomes of an erase (R129, R130, R147) -/

theorem dueWear (s : State) : Keeps s s.dueWear := modManager (f := fun m => { m with wearDue := true }) s rfl id

theorem eraseDone (r : EraseReq) (s : State) : Keeps s (s.eraseDone r) :=
  Keeps.trans (modSector (by simp [SectorEntry.afterErase]) _ s) (dueWear _)

theorem retireSector (r : EraseReq) (s : State) : Keeps s (s.retireSector r) := by
  simp only [State.retireSector]
  refine Keeps.trans ?_ (dueWear _)
  refine Keeps.trans ?_ (evalLimit _)
  exact Keeps.trans (modSector (by simp) _ s) (mark _ _)

theorem eraseAbandoned (r : EraseReq) (s : State) : Keeps s (s.eraseAbandoned r) := by
  simp only [State.eraseAbandoned]
  split
  · exact modSector (by simp) _ s
  · split
    · exact Keeps.trans (modSector (by simp) _ s) (modManager _ rfl id)
    · exact modSector (by simp) _ s

theorem leaveBatch (sector : Nat) (s : State) : Keeps s (s.leaveBatch sector) := modBatch _ s

/-- The device state changes once the accounts have found that no mount is in progress. -/
theorem setDevice_since {s t : State} (h : Keeps s t) (hm : s.accountOk → t.mount = none) (d : DeviceState) :
    Keeps s (t.setDevice d) := by
  simp only [State.setDevice]
  split
  · exact h
  · refine ⟨⟨h.array, h.link, h.table, h.directory, h.queue, fun hs => ?_, h.opens, h.pending⟩, h.timers⟩
    have ht := h.account hs
    rw [State.accountOk_iff] at ht ⊢
    obtain ⟨hrise, hqueued, hadmitted, hcharged, hgroup, _⟩ := ht
    exact ⟨hrise, hqueued, hadmitted, hcharged, hgroup, State.mountQuiet_of_none (hm hs)⟩

/-- While a FORMAT is in progress, no mount is. -/
theorem mount_none_of_format {f : FormatRun} (hf : s.sm.format = some f) (hs : s.accountOk) : s.mount = none := by
  cases hm : s.mount with
  | none => rfl
  | some m =>
    have := (((State.accountOk_iff s).1 hs).2.2.2.2.2 m hm).2.1
    rw [hf] at this
    cases this

theorem formatComplete {s : State} {f : FormatRun} (hf : s.sm.format = some f) (tag : Byte) : Keeps s (s.formatComplete tag) := by
  simp only [State.formatComplete]
  refine Keeps.trans ?_ (answer _ _ _ _)
  refine Keeps.trans ?_ (judgeLatch _)
  refine setDevice_since ?_ (fun hs => ?_) _
  · exact Keeps.trans (modManager s rfl (fun _ => rfl)) (evalLimit _)
  · simpa using mount_none_of_format hf hs

theorem formatNext (s : State) : Keeps s s.formatNext := by
  simp only [State.formatNext]
  split
  next f hf =>
    split
    · exact formatComplete hf _
    · exact modManager s rfl (fun h => by rw [hf] at h; cases h)
  next => exact refl s

theorem eraseEnds (r : EraseReq) (how : EraseEnd) (s : State) : Keeps s (s.eraseEnds r how) := by
  have hended : Keeps s (match how with
      | .done => (s.modArray (fun a => { a with erase := none })).eraseDone r
      | .failed => (s.modArray (fun a => { a with erase := none })).retireSector r
      | .abandoned => (s.modArray (fun a => { a with erase := none })).eraseAbandoned r) := by
    cases how
    · exact (modArray _ s).trans (eraseDone r _)
    · exact (modArray _ s).trans (retireSector r _)
    · exact (modArray _ s).trans (eraseAbandoned r _)
  simp only [State.eraseEnds]
  split
  · split
    · exact hended
    · exact hended.trans (formatNext _)
  · exact hended.trans (leaveBatch _ _)

theorem wearCheck (s : State) : Keeps s s.wearCheck := by
  have hclear : Keeps s (s.modManager (fun m => { m with wearDue := false })) := modManager s rfl id
  simp only [State.wearCheck]
  split
  · split
    · split
      · exact (hclear.trans (startWalk _ _)).trans (mark _ _)
      · exact hclear
    · exact hclear
  · exact refl s

/-! ## FORMAT takes effect (R146) -/

theorem atFormat_not_opened (running : Bool) (e : SectorEntry) : (e.atFormat running).state ≠ .opened := by
  cases h : e.state with
  | erasing => cases running <;> simp [SectorEntry.atFormat, h]
  | _ => simp [SectorEntry.atFormat, h]

/-- Outside MOUNTING no mount is in progress. -/
theorem mount_none_of_ne (h : s.dev.state ≠ .mounting) (hs : s.accountOk) : s.mount = none := by
  cases hm : s.mount with
  | none => rfl
  | some m => exact absurd (((State.accountOk_iff s).1 hs).2.2.2.2.2 m hm).1 h

/-- Outside MOUNTING a FORMAT may begin, and it leaves no sector OPEN. -/
theorem modManager_active {s : State} (hstate : s.dev.state ≠ .mounting) {f : SectorManager → SectorManager}
    (h : ∀ n, n < (f s.sm).table.length → ((f s.sm).table.getD n SectorEntry.initial).state ≠ .opened) :
    Keeps s (s.modManager f) := by
  refine ⟨⟨id, id, id, id, id, fun hs => ?_, fun hs => ⟨fun n hn ho => absurd ho (h n hn), hs.2⟩, rfl⟩, id⟩
  have hnone := mount_none_of_ne hstate hs
  rw [State.accountOk_iff] at hs ⊢
  obtain ⟨hrise, hqueued, hadmitted, hcharged, hgroup, _⟩ := hs
  exact ⟨hrise, hqueued, hadmitted, hcharged, hgroup, State.mountQuiet_of_none hnone⟩

/-- While no sector is OPEN the Log Writer may change in any way. -/
theorem modWriter_closed {s : State} (h : ∀ n, n < s.sm.table.length → (s.sector n).state ≠ .opened)
    (f : LogWriter → LogWriter) : Keeps s (s.modWriter f) :=
  of_writer (m := s.sm) (fun hs => ⟨fun n hn ho => absurd ho (h n hn), hs.2⟩) id

theorem modManager_comm (f : LogWriter → LogWriter) (a : ArrayCtl → ArrayCtl) (m : SectorManager → SectorManager) (s : State) :
    ((s.modWriter f).modArray a).modManager m = ((s.modManager m).modWriter f).modArray a := rfl

/-- A store with nothing queued and no open group is emptied (R22, R60, R61). -/
theorem emptyStores {s : State} (hq : s.wq.entries = []) (hg : s.grp.group = none) {d : Directory} {q : WriteQueue}
    {g : GroupStage} (hes : d.entries = []) (hres : d.reserved = []) (hadm : d.admitted = 0)
    (hqe : q.entries = s.wq.entries) (hqc : q.charged = s.wq.charged) (hgg : g.group = s.grp.group) :
    Keeps s { s with dir := d, wq := q, grp := g } := by
  refine of_stores (fun hs => ⟨hs.1, fun ht => ⟨(hs.2 ht).1, hqe ▸ (hs.2 ht).2⟩⟩) (fun hs => ?_) (fun hs => ?_) (fun hs => ?_)
  · refine ⟨?_, ?_, hs.2.2⟩
    · show keysRise d.entries
      rw [hes]; exact List.Pairwise.nil
    · show d.entries.length + d.reserved.length ≤ _
      simp [hes, hres]
  · exact ⟨hqe ▸ hs.1, hqc ▸ hs.2.1, hgg ▸ hs.2.2⟩
  · rw [State.accountOk_iff] at hs ⊢
    obtain ⟨_, _, _, hcharged, _, hmount⟩ := hs
    have hnil : q.entries = [] := hqe.trans hq
    have hnone : g.group = none := hgg.trans hg
    have hqueued : ({ s with dir := d, wq := q, grp := g } : State).queuedShare = 0 := by simp [State.queuedShare, hnil]
    have hstaged : ({ s with dir := d, wq := q, grp := g } : State).stagedShare = 0 := by simp [State.stagedShare, hnone]
    have hqueued' : s.queuedShare = 0 := by simp [State.queuedShare, hq]
    have hstaged' : s.stagedShare = 0 := by simp [State.stagedShare, hg]
    refine ⟨?_, fun k => ?_, ?_, ?_, ?_, fun m hm => ?_⟩
    · show keysRise d.entries
      rw [hes]; exact List.Pairwise.nil
    · show queuedIn d.entries k = q.entries.countP _
      rw [hes, hnil]; rfl
    · rw [hqueued, hstaged]
      show d.admitted = durableShare d.entries + 0 + 0
      rw [hadm, hes]; rfl
    · rw [hqueued, hstaged]
      show q.charged = 0
      omega
    · intro x hx
      rw [show ({ s with dir := d, wq := q, grp := g } : State).grp.group = none from hnone] at hx
      cases hx
    · obtain ⟨hstate, hformat, _, _, hrest⟩ := hmount m hm
      exact ⟨hstate, hformat, hnil, hnone, hrest⟩

theorem setDevice_state (d : DeviceState) (s : State) : (s.setDevice d).dev.state = d := by
  simp only [State.setDevice]
  split
  next h => exact h
  next => rfl

theorem formatEffect {s : State} (hq : s.wq.entries = []) (hg : s.grp.group = none) (hstate : s.dev.state ≠ .mounting)
    (tag : Byte) : Keeps s (s.formatEffect tag) := by
  let s1 := s.setDevice .formatting
  have h1 : Keeps s s1 := setDevice_of_ne hstate _
  let s2 : State := { s1 with
    dir := { s1.dir with entries := [], reserved := [], admitted := 0 }
    wq := { s1.wq with failureNote := false, fenceBoundary := 0, mediaFault := false, seqCounter := some 1 }
    grp := { s1.grp with counter := 1 } }
  have h2 : Keeps s1 s2 := emptyStores (by simp [s1, hq]) (by simp [s1, hg]) rfl rfl rfl rfl rfl rfl
  let s3 := s2.dropWord
  have h3 : Keeps s2 s3 := dropWord s2
  have hformatting : s3.dev.state ≠ .mounting := by
    have : s3.dev.state = .formatting := by simpa [s3, s2] using setDevice_state .formatting s
    rw [this]; simp
  refine ((h1.trans h2).trans h3).trans ?_
  have hclosed : ∀ (running : Nat → Bool) (table : List SectorEntry) (n : Nat),
      n < (table.mapIdx (fun n e => e.atFormat (running n))).length →
      ((table.mapIdx (fun n e => e.atFormat (running n))).getD n SectorEntry.initial).state ≠ .opened := by
    intro running table n hn
    rw [List.getD_eq_getElem?_getD, List.getElem?_eq_getElem hn, Option.getD_some, List.getElem_mapIdx]
    exact atFormat_not_opened _ _
  simp only [State.formatEffect, State.formatWriter]
  rw [modManager_comm]
  refine Keeps.trans ?_ (modArray _ _)
  refine Keeps.trans (modManager_active hformatting ?_) (modWriter_closed ?_ _)
  · exact hclosed _ _
  · exact hclosed _ _

end Keeps
end Sys2Proof.Machine
end

section
/-! PROOFS. The Mount Engine keeps the laws: what it builds stays in key order, within 3072 entries, with nothing queued
and no sector OPEN, and it is that which mount installs (R12, R35, R139 to R142). -/

namespace Sys2Proof.Machine

/-- From `m` to `m'` what mount builds keeps its laws, each by itself. -/
structure MountKeeps (m m' : Mount) : Prop where
  rise : keysRise m.entries → keysRise m'.entries
  fits : keysRise m.entries ∧ m.entries.length ≤ Config.maxEntries → m'.entries.length ≤ Config.maxEntries
  quiet : (∀ e ∈ m.entries, e.queued = 0) → ∀ e ∈ m'.entries, e.queued = 0
  closed : (∀ e ∈ m.table, e.state ≠ .opened) → ∀ e ∈ m'.table, e.state ≠ .opened

namespace MountKeeps

theorem refl (m : Mount) : MountKeeps m m := ⟨id, fun h => h.2, id, id⟩

theorem trans {m m' m'' : Mount} (h : MountKeeps m m') (h' : MountKeeps m' m'') : MountKeeps m m'' :=
  ⟨h'.rise ∘ h.rise, fun hm => h'.fits ⟨h.rise hm.1, h.fits hm⟩, h'.quiet ∘ h.quiet, h'.closed ∘ h.closed⟩

/-- Neither entries nor table change. -/
theorem of_same {m m' : Mount} (he : m'.entries = m.entries) (ht : m'.table = m.table) : MountKeeps m m' :=
  ⟨fun h => he ▸ h, fun h => he ▸ h.2, fun h => he ▸ h, fun h => ht ▸ h⟩

/-- The table alone changes, and no sector in it becomes OPEN. -/
theorem of_table {m m' : Mount} (he : m'.entries = m.entries)
    (ht : (∀ e ∈ m.table, e.state ≠ .opened) → ∀ e ∈ m'.table, e.state ≠ .opened) : MountKeeps m m' :=
  ⟨fun h => he ▸ h, fun h => he ▸ h.2, fun h => he ▸ h, ht⟩

theorem mem_putEntry {e x : Entry} {es : List Entry} (h : x ∈ putEntry e es) : x = e ∨ x ∈ es := by
  induction es with
  | nil => simpa [putEntry] using h
  | cons y rest ih =>
    simp only [putEntry] at h
    split at h
    · rcases List.mem_cons.1 h with h | h
      · exact .inl h
      · exact .inr (List.mem_cons_of_mem _ h)
    split at h
    · exact List.mem_cons.1 h
    · rcases List.mem_cons.1 h with h | h
      · exact .inr (h ▸ List.mem_cons_self)
      · exact (ih h).imp id (List.mem_cons_of_mem _)

/-- An entry is put that has nothing queued and whose key, if it is new, finds room. -/
theorem put {m : Mount} {e : Entry} (hq : (∀ x ∈ m.entries, x.queued = 0) → e.queued = 0)
    (hroom : findEntry e.key m.entries = none → m.entries.length < Config.maxEntries) :
    MountKeeps m { m with entries := putEntry e m.entries } := by
  refine ⟨fun h => keysRise_put h _, fun h => ?_, fun h x hx => ?_, id⟩
  · show (putEntry e m.entries).length ≤ _
    cases hf : findEntry e.key m.entries with
    | some x => rw [length_put_some h.1 hf]; exact h.2
    | none => rw [length_put_none h.1 hf]; exact hroom hf
  · rcases mem_putEntry hx with rfl | hx
    · exact hq h
    · exact h x hx

theorem present (accepted : Bool) (r : MountRec) (m : Mount) : MountKeeps m (m.present accepted r) := by
  have htake : ∀ e : Entry, ∀ b : Bool, ∀ d : DurablePart,
      (if b then ({ e with flashCopies := e.flashCopies + 1, durable := some d } : Entry).viewFromDurable
        else { e with flashCopies := e.flashCopies + 1 }).key = e.key
      ∧ (if b then ({ e with flashCopies := e.flashCopies + 1, durable := some d } : Entry).viewFromDurable
        else { e with flashCopies := e.flashCopies + 1 }).queued = e.queued := by
    intro e b d
    split
    · exact ⟨rfl, rfl⟩
    · exact ⟨rfl, rfl⟩
  simp only [Mount.present]
  split
  next e he =>
    obtain ⟨hkey, hqueued⟩ := htake e (accepted && e.durable.all (fun d => decide (d.seq ≤ r.seq)))
      (DurablePart.mk r.sector r.offset r.seq r.kind r.recLen r.valLen)
    refine put (fun h => hqueued.trans (h e (findEntry_mem he))) (fun hnone => ?_)
    rw [hkey, findEntry_key he, he] at hnone
    cases hnone
  next hnone =>
    split
    · exact of_same rfl rfl
    next hroom =>
      refine put (fun _ => ?_) (fun _ => Nat.not_le.1 hroom)
      exact (htake { key := r.key, state := .tombstone, newestSeq := 0, newestLen := 0, queued := 0, durable := none,
                     flashCopies := 0 } _ _).2

theorem presentAll (accepted : Bool) (rs : List MountRec) (m : Mount) : MountKeeps m (m.presentAll accepted rs) := by
  induction rs generalizing m with
  | nil => exact refl m
  | cons r rest ih => exact (present accepted r m).trans (ih _)

theorem tearRun (m : Mount) : MountKeeps m m.tearRun := (presentAll false m.run m).trans (of_same rfl rfl)

theorem yield (r : MountRec) (m : Mount) : MountKeeps m (m.yield r) := by
  have hseen : MountKeeps m { m with maxSeq := max m.maxSeq r.seq } := of_same rfl rfl
  simp only [Mount.yield]
  split
  · exact (hseen.trans (tearRun _)).trans (present _ _ _)
  next g last _ =>
    have htorn : MountKeeps m (if ({ m with maxSeq := max m.maxSeq r.seq } : Mount).run.any (fun x => x.group.any (fun y => y.1 != g))
        then ({ m with maxSeq := max m.maxSeq r.seq } : Mount).tearRun else { m with maxSeq := max m.maxSeq r.seq }) := by
      split
      · exact hseen.trans (tearRun _)
      · exact hseen
    split
    · exact (htorn.trans (presentAll true _ _)).trans (of_same rfl rfl)
    · exact htorn.trans (of_same rfl rfl)

theorem endWalk (sector offset : Nat) (how : WalkEnd) (blank : Bool) (m : Mount) :
    MountKeeps m (m.endWalk sector offset how blank) := (tearRun m).trans (of_same rfl rfl)

theorem mem_modify {l : List SectorEntry} {n : Nat} {f : SectorEntry → SectorEntry} {e : SectorEntry} (h : e ∈ l.modify n f) :
    e ∈ l ∨ ∃ x ∈ l, e = f x := by
  obtain ⟨i, hi⟩ := List.mem_iff_getElem?.1 h
  rw [List.getElem?_modify] at hi
  split at hi
  · obtain ⟨x, hx, rfl⟩ := Option.map_eq_some_iff.1 hi
    exact .inr ⟨x, List.mem_of_getElem? hx, rfl⟩
  · rw [Option.map_eq_map, Option.map_id'] at hi
    exact .inl (List.mem_of_getElem? hi)

theorem modTable {m : Mount} (n : Nat) {f : SectorEntry → SectorEntry} (h : ∀ e, e.state ≠ .opened → (f e).state ≠ .opened) :
    MountKeeps m { m with table := m.table.modify n f } := by
  refine of_table rfl (fun hm e he => ?_)
  rcases mem_modify he with he | ⟨x, hx, rfl⟩
  · exact hm e he
  · exact h x (hm x hx)

theorem count (sector : Nat) (words : List RawWord) (m : Mount) : MountKeeps m (m.count sector words) :=
  modTable sector (fun _ h => h)

theorem mounted_not_opened (epoch : BitVec 16) (est : Nat) (h : RawWord × RawWord) (e : SectorEntry) :
    (e.mounted epoch est h).state ≠ .opened := by
  simp only [SectorEntry.mounted]
  split
  · simp
  · split
    · simp
    · split
      · simp
      · simp

theorem headersRead (m : Mount) : MountKeeps m m.headersRead := by
  refine of_table rfl (fun _ e he => ?_)
  simp only [Mount.headersRead] at he
  obtain ⟨i, hi, rfl⟩ := List.mem_iff_getElem.1 he
  rw [List.getElem_zipWith]
  exact mounted_not_opened _ _ _ _

end MountKeeps

namespace Keeps

variable {s : State}

theorem mountAsks {m m' : Mount} (hm : s.mount = some m) (h : MountKeeps m m') (phase : MountPhase) (sector offset words : Nat) :
    Keeps s (s.mountAsks phase m' sector offset words) := by
  refine ⟨⟨id, id, id, fun hs => ?_, id, fun hs => ?_, fun hs => ?_, rfl⟩, id⟩
  · obtain ⟨hrise, hplaces, hmount⟩ := hs
    refine ⟨hrise, hplaces, fun x hx => ?_⟩
    cases hx
    exact ⟨h.rise (hmount m hm).1, h.fits (hmount m hm)⟩
  · rw [State.accountOk_iff] at hs ⊢
    obtain ⟨hrise, hqueued, hadmitted, hcharged, hgroup, hmount⟩ := hs
    refine ⟨hrise, hqueued, hadmitted, hcharged, hgroup, fun x hx => ?_⟩
    cases hx
    obtain ⟨hstate, hformat, hentries, hnone, hrises, hquiet⟩ := hmount m hm
    exact ⟨hstate, hformat, hentries, hnone, h.rise hrises, h.quiet hquiet⟩
  · refine ⟨hs.1, fun x hx => ?_⟩
    cases hx
    exact h.closed (hs.2 m hm)

/-- A sector of a mounted table is OPEN only where the candidate is. -/
theorem walked_opened {w : MountEnd} {live : Nat} {openAt : Option OpenSector} {e : SectorEntry}
    (h : (e.walked live w openAt).state = .opened) : ∃ o, openAt = some o ∧ o.sector = w.sector := by
  simp only [SectorEntry.walked] at h
  split at h
  next hany =>
    cases openAt with
    | none => cases hany
    | some o => exact ⟨o, rfl, by simpa using hany⟩
  next => cases h

/-- The table a mount installs, over any ends of walks: OPEN only where the candidate is. -/
theorem walkedTable_opened {openAt : Option OpenSector} (live : Nat → Nat) (ends : List MountEnd) (table : List SectorEntry)
    (h : ∀ n, n < table.length → (table.getD n SectorEntry.initial).state = .opened → ∃ o, openAt = some o ∧ o.sector = n) :
    let t := ends.foldl (fun t w => t.modify w.sector (SectorEntry.walked (live w.sector) w openAt)) table
    ∀ n, n < t.length → (t.getD n SectorEntry.initial).state = .opened → ∃ o, openAt = some o ∧ o.sector = n := by
  induction ends generalizing table with
  | nil => exact h
  | cons w rest ih =>
    refine ih (table.modify w.sector (SectorEntry.walked (live w.sector) w openAt)) (fun n hn ho => ?_)
    rw [List.length_modify] at hn
    rcases Nat.lt_or_ge w.sector table.length with hlt | hge
    · rw [getD_modify _ _ _ _ hlt] at ho
      split at ho
      next heq => exact heq ▸ walked_opened ho
      next => exact h n hn ho
    · rw [modify_of_length_le _ _ hge] at ho
      exact h n hn ho

theorem getD_not_opened {table : List SectorEntry} (h : ∀ e ∈ table, e.state ≠ .opened) (n : Nat) :
    (table.getD n SectorEntry.initial).state ≠ .opened := by
  rcases Nat.lt_or_ge n table.length with hlt | hge
  · rw [List.getD_eq_getElem?_getD, List.getElem?_eq_getElem hlt, Option.getD_some]
    exact h _ (List.getElem_mem hlt)
  · rw [List.getD_eq_getElem?_getD, List.getElem?_eq_none hge, Option.getD_none]
    simp [SectorEntry.initial]

/-- What mount has built is installed (R140, R141). -/
theorem mountInstalls {m m' : Mount} (hm : s.mount = some m) (h : MountKeeps m m') (openAt : Option OpenSector) {limit : Nat}
    {q : WriteQueue} (hqe : q.entries = s.wq.entries) (hqc : q.charged = s.wq.charged) {l : LogWriter}
    (hl : l.openAt = openAt) {sm : SectorManager}
    (ht : sm.table = m'.ends.foldl (fun t w => t.modify w.sector (SectorEntry.walked (liveIn w.sector m'.entries) w openAt)) m'.table) :
    Keeps s { s with
      dir := { entries := m'.entries, reserved := [], admitted := durableShare m'.entries, limit := limit }
      wq := q, lw := l, sm := sm, mount := none } := by
  refine ⟨⟨id, id, id, fun hs => ?_, fun hs => ?_, fun hs => ?_, fun hs => ?_, rfl⟩, fun hs => ?_⟩
  · obtain ⟨_, _, hmount⟩ := hs
    obtain ⟨hrise, hlen⟩ := hmount m hm
    refine ⟨h.rise hrise, ?_, by simp⟩
    exact h.fits ⟨hrise, hlen⟩
  · exact ⟨hqe ▸ hs.1, hqc ▸ hs.2.1, hs.2.2⟩
  · rw [State.accountOk_iff] at hs ⊢
    obtain ⟨_, _, _, hcharged, hgroup, hmount⟩ := hs
    obtain ⟨_, _, hentries, hnone, hrise, hquiet⟩ := hmount m hm
    have hnil : q.entries = [] := hqe.trans hentries
    have hqueued : s.queuedShare = 0 := by simp [State.queuedShare, hentries]
    have hstaged : s.stagedShare = 0 := by simp [State.stagedShare, hnone]
    refine ⟨h.rise hrise, fun k => ?_, ?_, ?_, hgroup, State.mountQuiet_of_none rfl⟩
    · show queuedIn m'.entries k = q.entries.countP _
      rw [hnil, List.countP_nil, queuedIn]
      split
      next e he => exact h.quiet hquiet e (findEntry_mem he)
      next => rfl
    · show durableShare m'.entries = durableShare m'.entries + (q.entries.map _).sum + s.stagedShare
      rw [hnil, hstaged]; rfl
    · show q.charged = (q.entries.map _).sum + s.stagedShare
      rw [hnil, hstaged, hqc, hcharged, hqueued, hstaged]; rfl
  · have hclosed := h.closed (hs.2 m hm)
    refine ⟨fun n hn ho => ?_, by simp⟩
    have := walkedTable_opened (openAt := openAt) (fun n => liveIn n m'.entries) m'.ends m'.table
      (fun n _ ho => absurd ho (getD_not_opened hclosed n)) n (by rw [← ht]; exact hn) (by rw [← ht]; exact ho)
    rw [← hl] at this
    exact this
  · exact ⟨hs.1, fun hrun => ⟨(hs.2 hrun).1, hqe ▸ (hs.2 hrun).2⟩⟩

theorem mountComplete {m m' : Mount} (hm : s.mount = some m) (h : MountKeeps m m') (openAt : Option OpenSector) :
    Keeps s (s.mountComplete openAt m') := by
  simp only [State.mountComplete]
  refine Keeps.trans ?_ (judgeLatch _)
  refine Keeps.trans (Keeps.trans ?_ (crossMark _ _ _)) (setDevice ?_ _)
  · exact mountInstalls hm h openAt (by rfl) (by rfl) (by rfl) (by rfl)
  · simp

theorem mountNext {m m' : Mount} (hm : s.mount = some m) (h : MountKeeps m m') : Keeps s (s.mountNext m') := by
  simp only [State.mountNext]
  split
  · exact mountAsks hm h _ _ _ _
  · exact mountAsks hm h _ _ _ _
  · split
    · exact mountAsks hm h _ _ _ _
    · exact mountComplete hm h _
  · exact mountComplete hm h _

theorem mountHeader {m : Mount} (hm : s.mount = some m) (words : List RawWord) : Keeps s (s.mountHeader words m) := by
  simp only [State.mountHeader]
  split
  next a b =>
    have hread : MountKeeps m { m.count m.heads.length [a, b] with heads := m.heads ++ [(a, b)] } :=
      (MountKeeps.count _ _ m).trans (.of_same rfl rfl)
    split
    · exact mountAsks hm hread _ _ _ _
    · exact mountNext hm (hread.trans (MountKeeps.headersRead _))
  next => exact refl s

theorem mountChecked {m : Mount} (hm : s.mount = some m) (words : List RawWord) : Keeps s (s.mountChecked words m) := by
  simp only [State.mountChecked]
  split
  · refine mountNext hm ?_
    split
    · exact .of_same rfl rfl
    · exact (MountKeeps.modTable _ (f := fun e => { e with state := .stale }) (by simp)).trans (.of_same rfl rfl)
  · exact refl s

theorem mountWalkEnds {m m' : Mount} (hm : s.mount = some m) (h : MountKeeps m m') (sector offset : Nat) (how : WalkEnd)
    (blank : Bool) : Keeps s (s.mountWalkEnds sector offset how blank m') :=
  mountNext hm (h.trans (MountKeeps.endWalk _ _ _ _ m'))

theorem mountWalkFirst {m : Mount} (hm : s.mount = some m) (words : List RawWord) (sector offset : Nat) :
    Keeps s (s.mountWalkFirst words sector offset m) := by
  simp only [State.mountWalkFirst]
  split
  next a =>
    have hread := MountKeeps.count sector [a] m
    split
    · exact mountWalkEnds hm hread _ _ _ _
    · split
      · exact mountAsks hm hread _ _ _ _
      · exact mountWalkEnds hm hread _ _ _ _
  next => exact refl s

theorem mountWalkRest {m : Mount} (hm : s.mount = some m) (first : RawWord) (words : List RawWord) (sector offset : Nat) :
    Keeps s (s.mountWalkRest first words sector offset m) := by
  have hread := MountKeeps.count sector words m
  simp only [State.mountWalkRest]
  split
  next r _ =>
    have hyield := hread.trans (MountKeeps.yield (mountRec r sector offset) _)
    split
    · exact mountWalkEnds hm hyield _ _ _ _
    · exact mountAsks hm hyield _ _ _ _
  next => exact mountWalkEnds hm hread _ _ _ _

theorem mountRead (words : List RawWord) (s : State) : Keeps s (s.mountRead words) := by
  simp only [State.mountRead]
  split
  · exact refl s
  next m hm =>
    split
    · exact mountHeader hm words
    · exact mountChecked hm words
    · exact mountWalkFirst hm words _ _
    · exact mountWalkRest hm _ words _ _
    · exact mountComplete hm (.refl m) _

end Keeps
end Sys2Proof.Machine
end

section
/-! PROOFS. The end of an event, the restart, the requests and every command keep the laws. -/

namespace Sys2Proof.Machine

/-! ## The reset state -/

theorem reset_arrayOk : State.reset.arrayOk := rfl

theorem reset_linkOk : State.reset.linkOk := ⟨by decide, by simp [State.reset]⟩

theorem reset_tableOk : State.reset.tableOk := by simp [State.tableOk, State.reset]

theorem reset_directoryOk : State.reset.directoryOk := by
  refine ⟨List.Pairwise.nil, by simp [State.places, State.reset], fun m hm => ?_⟩
  cases hm
  exact ⟨List.Pairwise.nil, by simp [Mount.start]⟩

theorem reset_queueOk : State.reset.queueOk := ⟨by simp [State.reset], by simp [State.reset], by simp [State.reset]⟩

theorem reset_accountOk : State.reset.accountOk := by
  rw [State.accountOk_iff]
  refine ⟨List.Pairwise.nil, fun _ => rfl, rfl, rfl, by simp [State.reset], fun m hm => ?_⟩
  cases hm
  exact ⟨rfl, rfl, rfl, rfl, List.Pairwise.nil, by simp [Mount.start]⟩

theorem reset_timersOk : State.reset.timersOk := by simp [State.timersOk, State.reset]

theorem reset_openOk : State.reset.openOk := by
  refine ⟨fun n hn => absurd hn (by simp [State.reset]), fun m hm e he => ?_⟩
  cases hm
  rw [List.eq_of_mem_replicate he]
  simp [SectorEntry.initial]

/-- A held controller is deaf to every frame (log 10). -/
theorem exec_frame_held {s : State} (h : s.held = true) (f : Frame) : exec (frameCommand f) s = .next s := by
  cases hk : kindOf f.kind with
  | none => simp [frameCommand, hk, exec, execUnknownKindFrame, State.unlessHeld, h]
  | some k =>
    cases k <;> simp [frameCommand, hk, requestCommand, exec, execHello, execGet, execStat, execList, execPut, execDelete,
      execFence, execBegin, execCommit, execAbort, execSpace, execSectors, execTidy, execFormat, execReset,
      State.unlessHeld, h]

namespace Keeps

variable {s : State}

/-! ## The Array Controller's choice (R108) -/

theorem startRead (r : ReadReq) (s : State) : Keeps s (s.startRead r) := of_arr _

theorem startWord (w : WordReq) (s : State) : Keeps s (s.startWord w) := by
  have hstart : Keeps s (s.modArray (fun a => { a with op := some (.word w), word := none })) := modArray _ s
  simp only [State.startWord]
  split
  · exact hstart.trans (modWriter _ rfl)
  · exact hstart.trans (modWriter _ rfl)
  · exact hstart.trans (modWriter _ rfl)
  · exact hstart
  · exact hstart

theorem wreckSector (sector : Nat) (s : State) : Keeps s (s.wreckSector sector) :=
  of_flash (fun h => Flash.wf_wreck h _ _)

theorem cutWord (sector index : Nat) (data : Word) (role : WordRole) (s : State) : Keeps s (s.cutWord sector index data role) :=
  of_flash (fun h => Flash.wf_put h _ _ _)

theorem failWord (sector index : Nat) (data : Word) (role : WordRole) (s : State) : Keeps s (s.failWord sector index data role) :=
  of_flash (fun h => Flash.wf_put h _ _ _)

theorem startErase (r : EraseReq) (s : State) : Keeps s (s.startErase r) := by
  simp only [State.startErase]
  refine Keeps.trans ?_ (releasePlaces _ _)
  exact (modArray _ s).trans (wreckSector _ _)

theorem erasePhase (p : ErasePhase) (s : State) : Keeps s (s.erasePhase p) := of_arr _

theorem scheduleErase (s : State) : Keeps s s.scheduleErase := by
  simp only [State.scheduleErase]
  split
  · split
    · exact erasePhase _ s
    · split
      · exact refl s
      · exact erasePhase _ s
    all_goals exact refl s
  · split
    · exact refl s
    · exact startErase _ s
  · exact refl s

theorem schedule (s : State) : Keeps s s.schedule := by
  simp only [State.schedule]
  split
  · split
    · exact (modArray _ s).trans (startRead _ _)
    · exact (modArray _ s).trans (startRead _ _)
    · split
      · exact scheduleErase s
      · exact startWord _ s
    · exact scheduleErase s
  · exact refl s

/-! ## The end of an event -/

theorem relieve (s : State) : Keeps s s.relieve := by
  have hdropped : Keeps s (if s.unplaceable then s.dropRelocation else s) := by
    split
    · exact dropRelocation s
    · exact refl s
  simp only [State.relieve]
  generalize (if s.unplaceable then s.dropRelocation else s) = t at hdropped ⊢
  split
  · exact hdropped.trans (hostMediaFault _)
  · exact hdropped

theorem considerAll (s : State) : Keeps s s.considerAll := by
  simp only [State.considerAll]
  refine Keeps.trans ?_ (requestErase _)
  refine Keeps.trans ?_ (relieve _)
  refine Keeps.trans ?_ (chooseVictim _)
  refine Keeps.trans ?_ (closeBatch _)
  refine Keeps.trans ?_ (joinBatch _)
  refine Keeps.trans ?_ (evalLatch _)
  refine Keeps.trans ?_ (advanceWriter _)
  refine Keeps.trans ?_ (arbitrate _)
  exact (considerAdmissions s).trans (offerHost _)

theorem setLatch (s : State) : Keeps s s.setLatch := of_dev id

theorem drainReport (s : State) : Keeps s s.drainReport := by
  simp only [State.drainReport]
  split
  · split
    · exact (finish _ _ _ s).trans (setLatch _)
    · exact refl s
  · exact refl s

theorem cutTarget (sector index : Nat) (data : Word) (role : WordRole) (s : State) :
    Keeps s (s.cutTarget sector index data role) := by
  simp only [State.cutTarget]
  split
  · exact cutWord _ _ _ _ s
  · exact refl s

theorem cutArray (s : State) : Keeps s s.cutArray := by
  have hcut : Keeps s (match s.arr.op with
      | some (.word w) => s.cutTarget w.sector w.index w.data w.role
      | some (.read _) | none => s) := by
    split
    · exact cutTarget _ _ _ _ s
    · exact refl s
    · exact refl s
  simp only [State.cutArray]
  refine Keeps.trans ?_ (modArray _ _)
  split
  · split
    · exact hcut.trans (cutTarget _ _ _ _ _)
    · exact hcut
  · exact hcut

/-- A restart gives every block its restart value, and the supply its stopped hold timer (R136, R153). -/
theorem restart (s : State) : Keeps s s.restart := by
  have hcut := cutArray s
  have hreset : Keeps s { State.reset with
      flash := s.cutArray.flash, seeds := s.cutArray.seeds, sup := s.cutArray.sup.restarted, pending := s.cutArray.pending } :=
    ⟨⟨hcut.array, fun _ => reset_linkOk, fun _ => reset_tableOk, fun _ => reset_directoryOk, fun _ => reset_queueOk,
      fun _ => reset_accountOk, fun _ => reset_openOk, hcut.pending⟩,
      fun h => ⟨(hcut.timers h).1, by simp [Supply.restarted]⟩⟩
  simp only [State.restart]
  split
  · exact (hreset.trans (mark _ _)).trans (consult _)
  · exact hreset

theorem conclude (s : State) : Keeps s s.conclude := by
  simp only [State.conclude]
  split
  · exact restart s
  · exact (schedule s).trans (consult _)

theorem considered (s : State) : Keeps s s.considered := by
  simp only [State.considered]
  refine Keeps.trans ?_ (drainReport _)
  refine Keeps.trans ?_ (finishTidy _)
  refine Keeps.trans ?_ (wearCheck _)
  exact (considerAll s).trans (considerAll _)

theorem settle (s : State) : Keeps s s.settle := (considered s).trans (conclude _)

theorem settleFor (tag : Byte) (s : State) : Keeps s (s.settleFor tag) :=
  ((considered s).trans (tellPending tag _)).trans (conclude _)

theorem consultFor (tag : Byte) (s : State) : Keeps s (s.consultFor tag) := (tellPending tag s).trans (consult _)

theorem considerArrival (tag : Byte) (s : State) : Keeps s (s.considerArrival tag) := by
  simp only [State.considerArrival]
  split
  · exact (considerAdmissions s).trans (consultFor tag _)
  · exact (considerAdmissions s).trans (settleFor tag _)

theorem afterDiscard (s : State) : Keeps s s.afterDiscard := by
  simp only [State.afterDiscard]
  split
  · exact (considerAdmissions s).trans (consult _)
  · exact (considerAdmissions s).trans (settle _)

theorem unlessHeld {f : State → State} {s : State} (h : Keeps s (f s)) : Keeps s (s.unlessHeld f) := by
  simp only [State.unlessHeld]
  split
  · exact refl s
  · exact h

/-! ## Requests (R161) -/

theorem retryOr {fresh : Frame → State → State} {f : Frame} {s : State} (h : Keeps s (fresh f s)) :
    Keeps s (State.retryOr fresh f s) := by
  simp only [State.retryOr]
  split
  · split
    · exact (sendRetry _ s).trans (consult _)
    · exact h
  · exact h

/-- A request's handling keeps the laws where the device state has let the request through (R138). -/
theorem accept {kind : ReqKind} {act : Byte → Request → State → State} {f : Frame} {s : State}
    (h : ∀ r t, gateTable kind t.dev.state = none → Keeps t (act f.tag r t)) : Keeps s (State.accept kind act f s) := by
  refine retryOr ?_
  simp only [State.acceptNew]
  split
  · exact (answerUnslotted _ _ s).trans (consult _)
  next hfree =>
    split
    · exact (answerUnslotted _ _ s).trans (consult _)
    next hroom =>
      have htake := takeSlot (s := s) (f := f) (by simpa using hfree) (Nat.not_le.1 hroom) (some kind)
      split
      · exact (htake.trans (answer _ _ _ _)).trans (consult _)
      next r _ =>
        have hrecord := htake.trans (recordRequest f.tag r _)
        split
        · exact (hrecord.trans (answer _ _ _ _)).trans (consult _)
        next hgate =>
          refine hrecord.trans (h r _ ?_)
          simp only [State.gate] at hgate
          split at hgate
          · cases hgate
          · simpa using hgate

theorem answer_consult (tag : Byte) (st : Status) (fields : List Byte) (s : State) :
    Keeps s (s.answer tag st fields).consult := (answer _ _ _ s).trans (consult _)

theorem getRead (tag : Byte) (k : Key) (d : DurablePart) (s : State) : Keeps s (s.getRead tag k d) := by
  simp only [State.getRead]
  refine Keeps.trans ?_ (consult _)
  refine Keeps.trans ?_ (schedule _)
  refine Keeps.trans ?_ (waitFor _ _ _)
  refine Keeps.trans ?_ (modSlot (by intro; rfl) _)
  exact (modSector (by simp) _ s).trans (modArray _ _)

theorem actGet (tag : Byte) (k : Key) (s : State) : Keeps s (s.actGet tag k) := by
  simp only [State.actGet]
  split
  · exact answer_consult _ _ _ s
  · split
    · exact answer_consult _ _ _ s
    · exact answer_consult _ _ _ s
    · simp only [State.getPresent]
      split
      · split
        · exact answer_consult _ _ _ s
        · exact answer_consult _ _ _ s
      · split
        · exact getRead _ _ _ s
        · exact answer_consult _ _ _ s

theorem actStat (tag : Byte) (k : Key) (s : State) : Keeps s (s.actStat tag k) := by
  simp only [State.actStat]
  split
  · exact answer_consult _ _ _ s
  · exact answer_consult _ _ _ s

theorem listStep (tag : Byte) (l : Listing) (s : State) : Keeps s (s.listStep tag l) := by
  simp only [State.listStep]
  split
  · exact modSlot (by intro; rfl) s
  · exact answer_consult _ _ _ s

theorem joinList (tag : Byte) (s : State) : Keeps s (s.joinList tag) := by
  have hjoin : Keeps s (s.modQueue (fun q => { q with admission := q.admission ++ [tag] })) := modQueue_same s rfl rfl
  simp only [State.joinList]
  split
  · exact hjoin.trans (considerArrival _ _)
  · exact (hjoin.trans (waitFor _ _ _)).trans (consultFor _ _)

theorem actBegin {s : State} (hstate : s.dev.state ≠ .mounting) (tag : Byte) : Keeps s (s.actBegin tag) := by
  simp only [State.actBegin]
  split
  · exact answer_consult _ _ _ s
  next hnone => exact (openGroup hnone hstate _ _).trans (answer_consult _ _ _ _)

theorem actAbort (tag : Byte) (s : State) : Keeps s (s.actAbort tag) := by
  simp only [State.actAbort]
  split
  · exact ((discardGroup s).trans (answer _ _ _ _)).trans (afterDiscard _)
  · exact answer_consult _ _ _ s

theorem actTidy (tag : Byte) (threshold : Nat) (s : State) : Keeps s (s.actTidy tag threshold) := by
  simp only [State.actTidy]
  split
  · exact answer_consult _ _ _ s
  split
  · exact answer_consult _ _ _ s
  · refine Keeps.trans ?_ (settleFor _ _)
    exact Keeps.trans (modManager s rfl id) (waitFor _ _ _)

theorem actFormat {s : State} (hstate : s.dev.state ≠ .mounting) (tag : Byte) : Keeps s (s.actFormat tag) := by
  simp only [State.actFormat]
  split
  · exact answer_consult _ _ _ s
  next hidle =>
    simp only [State.notIdle, Bool.or_eq_true, Bool.not_eq_true', not_or, Bool.not_eq_true, Bool.not_eq_false,
      List.isEmpty_iff, Option.isSome_eq_false_iff, Option.isNone_iff_eq_none] at hidle
    obtain ⟨⟨_, hqueue⟩, hgroup⟩ := hidle
    refine Keeps.trans ?_ (settleFor _ _)
    exact (formatEffect hqueue hgroup hstate tag).trans (waitFor _ _ _)

theorem resetReply (tag : Byte) (s : State) : Keeps s (s.resetReply tag) := by
  have hreply := (finish tag (le 1 Status.ok.code) true s).trans (setLatch _)
  simp only [State.resetReply]
  split
  · exact hreply.trans (restart _)
  · exact hreply.trans (consult _)

theorem actReset (tag : Byte) (mode : ResetMode) (s : State) : Keeps s (s.actReset tag mode) := by
  simp only [State.actReset]
  split
  · exact answer_consult _ _ _ s
  · split
    · have hdrain : Keeps s (if s.dev.state = .online then s.setDevice .draining else s) := by
        split
        next h => exact setDevice_of_ne (by simp [h]) _
        next => exact refl s
      simp only [State.resetDrain]
      generalize (if s.dev.state = .online then s.setDevice .draining else s) = t at hdrain ⊢
      split
      · exact hdrain.trans (resetReply _ _)
      · exact (hdrain.trans (waitFor _ _ _)).trans (consultFor _ _)
    · exact Keeps.trans (modQueue_same s rfl rfl) (resetReply _ _)

/-- Every slot is orphaned and the Replay Cache emptied (R170). -/
theorem endSession (id : Nat) (s : State) :
    Keeps s { s.orphanSlots with req := { s.orphanSlots.req with cache := [], session := id } } := by
  refine of_req (fun hs => ?_)
  obtain ⟨hlen, hnodup, _⟩ := hs
  refine ⟨by simpa [State.orphanSlots] using hlen, ?_, by simp, by simp, by simp⟩
  simpa [State.orphanSlots, Function.comp_def] using hnodup

theorem actHello (tag : Byte) (id : Nat) (baud : Option Nat) (s : State) : Keeps s (s.actHello tag id baud) := by
  have hreply : ∀ t : State, Keeps t (t.discardGroup.helloReply tag id baud) := fun t => (discardGroup t).trans (sendReply _ _)
  simp only [State.actHello]
  split
  · exact ((endSession id s).trans (hreply _)).trans (afterDiscard _)
  · exact ((endSession id s).trans (hreply _)).trans (consult _)

theorem takeHello (f : Frame) (s : State) : Keeps s (s.takeHello f) := by
  simp only [State.takeHello]
  split
  · exact actHello _ _ _ s
  · exact (answerUnslotted _ _ s).trans (consult _)

theorem takeUnknown (f : Frame) (s : State) : Keeps s (s.takeUnknown f) := by
  refine retryOr ?_
  simp only [State.acceptUnknown]
  split
  · exact (answerUnslotted _ _ s).trans (consult _)
  next hfree =>
    split
    · exact (answerUnslotted _ _ s).trans (consult _)
    next hroom =>
      have htake := takeSlot (s := s) (f := f) (by simpa using hfree) (Nat.not_le.1 hroom) none
      exact htake.trans (answer_consult _ _ _ _)

/-- Every request kind's frame keeps the laws. -/
theorem takeRequest (k : ReqKind) (f : Frame) (s : State) (h : kindOf f.kind = some k) : Keeps s (s.handOver f) := by
  have hwrite : ∀ {d : DeviceState}, gateWrite d = none → d ≠ .mounting := by intro d hd; rintro rfl; cases hd
  have hformat : ∀ {d : DeviceState}, gateFormat d = none → d ≠ .mounting := by intro d hd; rintro rfl; cases hd
  simp only [State.handOver, h]
  cases k
  case hello => exact takeHello f s
  case get =>
    refine accept (fun r t _ => ?_)
    split
    · exact actGet _ _ t
    · exact refl t
  case stat =>
    refine accept (fun r t _ => ?_)
    split
    · exact actStat _ _ t
    · exact refl t
  case list =>
    refine accept (fun r t _ => ?_)
    split
    · exact listStep _ _ t
    · exact refl t
  case put => exact accept (fun _ t _ => joinList _ t)
  case delete => exact accept (fun _ t _ => joinList _ t)
  case fence => exact accept (fun _ t _ => joinList _ t)
  case beginGroup => exact accept (fun _ t hgate => actBegin (hwrite hgate) _)
  case commit => exact accept (fun _ t _ => joinList _ t)
  case abort => exact accept (fun _ t _ => actAbort _ t)
  case space => exact accept (fun _ t _ => answer_consult _ _ _ t)
  case sectors =>
    refine accept (fun r t _ => ?_)
    split
    · exact answer_consult _ _ _ t
    · exact refl t
  case tidy =>
    refine accept (fun r t _ => ?_)
    split
    · exact actTidy _ _ t
    · exact refl t
  case format => exact accept (fun _ t hgate => actFormat (hformat hgate) _)
  case reset =>
    refine accept (fun r t _ => ?_)
    split
    · exact actReset _ _ t
    · exact refl t

theorem handOver (f : Frame) (s : State) : Keeps s (s.handOver f) := by
  cases h : kindOf f.kind with
  | some k => exact takeRequest k f s h
  | none =>
    simp only [State.handOver, h]
    exact takeUnknown f s

/-! ## Link events (R174 to R181) -/

theorem modLink {f : Link → Link} (s : State) (h : s.linkOk → (f s.link).txq.length ≤ Config.maxTx
    ∧ ((f s.link).gap = true ↔ (f s.link).rx ≠ .hunt)) : Keeps s (s.modLink f) := of_link h

theorem hunt (s : State) : Keeps s (s.modLink Link.hunt) := modLink s (fun h => ⟨h.1, by simp [Link.hunt]⟩)

theorem discardFrame (s : State) : Keeps s s.discardFrame := ((hunt s).trans (mark _ _)).trans (consult _)

theorem storeByte {rx : RxState} (h : rx ≠ .hunt) (got : List Byte) (s : State) : Keeps s (s.storeByte rx got) :=
  modLink s (fun hs => ⟨hs.1, by simp [h]⟩)

theorem takeChar (c : Byte) (s : State) : Keeps s (s.takeChar c) := by
  simp only [State.takeChar]
  split
  · split
    · exact storeByte (by simp) _ s
    · exact refl s
  · simp only [State.headerByte]
    split
    · exact discardFrame s
    split
    · exact storeByte (by simp) _ s
    split
    · exact storeByte (by simp) _ s
    · exact storeByte (by simp) _ s
  · simp only [State.payloadByte]
    split
    · exact storeByte (by simp) _ s
    · exact storeByte (by simp) _ s
  · simp only [State.checkByte]
    split
    · exact storeByte (by simp) _ s
    split
    · exact (hunt s).trans (handOver _ _)
    · exact discardFrame s

theorem framingError (s : State) : Keeps s s.framingError := by
  simp only [State.framingError]
  split
  · exact refl s
  all_goals exact discardFrame s

theorem changeRate (b : Nat) (s : State) : Keeps s (s.changeRate b) := by
  have hrate : Keeps s (s.modLink (fun l => { l with rate := b })) := modLink s id
  simp only [State.changeRate]
  split
  · exact hrate
  all_goals exact (hrate.trans (hunt _)).trans (mark _ _)

theorem popTx (s : State) : Keeps s s.popTx := by
  refine modLink s (fun hs => ⟨?_, hs.2⟩)
  have := hs.1
  simp only [List.length_drop]
  omega

theorem frameLeaves (e : TxFrame) (s : State) : Keeps s (s.frameLeaves e) := by
  simp only [State.frameLeaves]
  split
  · exact (popTx s).trans (restart _)
  · split
    · exact ((popTx s).trans (changeRate _ _)).trans (consult _)
    · exact (popTx s).trans (consult _)

theorem takeBreak (s : State) : Keeps s s.takeBreak := by
  have hbroken : Keeps s (s.modLink Link.broken) := by
    refine modLink s (fun hs => ⟨?_, by simp [Link.broken, Link.hunt]⟩)
    have := hs.1
    simp only [Link.broken, List.length_map, List.length_drop]
    omega
  simp only [State.takeBreak]
  split
  · exact hbroken.trans (restart _)
  · exact (hbroken.trans (mark _ _)).trans (consult _)

/-! ## Array events (R80, R99 to R101, R109 to R112) -/

theorem endRead (r : ReadReq) (decayed : List (Nat × RawWord)) (s : State) : Keeps s (s.endRead r decayed) :=
  (modArray (fun a => { a with op := none }) s).trans (of_flash (fun h => Flash.wf_putAll _ _ h))

theorem getDone (tag : Byte) (r : ReadReq) (words : List RawWord) (s : State) : Keeps s (s.getDone tag r words) := by
  have hcounted : Keeps s ((s.addCorrected r.sector (correctedWords words)).modSector r.sector
      (fun e => { e with readers := e.readers - 1 })) := (addCorrected _ _ s).trans (modSector (by simp) _ _)
  simp only [State.getDone]
  split
  · split
    · simp only [State.getAnswer]
      split
      · exact hcounted.trans (answer _ _ _ _)
      · exact hcounted.trans (answer _ _ _ _)
    · exact hcounted
    · exact hcounted
  · exact hcounted

theorem reclaimDone (r : ReadReq) (words : List RawWord) (s : State) : Keeps s (s.reclaimDone r words) := by
  simp only [State.reclaimDone]
  split
  · exact addCorrected _ _ s
  · exact (addCorrected _ _ s).trans (walkRead _ _)

theorem programWord (sector index : Nat) (data : Word) (role : WordRole) (verified : Bool) (s : State) :
    Keeps s (s.programWord sector index data role verified) := by
  simp only [State.programWord]
  split
  · split
    · exact of_flash (fun h => Flash.wf_put h _ _ _)
    · exact failWord _ _ _ _ s
  · exact refl s

theorem endWord (w : WordReq) (verified : Bool) (s : State) : Keeps s (s.endWord w verified) :=
  ((modArray _ s).trans (programWord _ _ _ _ _ _)).trans (wordEnded _ _ _)

theorem endHeader (r : EraseReq) (verified : Bool) (s : State) : Keeps s (s.endHeader r verified) :=
  (programWord _ _ _ _ _ s).trans (eraseEnds _ _ _)

/-! ## Supply events (R152 to R159) -/

theorem modSupply {f : Supply → Supply} (s : State)
    (h : s.timersOk → ((f s.sup).qualifying = true → (f s.sup).condition = .hold)
      ∧ ((f s.sup).holdTimer = true → (f s.sup).condition = .hold ∧ s.wq.entries ≠ [])) : Keeps s (s.modSupply f) := of_sup h

theorem abandonErase (s : State) : Keeps s s.abandonErase := by
  simp only [State.abandonErase]
  split
  · split
    case h_5 => exact refl s
    all_goals exact (wreckSector _ s).trans (eraseEnds _ _ _)
  · exact refl s

theorem enterHold (s : State) : Keeps s s.enterHold := by
  simp only [State.enterHold]
  refine Keeps.trans ?_ (startHoldTimer _)
  refine Keeps.trans ?_ (abandonErase _)
  refine Keeps.trans (modSupply s (fun hs => ?_)) (mark _ _)
  exact ⟨by simp, fun hrun => ⟨rfl, (hs.2 hrun).2⟩⟩

theorem enterNormal (s : State) : Keeps s s.enterNormal :=
  (modSupply s (fun _ => ⟨by simp, by simp⟩)).trans (mark _ _)

theorem holdExpires (s : State) : Keeps s s.holdExpires := by
  simp only [State.holdExpires]
  refine Keeps.trans ?_ (abandonHost _)
  refine Keeps.trans ?_ (failQueue _ _)
  exact modSupply s (fun hs => ⟨hs.1, by simp⟩)

/-! ## Every command -/

/-- A command whose effect is deferred until the array's operation is found. -/
theorem of_next {s t u : State} (h : Keeps s u) (ht : Host.Outcome.next u = (.next t : Host.Outcome State Fault Refusal)) :
    Keeps s t := by cases ht; exact h

/-- A frame's command is the frame handed over, unless the controller is held (R161). -/
theorem of_frame {f : Frame} {s t : State} (h : exec (frameCommand f) s = .next t) : Keeps s t := by
  cases hheld : s.held with
  | false =>
    rw [exec_frame hheld] at h
    exact of_next (handOver f s) h
  | true =>
    rw [exec_frame_held hheld] at h
    exact of_next (refl s) h

theorem of_request {k : ReqKind} {tag flags : Byte} {payload : List Byte} {s t : State}
    (h : exec (requestCommand k tag flags payload) s = .next t) : Keeps s t := by
  rw [← frameCommand_request] at h
  exact of_frame h

theorem execGetReadComplete {decayed : List (Nat × RawWord)} {s t : State} (h : execGetReadComplete decayed s = .next t) :
    Keeps s t := by
  simp only [Machine.execGetReadComplete] at h
  split at h
  · exact of_next (refl s) h
  · split at h
    · split at h
      · split at h
        · exact of_next (((endRead _ _ s).trans (getDone _ _ _ _)).trans (settle _)) h
        · cases h
      · exact of_next (refl s) h
      · exact of_next (refl s) h
    · exact of_next (refl s) h
    · exact of_next (refl s) h

theorem execReclaimReadComplete {decayed : List (Nat × RawWord)} {s t : State}
    (h : execReclaimReadComplete decayed s = .next t) : Keeps s t := by
  simp only [Machine.execReclaimReadComplete] at h
  split at h
  · exact of_next (refl s) h
  · split at h
    · split at h
      · split at h
        · exact of_next (((endRead _ _ s).trans (reclaimDone _ _ _)).trans (settle _)) h
        · cases h
      · exact of_next (refl s) h
      · exact of_next (refl s) h
    · exact of_next (refl s) h
    · exact of_next (refl s) h

theorem execMountReadComplete {decayed : List (Nat × RawWord)} {s t : State}
    (h : execMountReadComplete decayed s = .next t) : Keeps s t := by
  simp only [Machine.execMountReadComplete] at h
  split at h
  · exact of_next (refl s) h
  · split at h
    · split at h
      · split at h
        · exact of_next (((endRead _ _ s).trans (mountRead _ _)).trans (settle _)) h
        · cases h
      · exact of_next (refl s) h
      · exact of_next (refl s) h
    · exact of_next (refl s) h
    · exact of_next (refl s) h

theorem execWordProgramComplete {verified : Bool} {s t : State} (h : execWordProgramComplete verified s = .next t) :
    Keeps s t := by
  simp only [Machine.execWordProgramComplete] at h
  split at h
  · exact of_next (refl s) h
  · split at h
    · split at h
      · exact of_next ((endWord _ _ s).trans (settle _)) h
      · cases h
    · exact of_next (refl s) h
    · exact of_next (refl s) h

theorem execWordProgramTimeout {s t : State} (h : execWordProgramTimeout s = .next t) : Keeps s t := by
  simp only [Machine.execWordProgramTimeout] at h
  split at h
  · exact of_next (refl s) h
  · split at h
    · split at h
      · exact of_next ((endWord _ _ s).trans (settle _)) h
      · cases h
    · exact of_next (refl s) h
    · split at h
      · exact of_next ((endHeader _ _ s).trans (settle _)) h
      · cases h
    · exact of_next (refl s) h

theorem execErasePulseComplete {stuck : List (Nat × RawWord)} {s t : State} (h : execErasePulseComplete stuck s = .next t) :
    Keeps s t := by
  simp only [Machine.execErasePulseComplete] at h
  split at h
  · exact of_next (refl s) h
  · split at h
    next r _ =>
      split at h
      · refine of_next (Keeps.trans (Keeps.trans (Keeps.trans ?_ (erasePhase _ _)) (schedule _)) (consult _)) h
        exact of_flash (fun hs => Flash.wf_putAll _ _ (Flash.wf_clear hs _))
      · cases h
    next => exact of_next (refl s) h

theorem execEraseWordProgramComplete {verified : Bool} {s t : State} (h : execEraseWordProgramComplete verified s = .next t) :
    Keeps s t := by
  simp only [Machine.execEraseWordProgramComplete] at h
  split at h
  · exact of_next (refl s) h
  · split at h
    · split at h
      · exact of_next ((endHeader _ _ s).trans (settle _)) h
      · cases h
    · exact of_next (refl s) h

/-- A later step of a listing keeps the laws (R87). -/
theorem execListStep {tag : Byte} {s t : State} (h : execListStep tag s = .next t) : Keeps s t := by
  refine of_next (unlessHeld ?_) h
  split
  · split
    · exact listStep _ _ s
    · exact refl s
    · exact refl s
  · exact refl s

theorem execCharacterReceived {c : Byte} {framing : Bool} {s t : State}
    (h : execCharacterReceived c framing s = .next t) : Keeps s t := by
  refine of_next (unlessHeld ?_) h
  split
  · exact framingError s
  · exact takeChar c s

theorem execGapTimerExpiry {s t : State} (h : execGapTimerExpiry s = .next t) : Keeps s t := by
  refine of_next (unlessHeld ?_) h
  split
  · exact discardFrame s
  · exact refl s

theorem execFrameSent {s t : State} (h : execFrameSent s = .next t) : Keeps s t := by
  refine of_next (unlessHeld ?_) h
  split
  · exact frameLeaves _ s
  · exact refl s

theorem execEraseSuspend {s t : State} (h : execEraseSuspend s = .next t) : Keeps s t := by
  refine of_next (unlessHeld ?_) h
  split
  · split
    · exact ((erasePhase _ s).trans (schedule _)).trans (consult _)
    · exact refl s
  · exact refl s

theorem execEraseTimeout {s t : State} (h : execEraseTimeout s = .next t) : Keeps s t := by
  refine of_next (unlessHeld ?_) h
  split
  · exact (eraseEnds _ _ s).trans (settle _)
  · exact refl s

theorem execBlankCheckComplete {s t : State} (h : execBlankCheckComplete s = .next t) : Keeps s t := by
  refine of_next (unlessHeld ?_) h
  split
  · split
    · exact ((erasePhase _ s).trans (schedule _)).trans (consult _)
    · exact (eraseEnds _ _ s).trans (settle _)
  · exact refl s

theorem execEraseWindowExpiry {s t : State} (h : execEraseWindowExpiry s = .next t) : Keeps s t := by
  refine of_next (unlessHeld ?_) h
  split
  · exact (runBatch s).trans (settle _)
  · exact refl s

theorem execSupplyBelowHold {s t : State} (h : execSupplyBelowHold s = .next t) : Keeps s t := by
  refine of_next ?_ h
  split
  · exact modSupply s (fun hs => ⟨by simp, fun hrun => ⟨rfl, (hs.2 hrun).2⟩⟩)
  · split
    · exact (enterHold s).trans (settle _)
    · exact modSupply s (fun hs => ⟨by simp, hs.2⟩)

theorem execSupplyAboveNormal {s t : State} (h : execSupplyAboveNormal s = .next t) : Keeps s t := by
  refine of_next ?_ h
  split
  next hhold => exact modSupply s (fun hs => ⟨fun _ => hhold.1, hs.2⟩)
  next => exact refl s

theorem execSupplyFallInQualification {s t : State} (h : execSupplyFallInQualification s = .next t) : Keeps s t :=
  of_next (modSupply s (fun hs => ⟨by simp, hs.2⟩)) h

theorem execQualificationTimerExpiry {s t : State} (h : execQualificationTimerExpiry s = .next t) : Keeps s t := by
  refine of_next ?_ h
  split
  · split
    · exact modSupply s (fun _ => ⟨by simp, by simp⟩)
    · exact (enterNormal s).trans (settle _)
  · exact refl s

theorem execHoldTimerExpiry {s t : State} (h : execHoldTimerExpiry s = .next t) : Keeps s t := by
  refine of_next (unlessHeld ?_) h
  split
  · exact (holdExpires s).trans (settle _)
  · exact refl s

theorem execPowerOnResetAsserted {s t : State} (h : execPowerOnResetAsserted s = .next t) : Keeps s t := by
  refine of_next (Keeps.trans (cutArray s) (modSupply _ (fun hs => ⟨by simp, hs.2⟩))) h

theorem execPowerOnRelease {aboveNormal : Bool} {s t : State} (h : execPowerOnRelease aboveNormal s = .next t) :
    Keeps s t := by
  have hrelease : Keeps s (s.modSupply (Supply.released aboveNormal)) := modSupply s (fun _ => ⟨by simp [Supply.released], by simp [Supply.released]⟩)
  refine of_next ?_ h
  split
  · dsimp only
    split
    · exact hrelease
    · exact hrelease.trans (restart _)
  · exact refl s

theorem execNresetHigh {s t : State} (h : execNresetHigh s = .next t) : Keeps s t := by
  have hhigh : Keeps s (s.modSupply (fun p => { p with nresetLow := false })) := modSupply s id
  refine of_next ?_ h
  split
  · dsimp only
    split
    · exact hhigh
    · exact hhigh.trans (restart _)
  · exact refl s

theorem execSupplyAbovePowerOnThreshold {s t : State} (h : execSupplyAbovePowerOnThreshold s = .next t) : Keeps s t := by
  refine of_next ?_ h
  split
  · exact modSupply s id
  · exact refl s

end Keeps

/-- Every command keeps every law of the blocks, each by itself. -/
theorem exec_keeps {c : Instr} {s t : State} (h : exec c s = .next t) : Keeps s t := by
  cases c with
  | hello => exact Keeps.of_request (k := .hello) h
  | get => exact Keeps.of_request (k := .get) h
  | stat => exact Keeps.of_request (k := .stat) h
  | list => exact Keeps.of_request (k := .list) h
  | put => exact Keeps.of_request (k := .put) h
  | delete => exact Keeps.of_request (k := .delete) h
  | fence => exact Keeps.of_request (k := .fence) h
  | beginGroup => exact Keeps.of_request (k := .beginGroup) h
  | commit => exact Keeps.of_request (k := .commit) h
  | abort => exact Keeps.of_request (k := .abort) h
  | space => exact Keeps.of_request (k := .space) h
  | sectors => exact Keeps.of_request (k := .sectors) h
  | tidy => exact Keeps.of_request (k := .tidy) h
  | format => exact Keeps.of_request (k := .format) h
  | reset => exact Keeps.of_request (k := .reset) h
  | unknownKindFrame => exact Keeps.of_next (Keeps.unlessHeld (Keeps.takeUnknown _ s)) h
  | characterReceived => exact Keeps.execCharacterReceived h
  | gapTimerExpiry => exact Keeps.execGapTimerExpiry h
  | breakRecognised => exact Keeps.of_next (Keeps.unlessHeld (Keeps.takeBreak s)) h
  | frameSent => exact Keeps.execFrameSent h
  | listStep => exact Keeps.execListStep h
  | getReadComplete => exact Keeps.execGetReadComplete h
  | reclaimReadComplete => exact Keeps.execReclaimReadComplete h
  | mountReadComplete => exact Keeps.execMountReadComplete h
  | wordProgramComplete => exact Keeps.execWordProgramComplete h
  | wordProgramTimeout => exact Keeps.execWordProgramTimeout h
  | eraseSuspend => exact Keeps.execEraseSuspend h
  | erasePulseComplete => exact Keeps.execErasePulseComplete h
  | eraseTimeout => exact Keeps.execEraseTimeout h
  | blankCheckComplete => exact Keeps.execBlankCheckComplete h
  | eraseWordProgramComplete => exact Keeps.execEraseWordProgramComplete h
  | eraseWindowExpiry => exact Keeps.execEraseWindowExpiry h
  | supplyBelowHold => exact Keeps.execSupplyBelowHold h
  | supplyAboveNormal => exact Keeps.execSupplyAboveNormal h
  | supplyFallInQualification => exact Keeps.execSupplyFallInQualification h
  | qualificationTimerExpiry => exact Keeps.execQualificationTimerExpiry h
  | holdTimerExpiry => exact Keeps.execHoldTimerExpiry h
  | powerOnResetAsserted => exact Keeps.execPowerOnResetAsserted h
  | powerOnRelease => exact Keeps.execPowerOnRelease h
  | nresetLow => exact Keeps.of_next (Keeps.trans (Keeps.cutArray s) (Keeps.modSupply _ id)) h
  | nresetHigh => exact Keeps.execNresetHigh h
  | supplyAbovePowerOnThreshold => exact Keeps.execSupplyAbovePowerOnThreshold h

/-- The laws of the blocks speak of everything but the queue of commands. -/
theorem step_keeps {s t : State} (h : step s = .next t) : ∃ q, Keeps (s.withQueue q) t := by
  simp only [step] at h
  split at h
  next c rest _ => exact ⟨rest, exec_keeps h⟩
  next => cases h; exact ⟨s.pending, Keeps.refl s⟩

/-- Settles O11: what every command keeps, projected to the array. -/
theorem arrayStaysCanonical : Obligations.ArrayStaysCanonical := by
  intro s t hs h
  obtain ⟨q, hkeeps⟩ := step_keeps h
  exact hkeeps.array hs

/-- Settles O12: what every command keeps, projected to the link and to the supply timers. -/
theorem linkAndTimersKeepTheirLaws : Obligations.LinkAndTimersKeepTheirLaws := by
  refine ⟨fun s t hs h => ?_, fun s t hs h => ?_⟩
  · obtain ⟨q, hkeeps⟩ := step_keeps h
    exact hkeeps.link hs
  · obtain ⟨q, hkeeps⟩ := step_keeps h
    exact hkeeps.timers hs

/-- Settles O13: what every command keeps, projected to the Request Table. -/
theorem requestTableKeepsItsLaws : Obligations.RequestTableKeepsItsLaws := by
  intro s t hs h
  obtain ⟨q, hkeeps⟩ := step_keeps h
  exact hkeeps.table hs

/-- Settles O14: what every command keeps, projected to the Directory and to the one that mount builds. -/
theorem directoryKeepsItsLaws : Obligations.DirectoryKeepsItsLaws := by
  intro s t hs h
  obtain ⟨q, hkeeps⟩ := step_keeps h
  exact hkeeps.directory hs

/-- Settles O15: what every command keeps, projected to the Write Queue, the Staging Buffer and the open group. -/
theorem queuesKeepTheirBounds : Obligations.QueuesKeepTheirBounds := by
  intro s t hs h
  obtain ⟨q, hkeeps⟩ := step_keeps h
  exact hkeeps.queue hs

/-- Settles O16: what every command keeps, projected to the space accounts. -/
theorem spaceAccountsAgree : Obligations.SpaceAccountsAgree := by
  intro s t hs h
  obtain ⟨q, hkeeps⟩ := step_keeps h
  exact hkeeps.account hs

/-- Settles O17: what every command keeps, projected to the OPEN sectors. -/
theorem oneSectorOpen : Obligations.OneSectorOpen := by
  intro s t hs h
  obtain ⟨q, hkeeps⟩ := step_keeps h
  exact hkeeps.opens hs

/-- Settles O10: the restart values of the blocks, law by law. -/
theorem resetMeetsLaws : Obligations.ResetMeetsLaws :=
  ⟨reset_arrayOk, reset_linkOk, reset_tableOk, reset_directoryOk, reset_queueOk, reset_accountOk, reset_timersOk,
    ⟨rfl, rfl⟩, reset_openOk⟩

/-- Settles O1: the two branches of the step. -/
theorem stepRunsFrontCommand : Obligations.StepRunsFrontCommand := by
  refine ⟨fun c rest s => rfl, fun s h => ?_⟩
  simp only [step, h]

end Sys2Proof.Machine
end

section
/-! PROOFS. No command leaves a mark of its event standing, and every command completes (logs 1, 7 and 8). -/

namespace Sys2Proof.Machine

/-- From `s` to `t` clear marks stay clear. -/
def State.staysClean (s t : State) : Prop := s.marksOk → t.marksOk

/-- The marks are not touched. -/
theorem State.staysClean_of_eq {s t : State} (hd : t.dev.restartDue = s.dev.restartDue) (hw : t.sm.wearDue = s.sm.wearDue) :
    s.staysClean t := fun h => ⟨hd.trans h.1, hw.trans h.2⟩

theorem State.staysClean_refl (s : State) : s.staysClean s := id

theorem State.restart_marks (s : State) : s.restart.marksOk := by
  simp only [State.restart]
  split
  · simp [State.marksOk, State.reset]
  · exact ⟨rfl, rfl⟩

theorem State.conclude_marks {s : State} (h : s.sm.wearDue = false) : s.conclude.marksOk := by
  simp only [State.conclude]
  split
  · exact s.restart_marks
  next hdue => exact ⟨by simpa using hdue, by simpa using h⟩

theorem State.wearCheck_clear (s : State) : s.wearCheck.sm.wearDue = false := by
  simp only [State.wearCheck]
  split
  · split
    · split <;> simp
    · rfl
  next h => simpa using h

theorem State.considered_clear (s : State) : s.considered.sm.wearDue = false := by
  simp only [State.considered]
  simpa using State.wearCheck_clear _

theorem State.settle_marks (s : State) : s.settle.marksOk := by
  rw [State.settle]
  exact State.conclude_marks s.considered_clear

theorem State.settleFor_marks (tag : Byte) (s : State) : (s.settleFor tag).marksOk := by
  have hclear := s.considered_clear
  rw [State.settleFor]
  generalize s.considered = u at hclear ⊢
  have htold : (u.tellPending tag).sm.wearDue = false := by simpa using hclear
  exact State.conclude_marks htold

theorem State.consultFor_clean (tag : Byte) (s : State) : s.staysClean (s.consultFor tag) :=
  State.staysClean_of_eq (by simp [State.consultFor]) (by simp [State.consultFor])

theorem State.considerArrival_clean (tag : Byte) (s : State) : s.staysClean (s.considerArrival tag) := by
  simp only [State.considerArrival]
  split
  · exact State.staysClean_of_eq (by simp [State.consultFor]) (by simp [State.consultFor])
  · exact fun _ => State.settleFor_marks _ _

theorem State.afterDiscard_clean (s : State) : s.staysClean s.afterDiscard := by
  simp only [State.afterDiscard]
  split
  · exact State.staysClean_of_eq (by simp) (by simp)
  · exact fun _ => State.settle_marks _

theorem State.answer_consult_clean (tag : Byte) (st : Status) (fields : List Byte) (s : State) :
    s.staysClean (s.answer tag st fields).consult := State.staysClean_of_eq (by simp) (by simp)

/-! ## The requests -/

theorem State.acceptNew_clean {kind : ReqKind} {act : Byte → Request → State → State} {f : Frame} {s : State}
    (h : ∀ (r : Request) (t : State), t.staysClean (act f.tag r t)) : s.staysClean (State.acceptNew kind act f s) := by
  simp only [State.acceptNew]
  split
  · exact State.staysClean_of_eq (by simp) (by simp)
  split
  · exact State.staysClean_of_eq (by simp) (by simp)
  split
  · exact State.staysClean_of_eq (by simp) (by simp)
  next r _ =>
    split
    · exact State.staysClean_of_eq (by simp) (by simp)
    · exact fun hs => h r _ ⟨by simpa using hs.1, by simpa using hs.2⟩

theorem State.accept_clean {kind : ReqKind} {act : Byte → Request → State → State} {f : Frame} {s : State}
    (h : ∀ (r : Request) (t : State), t.staysClean (act f.tag r t)) : s.staysClean (State.accept kind act f s) := by
  simp only [State.accept, State.retryOr]
  split
  · split
    · exact State.staysClean_of_eq (by simp) (by simp)
    · exact State.acceptNew_clean h
  · exact State.acceptNew_clean h

theorem State.getRead_clean (tag : Byte) (k : Key) (d : DurablePart) (s : State) : s.staysClean (s.getRead tag k d) :=
  State.staysClean_of_eq (by simp [State.getRead]) (by simp [State.getRead])

theorem State.actGet_clean (tag : Byte) (k : Key) (s : State) : s.staysClean (s.actGet tag k) := by
  simp only [State.actGet]
  split
  · exact State.answer_consult_clean _ _ _ s
  · split
    · exact State.answer_consult_clean _ _ _ s
    · exact State.answer_consult_clean _ _ _ s
    · simp only [State.getPresent]
      split
      · split
        · exact State.answer_consult_clean _ _ _ s
        · exact State.answer_consult_clean _ _ _ s
      · split
        · exact State.getRead_clean _ _ _ s
        · exact State.answer_consult_clean _ _ _ s

theorem State.actStat_clean (tag : Byte) (k : Key) (s : State) : s.staysClean (s.actStat tag k) := by
  simp only [State.actStat]
  split
  · exact State.answer_consult_clean _ _ _ s
  · exact State.answer_consult_clean _ _ _ s

theorem State.listStep_clean (tag : Byte) (l : Listing) (s : State) : s.staysClean (s.listStep tag l) := by
  simp only [State.listStep]
  split
  · exact State.staysClean_of_eq (by simp) (by simp)
  · exact State.answer_consult_clean _ _ _ s

theorem State.joinList_clean (tag : Byte) (s : State) : s.staysClean (s.joinList tag) := by
  simp only [State.joinList]
  split
  · exact State.considerArrival_clean tag (s.modQueue (fun q => { q with admission := q.admission ++ [tag] }))
  · exact State.staysClean_of_eq (by simp [State.consultFor]) (by simp [State.consultFor])

theorem State.actBegin_clean (tag : Byte) (s : State) : s.staysClean (s.actBegin tag) := by
  simp only [State.actBegin]
  split
  · exact State.answer_consult_clean _ _ _ s
  · exact State.staysClean_of_eq (by simp) (by simp)

theorem State.actAbort_clean (tag : Byte) (s : State) : s.staysClean (s.actAbort tag) := by
  simp only [State.actAbort]
  split
  next g _ =>
    have hdiscard : s.staysClean (s.discardGroup.answer tag .ok (le 1 g.members.length)) :=
      State.staysClean_of_eq (by simp) (by simp)
    exact fun h => State.afterDiscard_clean _ (hdiscard h)
  next => exact State.answer_consult_clean _ _ _ s

theorem State.actTidy_clean (tag : Byte) (threshold : Nat) (s : State) : s.staysClean (s.actTidy tag threshold) := by
  simp only [State.actTidy]
  split
  · exact State.answer_consult_clean _ _ _ s
  split
  · exact State.answer_consult_clean _ _ _ s
  · exact fun _ => State.settleFor_marks _ _

theorem State.actFormat_clean (tag : Byte) (s : State) : s.staysClean (s.actFormat tag) := by
  simp only [State.actFormat]
  split
  · exact State.answer_consult_clean _ _ _ s
  · exact fun _ => State.settleFor_marks _ _

theorem State.resetReply_clean (tag : Byte) (s : State) : s.staysClean (s.resetReply tag) := by
  simp only [State.resetReply]
  split
  · exact fun _ => State.restart_marks _
  next hdue => exact fun h => ⟨by simpa using hdue, by simpa [State.setLatch] using h.2⟩

theorem State.actReset_clean (tag : Byte) (mode : ResetMode) (s : State) : s.staysClean (s.actReset tag mode) := by
  simp only [State.actReset]
  split
  · exact State.answer_consult_clean _ _ _ s
  · split
    · have hdrain : s.staysClean (if s.dev.state = .online then s.setDevice .draining else s) := by
        split
        · exact State.staysClean_of_eq (by simp) (by simp)
        · exact s.staysClean_refl
      simp only [State.resetDrain]
      generalize (if s.dev.state = .online then s.setDevice .draining else s) = t at hdrain ⊢
      split
      · exact fun h => State.resetReply_clean tag t (hdrain h)
      · exact fun h => State.consultFor_clean tag (t.waitFor tag .drain) ⟨by simpa using (hdrain h).1, by simpa using (hdrain h).2⟩
    · exact State.resetReply_clean tag (s.modQueue (fun q => { q with frozen := true }))

theorem State.actHello_clean (tag : Byte) (id : Nat) (baud : Option Nat) (s : State) : s.staysClean (s.actHello tag id baud) := by
  simp only [State.actHello]
  generalize hu : ({ s.orphanSlots with req := { s.orphanSlots.req with cache := [], session := id } } : State) = u
  have hended : s.staysClean (u.discardGroup.helloReply tag id baud) := by
    subst hu
    exact State.staysClean_of_eq (by simp [State.helloReply, State.orphanSlots]) (by simp [State.helloReply, State.orphanSlots])
  split
  · exact fun h => State.afterDiscard_clean _ (hended h)
  · exact fun h => ⟨by simpa using (hended h).1, by simpa using (hended h).2⟩

theorem State.takeUnknown_clean (f : Frame) (s : State) : s.staysClean (s.takeUnknown f) := by
  have hnew : s.staysClean (s.acceptUnknown f) := by
    simp only [State.acceptUnknown]
    split
    · exact State.staysClean_of_eq (by simp) (by simp)
    split
    · exact State.staysClean_of_eq (by simp) (by simp)
    · exact State.staysClean_of_eq (by simp) (by simp)
  simp only [State.takeUnknown, State.retryOr]
  split
  · split
    · exact State.staysClean_of_eq (by simp) (by simp)
    · exact hnew
  · exact hnew

theorem State.handOver_clean (f : Frame) (s : State) : s.staysClean (s.handOver f) := by
  cases h : kindOf f.kind with
  | none =>
    simp only [State.handOver, h]
    exact State.takeUnknown_clean f s
  | some k =>
    simp only [State.handOver, h]
    cases k
    case hello =>
      simp only [State.takeHello]
      split
      · exact State.actHello_clean _ _ _ s
      · exact State.staysClean_of_eq (by simp) (by simp)
    case get =>
      refine State.accept_clean (fun r t => ?_)
      split
      · exact State.actGet_clean _ _ t
      · exact t.staysClean_refl
    case stat =>
      refine State.accept_clean (fun r t => ?_)
      split
      · exact State.actStat_clean _ _ t
      · exact t.staysClean_refl
    case list =>
      refine State.accept_clean (fun r t => ?_)
      split
      · exact State.listStep_clean _ _ t
      · exact t.staysClean_refl
    case put => exact State.accept_clean (fun _ t => State.joinList_clean _ t)
    case delete => exact State.accept_clean (fun _ t => State.joinList_clean _ t)
    case fence => exact State.accept_clean (fun _ t => State.joinList_clean _ t)
    case beginGroup => exact State.accept_clean (fun _ t => State.actBegin_clean _ t)
    case commit => exact State.accept_clean (fun _ t => State.joinList_clean _ t)
    case abort => exact State.accept_clean (fun _ t => State.actAbort_clean _ t)
    case space => exact State.accept_clean (fun _ t => State.answer_consult_clean _ _ _ t)
    case sectors =>
      refine State.accept_clean (fun r t => ?_)
      split
      · exact State.answer_consult_clean _ _ _ t
      · exact t.staysClean_refl
    case tidy =>
      refine State.accept_clean (fun r t => ?_)
      split
      · exact State.actTidy_clean _ _ t
      · exact t.staysClean_refl
    case format => exact State.accept_clean (fun _ t => State.actFormat_clean _ t)
    case reset =>
      refine State.accept_clean (fun r t => ?_)
      split
      · exact State.actReset_clean _ _ t
      · exact t.staysClean_refl

/-! ## The other events -/

theorem State.staysClean_unlessHeld {f : State → State} {s : State} (h : s.staysClean (f s)) : s.staysClean (s.unlessHeld f) := by
  simp only [State.unlessHeld]
  split
  · exact s.staysClean_refl
  · exact h

theorem State.staysClean_next {s t u : State} (h : s.staysClean u)
    (ht : Host.Outcome.next u = (.next t : Host.Outcome State Fault Refusal)) : s.staysClean t := by cases ht; exact h

theorem State.discardFrame_clean (s : State) : s.staysClean s.discardFrame :=
  State.staysClean_of_eq (by simp [State.discardFrame]) (by simp [State.discardFrame])

theorem State.takeChar_clean (c : Byte) (s : State) : s.staysClean (s.takeChar c) := by
  have hstore : ∀ rx got, s.staysClean (s.storeByte rx got) := fun _ _ => State.staysClean_of_eq rfl rfl
  simp only [State.takeChar]
  split
  · split
    · exact hstore _ _
    · exact s.staysClean_refl
  · simp only [State.headerByte]
    split
    · exact s.discardFrame_clean
    split
    · exact hstore _ _
    split
    · exact hstore _ _
    · exact hstore _ _
  · simp only [State.payloadByte]
    split
    · exact hstore _ _
    · exact hstore _ _
  · simp only [State.checkByte]
    split
    · exact hstore _ _
    split
    · exact State.handOver_clean _ (s.modLink Link.hunt)
    · exact s.discardFrame_clean

theorem State.framingError_clean (s : State) : s.staysClean s.framingError := by
  simp only [State.framingError]
  split
  · exact s.staysClean_refl
  all_goals exact s.discardFrame_clean

theorem State.frameLeaves_clean (e : TxFrame) (s : State) : s.staysClean (s.frameLeaves e) := by
  simp only [State.frameLeaves]
  split
  · exact fun _ => State.restart_marks _
  · split
    · exact State.staysClean_of_eq (by simp [State.popTx]) (by simp [State.popTx])
    · exact State.staysClean_of_eq (by simp [State.popTx]) (by simp [State.popTx])

theorem State.takeBreak_clean (s : State) : s.staysClean s.takeBreak := by
  simp only [State.takeBreak]
  split
  · exact fun _ => State.restart_marks _
  · exact State.staysClean_of_eq (by simp) (by simp)

/-- A word program or erase of the array's operation that ends, or a read of it: an event that ends in every block's
considerations. -/
theorem State.staysClean_settle (s u : State) : s.staysClean u.settle := fun _ => State.settle_marks u

/-- The commands whose effect rests on the array's operation leave the marks clear. -/
theorem execGetReadComplete_clean {decayed : List (Nat × RawWord)} {s t : State}
    (h : execGetReadComplete decayed s = .next t) : s.staysClean t := by
  simp only [execGetReadComplete] at h
  split at h
  · exact State.staysClean_next s.staysClean_refl h
  · split at h
    · split at h
      · split at h
        · exact State.staysClean_next (State.staysClean_settle s _) h
        · cases h
      · exact State.staysClean_next s.staysClean_refl h
      · exact State.staysClean_next s.staysClean_refl h
    · exact State.staysClean_next s.staysClean_refl h
    · exact State.staysClean_next s.staysClean_refl h

theorem execReclaimReadComplete_clean {decayed : List (Nat × RawWord)} {s t : State}
    (h : execReclaimReadComplete decayed s = .next t) : s.staysClean t := by
  simp only [execReclaimReadComplete] at h
  split at h
  · exact State.staysClean_next s.staysClean_refl h
  · split at h
    · split at h
      · split at h
        · exact State.staysClean_next (State.staysClean_settle s _) h
        · cases h
      · exact State.staysClean_next s.staysClean_refl h
      · exact State.staysClean_next s.staysClean_refl h
    · exact State.staysClean_next s.staysClean_refl h
    · exact State.staysClean_next s.staysClean_refl h

theorem execMountReadComplete_clean {decayed : List (Nat × RawWord)} {s t : State}
    (h : execMountReadComplete decayed s = .next t) : s.staysClean t := by
  simp only [execMountReadComplete] at h
  split at h
  · exact State.staysClean_next s.staysClean_refl h
  · split at h
    · split at h
      · split at h
        · exact State.staysClean_next (State.staysClean_settle s _) h
        · cases h
      · exact State.staysClean_next s.staysClean_refl h
      · exact State.staysClean_next s.staysClean_refl h
    · exact State.staysClean_next s.staysClean_refl h
    · exact State.staysClean_next s.staysClean_refl h

theorem execWordProgramComplete_clean {verified : Bool} {s t : State} (h : execWordProgramComplete verified s = .next t) :
    s.staysClean t := by
  simp only [execWordProgramComplete] at h
  split at h
  · exact State.staysClean_next s.staysClean_refl h
  · split at h
    · split at h
      · exact State.staysClean_next (State.staysClean_settle s _) h
      · cases h
    · exact State.staysClean_next s.staysClean_refl h
    · exact State.staysClean_next s.staysClean_refl h

theorem execWordProgramTimeout_clean {s t : State} (h : execWordProgramTimeout s = .next t) : s.staysClean t := by
  simp only [execWordProgramTimeout] at h
  split at h
  · exact State.staysClean_next s.staysClean_refl h
  · split at h
    · split at h
      · exact State.staysClean_next (State.staysClean_settle s _) h
      · cases h
    · exact State.staysClean_next s.staysClean_refl h
    · split at h
      · exact State.staysClean_next (State.staysClean_settle s _) h
      · cases h
    · exact State.staysClean_next s.staysClean_refl h

theorem execErasePulseComplete_clean {stuck : List (Nat × RawWord)} {s t : State}
    (h : execErasePulseComplete stuck s = .next t) : s.staysClean t := by
  simp only [execErasePulseComplete] at h
  split at h
  · exact State.staysClean_next s.staysClean_refl h
  · split at h
    · split at h
      · exact State.staysClean_next (State.staysClean_of_eq (by simp) (by simp)) h
      · cases h
    · exact State.staysClean_next s.staysClean_refl h

theorem execEraseWordProgramComplete_clean {verified : Bool} {s t : State}
    (h : execEraseWordProgramComplete verified s = .next t) : s.staysClean t := by
  simp only [execEraseWordProgramComplete] at h
  split at h
  · exact State.staysClean_next s.staysClean_refl h
  · split at h
    · split at h
      · exact State.staysClean_next (State.staysClean_settle s _) h
      · cases h
    · exact State.staysClean_next s.staysClean_refl h

theorem of_frame_clean {f : Frame} {s t : State} (h : exec (frameCommand f) s = .next t) : s.staysClean t := by
  cases hheld : s.held with
  | false =>
    rw [exec_frame hheld] at h
    exact State.staysClean_next (s.handOver_clean f) h
  | true =>
    rw [exec_frame_held hheld] at h
    exact State.staysClean_next s.staysClean_refl h

theorem of_request_clean {k : ReqKind} {tag flags : Byte} {payload : List Byte} {s t : State}
    (h : exec (requestCommand k tag flags payload) s = .next t) : s.staysClean t := by
  rw [← frameCommand_request] at h
  exact of_frame_clean h

/-- An event of a controller that may be held: its effect decides. -/
theorem of_unlessHeld_clean {f : State → State} {s t : State}
    (ht : Host.Outcome.next (s.unlessHeld f) = (.next t : Host.Outcome State Fault Refusal)) (h : s.staysClean (f s)) :
    s.staysClean t := State.staysClean_next (State.staysClean_unlessHeld h) ht

theorem execPowerOnRelease_clean {aboveNormal : Bool} {s t : State} (h : execPowerOnRelease aboveNormal s = .next t) :
    s.staysClean t := by
  refine State.staysClean_next ?_ h
  split
  · dsimp only
    split
    · exact State.staysClean_of_eq rfl rfl
    · exact fun _ => State.restart_marks _
  · exact s.staysClean_refl

theorem execNresetHigh_clean {s t : State} (h : execNresetHigh s = .next t) : s.staysClean t := by
  refine State.staysClean_next ?_ h
  split
  · dsimp only
    split
    · exact State.staysClean_of_eq rfl rfl
    · exact fun _ => State.restart_marks _
  · exact s.staysClean_refl

theorem execSupplyBelowHold_clean {s t : State} (h : execSupplyBelowHold s = .next t) : s.staysClean t := by
  refine State.staysClean_next ?_ h
  split
  · exact State.staysClean_of_eq rfl rfl
  · split
    · exact State.staysClean_settle s _
    · exact State.staysClean_of_eq rfl rfl

theorem execQualificationTimerExpiry_clean {s t : State} (h : execQualificationTimerExpiry s = .next t) : s.staysClean t := by
  refine State.staysClean_next ?_ h
  split
  · split
    · exact State.staysClean_of_eq rfl rfl
    · exact State.staysClean_settle s _
  · exact s.staysClean_refl

/-- A condition decides between an effect and none. -/
theorem State.staysClean_ite {p : Prop} [Decidable p] {s u : State} (h : s.staysClean u) :
    s.staysClean (if p then u else s) := by
  split
  · exact h
  · exact s.staysClean_refl

theorem execListStep_clean {tag : Byte} {s t : State} (h : execListStep tag s = .next t) : s.staysClean t := by
  refine of_unlessHeld_clean h ?_
  split
  · split
    · exact State.listStep_clean _ _ s
    · exact s.staysClean_refl
    · exact s.staysClean_refl
  · exact s.staysClean_refl

theorem execEraseSuspend_clean {s t : State} (h : execEraseSuspend s = .next t) : s.staysClean t := by
  refine of_unlessHeld_clean h ?_
  split
  · exact State.staysClean_ite (State.staysClean_of_eq (by simp) (by simp))
  · exact s.staysClean_refl

theorem execEraseTimeout_clean {s t : State} (h : execEraseTimeout s = .next t) : s.staysClean t := by
  refine of_unlessHeld_clean h ?_
  split
  · exact State.staysClean_settle s _
  · exact s.staysClean_refl

theorem execBlankCheckComplete_clean {s t : State} (h : execBlankCheckComplete s = .next t) : s.staysClean t := by
  refine of_unlessHeld_clean h ?_
  split
  · split
    · exact State.staysClean_of_eq (by simp) (by simp)
    · exact State.staysClean_settle s _
  · exact s.staysClean_refl

theorem execCharacterReceived_clean {c : Byte} {framing : Bool} {s t : State}
    (h : execCharacterReceived c framing s = .next t) : s.staysClean t := by
  refine of_unlessHeld_clean h ?_
  split
  · exact s.framingError_clean
  · exact s.takeChar_clean c

theorem execFrameSent_clean {s t : State} (h : execFrameSent s = .next t) : s.staysClean t := by
  refine of_unlessHeld_clean h ?_
  split
  · exact s.frameLeaves_clean _
  · exact s.staysClean_refl

/-- Every command that finds the marks clear leaves them clear. -/
theorem exec_clean {c : Instr} {s t : State} (h : exec c s = .next t) : s.staysClean t := by
  cases c with
  | hello => exact of_request_clean (k := .hello) h
  | get => exact of_request_clean (k := .get) h
  | stat => exact of_request_clean (k := .stat) h
  | list => exact of_request_clean (k := .list) h
  | put => exact of_request_clean (k := .put) h
  | delete => exact of_request_clean (k := .delete) h
  | fence => exact of_request_clean (k := .fence) h
  | beginGroup => exact of_request_clean (k := .beginGroup) h
  | commit => exact of_request_clean (k := .commit) h
  | abort => exact of_request_clean (k := .abort) h
  | space => exact of_request_clean (k := .space) h
  | sectors => exact of_request_clean (k := .sectors) h
  | tidy => exact of_request_clean (k := .tidy) h
  | format => exact of_request_clean (k := .format) h
  | reset => exact of_request_clean (k := .reset) h
  | unknownKindFrame => exact of_unlessHeld_clean h (State.takeUnknown_clean _ s)
  | characterReceived => exact execCharacterReceived_clean h
  | gapTimerExpiry => exact of_unlessHeld_clean h (State.staysClean_ite s.discardFrame_clean)
  | breakRecognised => exact of_unlessHeld_clean h s.takeBreak_clean
  | frameSent => exact execFrameSent_clean h
  | listStep => exact execListStep_clean h
  | getReadComplete => exact execGetReadComplete_clean h
  | reclaimReadComplete => exact execReclaimReadComplete_clean h
  | mountReadComplete => exact execMountReadComplete_clean h
  | wordProgramComplete => exact execWordProgramComplete_clean h
  | wordProgramTimeout => exact execWordProgramTimeout_clean h
  | eraseSuspend => exact execEraseSuspend_clean h
  | erasePulseComplete => exact execErasePulseComplete_clean h
  | eraseTimeout => exact execEraseTimeout_clean h
  | blankCheckComplete => exact execBlankCheckComplete_clean h
  | eraseWordProgramComplete => exact execEraseWordProgramComplete_clean h
  | eraseWindowExpiry => exact of_unlessHeld_clean h (State.staysClean_ite (State.staysClean_settle s _))
  | supplyBelowHold => exact execSupplyBelowHold_clean h
  | supplyAboveNormal => exact State.staysClean_next (by exact State.staysClean_ite (State.staysClean_of_eq rfl rfl)) h
  | supplyFallInQualification => exact State.staysClean_next (by exact State.staysClean_of_eq rfl rfl) h
  | qualificationTimerExpiry => exact execQualificationTimerExpiry_clean h
  | holdTimerExpiry => exact of_unlessHeld_clean h (State.staysClean_ite (State.staysClean_settle s _))
  | powerOnResetAsserted => exact State.staysClean_next (State.staysClean_of_eq (by simp) (by simp)) h
  | powerOnRelease => exact execPowerOnRelease_clean h
  | nresetLow => exact State.staysClean_next (State.staysClean_of_eq (by simp) (by simp)) h
  | nresetHigh => exact execNresetHigh_clean h
  | supplyAbovePowerOnThreshold =>
    exact State.staysClean_next (by exact State.staysClean_ite (State.staysClean_of_eq rfl rfl)) h

/-- Settles O2: what every command keeps of the queue and of the marks, and the order of an event's end, branch by
branch. -/
theorem eventsEndClean : Obligations.EventsEndClean := by
  refine ⟨fun c s t h => ⟨(exec_keeps h).pending, exec_clean h⟩, fun s tag => ?_⟩
  intro round considered ends listed told
  have hconsidered : considered = s.considered := by
    simp only [considered, round, State.considered, State.considerAll]
  have hends : ∀ x, ends x = x.conclude := fun x => rfl
  rw [hconsidered, hends, hends]
  refine ⟨by rw [State.settle], by rw [State.settleFor], fun hsame => ⟨?_, ?_, ?_⟩, fun hne => ⟨?_, ?_⟩⟩
  · exact if_pos hsame
  · exact fun hlist => if_pos ⟨hsame, hlist⟩
  · exact fun hlist => if_neg (fun h => hlist h.2)
  · exact if_neg hne
  · exact if_neg (fun h => hne h.1)

/-! ## Every command completes -/

/-- An operation that lies in the array is carried out (R1). -/
theorem exists_next_of_if {p : Prop} [Decidable p] (h : p) (u : State) (e : Fault) :
    ∃ t : State, (if p then .next u else .fault e : Host.Outcome State Fault Refusal) = .next t := ⟨u, if_pos h⟩

theorem ReadReq.inside_of {r : ReadReq} (h : r.sector < 128 ∧ r.offset / 8 + r.words ≤ 4096) : r.inside = true :=
  decide_eq_true h

theorem State.eraseIn_mem {s : State} {p : ErasePhase} {q : EraseReq} (h : s.eraseIn p = some q) :
    ∃ r, s.arr.erase = some r ∧ r.req = q ∧ r.phase = p := by
  simp only [State.eraseIn] at h
  split at h
  next r hr =>
    split at h
    next hp => cases h; exact ⟨r, hr, rfl, hp⟩
    next => cases h
  next => cases h

section
variable {s : State} (hread : ∀ r, s.arr.op = some (.read r) → r.sector < 128 ∧ r.offset / 8 + r.words ≤ 4096)
  (hword : ∀ w, s.arr.op = some (.word w) → w.sector < 128 ∧ w.index < 4096)
  (herase : ∀ r, s.arr.erase = some r → r.req.sector < 128)
include hread in
theorem execGetReadComplete_completes (decayed : List (Nat × RawWord)) : ∃ t, execGetReadComplete decayed s = .next t := by
  simp only [execGetReadComplete]
  split
  · exact ⟨s, rfl⟩
  · split
    next r hr =>
      split
      · exact exists_next_of_if (ReadReq.inside_of (hread r hr)) _ _
      · exact ⟨s, rfl⟩
      · exact ⟨s, rfl⟩
    · exact ⟨s, rfl⟩
    · exact ⟨s, rfl⟩

include hread in
theorem execReclaimReadComplete_completes (decayed : List (Nat × RawWord)) :
    ∃ t, execReclaimReadComplete decayed s = .next t := by
  simp only [execReclaimReadComplete]
  split
  · exact ⟨s, rfl⟩
  · split
    next r hr =>
      split
      · exact exists_next_of_if (ReadReq.inside_of (hread r hr)) _ _
      · exact ⟨s, rfl⟩
      · exact ⟨s, rfl⟩
    · exact ⟨s, rfl⟩
    · exact ⟨s, rfl⟩

include hread in
theorem execMountReadComplete_completes (decayed : List (Nat × RawWord)) :
    ∃ t, execMountReadComplete decayed s = .next t := by
  simp only [execMountReadComplete]
  split
  · exact ⟨s, rfl⟩
  · split
    next r hr =>
      split
      · exact exists_next_of_if (ReadReq.inside_of (hread r hr)) _ _
      · exact ⟨s, rfl⟩
      · exact ⟨s, rfl⟩
    · exact ⟨s, rfl⟩
    · exact ⟨s, rfl⟩

include hword in
theorem execWordProgramComplete_completes (verified : Bool) : ∃ t, execWordProgramComplete verified s = .next t := by
  simp only [execWordProgramComplete]
  split
  · exact ⟨s, rfl⟩
  · split
    next w hw => exact exists_next_of_if (decide_eq_true (hword w hw)) _ _
    · exact ⟨s, rfl⟩
    · exact ⟨s, rfl⟩

include hword herase in
theorem execWordProgramTimeout_completes : ∃ t, execWordProgramTimeout s = .next t := by
  simp only [execWordProgramTimeout]
  split
  · exact ⟨s, rfl⟩
  · split
    next w hw => exact exists_next_of_if (decide_eq_true (hword w hw)) _ _
    · exact ⟨s, rfl⟩
    next q _ hq =>
      obtain ⟨r, hr, rfl, _⟩ := State.eraseIn_mem hq
      exact exists_next_of_if (herase r hr) _ _
    · exact ⟨s, rfl⟩

include herase in
theorem execErasePulseComplete_completes (stuck : List (Nat × RawWord)) : ∃ t, execErasePulseComplete stuck s = .next t := by
  simp only [execErasePulseComplete]
  split
  · exact ⟨s, rfl⟩
  · split
    next q hq =>
      obtain ⟨r, hr, rfl, _⟩ := State.eraseIn_mem hq
      exact exists_next_of_if (herase r hr) _ _
    · exact ⟨s, rfl⟩

include herase in
theorem execEraseWordProgramComplete_completes (verified : Bool) : ∃ t, execEraseWordProgramComplete verified s = .next t := by
  simp only [execEraseWordProgramComplete]
  split
  · exact ⟨s, rfl⟩
  · split
    next q hq =>
      obtain ⟨r, hr, rfl, _⟩ := State.eraseIn_mem hq
      exact exists_next_of_if (herase r hr) _ _
    · exact ⟨s, rfl⟩

end

/-- Settles O3: the commands that act on the array's operation or erase, and all others, which have no other outcome. -/
theorem everyCommandCompletes : Obligations.EveryCommandCompletes := by
  intro c s hread hword herase
  cases c
  case getReadComplete => exact execGetReadComplete_completes hread _
  case reclaimReadComplete => exact execReclaimReadComplete_completes hread _
  case mountReadComplete => exact execMountReadComplete_completes hread _
  case wordProgramComplete => exact execWordProgramComplete_completes hword _
  case wordProgramTimeout => exact execWordProgramTimeout_completes hword herase
  case erasePulseComplete => exact execErasePulseComplete_completes herase _
  case eraseWordProgramComplete => exact execEraseWordProgramComplete_completes herase _
  all_goals exact ⟨_, rfl⟩

end Sys2Proof.Machine
end

section
/-! PROOFS. Payloads: each field's decoding is the inverse of its encoding, and so are the requests' (R185, R186). -/

namespace Sys2Proof.Machine

/-! ## Little-endian integers -/

@[simp] theorem length_le_bytes (n v : Nat) : (le n v).length = n := by
  induction n generalizing v with
  | zero => rfl
  | succ n ih => simp [le, ih]

theorem fromLe_lt (bs : List Byte) : fromLe bs < 256 ^ bs.length := by
  induction bs with
  | nil => simp [fromLe]
  | cons b rest ih =>
    have := b.isLt
    simp only [fromLe, List.length_cons, Nat.pow_succ]
    omega

theorem le_fromLe (bs : List Byte) : le bs.length (fromLe bs) = bs := by
  induction bs with
  | nil => rfl
  | cons b rest ih =>
    have hb := b.isLt
    have hlow : BitVec.ofNat 8 (fromLe (b :: rest)) = b := by
      apply BitVec.eq_of_toNat_eq
      simp only [fromLe, BitVec.toNat_ofNat]
      omega
    have hhigh : fromLe (b :: rest) / 256 = fromLe rest := by
      simp only [fromLe]
      omega
    rw [List.length_cons, le, hlow, hhigh, ih]

theorem fromLe_le_mod (n v : Nat) : fromLe (le n v) = v % 256 ^ n := by
  induction n generalizing v with
  | zero => simp [le, fromLe, Nat.mod_one]
  | succ n ih =>
    simp only [le, fromLe, BitVec.toNat_ofNat, ih]
    rw [show 256 ^ (n + 1) = 256 * 256 ^ n from Nat.pow_succ', Nat.mod_mul]

theorem fromLe_le {n v : Nat} (h : v < 256 ^ n) : fromLe (le n v) = v := by
  rw [fromLe_le_mod, Nat.mod_eq_of_lt h]

theorem le_one_toNat (b : Byte) : le 1 b.toNat = [b] := by
  rw [le_one, BitVec.ofNat_toNat, BitVec.setWidth_eq]

/-! ## Fields -/

theorem takeBytes_eq_some {n : Nat} {bs x rest : List Byte} :
    takeBytes n bs = some (x, rest) ↔ x.length = n ∧ bs = x ++ rest := by
  simp only [takeBytes, Option.ite_none_right_eq_some, Option.some.injEq, Prod.mk.injEq]
  constructor
  · rintro ⟨hle, rfl, rfl⟩
    exact ⟨List.length_take.trans (Nat.min_eq_left hle), (List.take_append_drop n bs).symm⟩
  · rintro ⟨rfl, rfl⟩
    simp

theorem takeNum_eq_some {n v : Nat} {bs rest : List Byte} :
    takeNum n bs = some (v, rest) ↔ v < 256 ^ n ∧ bs = le n v ++ rest := by
  simp only [takeNum]
  constructor
  · intro h
    split at h
    next x r hx =>
      cases h
      obtain ⟨rfl, rfl⟩ := takeBytes_eq_some.1 hx
      exact ⟨fromLe_lt x, by rw [le_fromLe]⟩
    next => cases h
  · rintro ⟨hv, rfl⟩
    have htake : takeBytes n (le n v ++ rest) = some (le n v, rest) := takeBytes_eq_some.2 ⟨length_le_bytes n v, rfl⟩
    simp only [htake, fromLe_le hv]

theorem takeKey_eq_some {bs rest : List Byte} {k : Key} :
    takeKey bs = some (k, rest) ↔ (1 ≤ k.length ∧ k.length ≤ 255) ∧ bs = encodeKey k ++ rest := by
  simp only [takeKey]
  constructor
  · intro h
    split at h
    next n r hn =>
      obtain ⟨hlt, rfl⟩ := takeNum_eq_some.1 hn
      split at h
      next => cases h
      next hpos =>
        obtain ⟨rfl, rfl⟩ := takeBytes_eq_some.1 h
        exact ⟨⟨by omega, by omega⟩, by simp [encodeKey]⟩
    next => cases h
  · rintro ⟨⟨hpos, hle⟩, rfl⟩
    have hnum : takeNum 1 (encodeKey k ++ rest) = some (k.length, k ++ rest) :=
      takeNum_eq_some.2 ⟨by omega, by simp [encodeKey]⟩
    have hbytes : takeBytes k.length (k ++ rest) = some (k, rest) := takeBytes_eq_some.2 ⟨rfl, rfl⟩
    simp only [hnum, hbytes]
    rw [if_neg (by omega)]

theorem takeValue_eq_some {bs rest v : List Byte} :
    takeValue bs = some (v, rest) ↔ v.length < 65536 ∧ bs = encodeValue v ++ rest := by
  simp only [takeValue]
  constructor
  · intro h
    split at h
    next n r hn =>
      obtain ⟨hlt, rfl⟩ := takeNum_eq_some.1 hn
      obtain ⟨rfl, rfl⟩ := takeBytes_eq_some.1 h
      exact ⟨by omega, by simp [encodeValue]⟩
    next => cases h
  · rintro ⟨hle, rfl⟩
    have hnum : takeNum 2 (encodeValue v ++ rest) = some (v.length, v ++ rest) :=
      takeNum_eq_some.2 ⟨by omega, by simp [encodeValue]⟩
    have hbytes : takeBytes v.length (v ++ rest) = some (v, rest) := takeBytes_eq_some.2 ⟨rfl, rfl⟩
    simp only [hnum, hbytes]

theorem takePresence_eq_some {bs rest : List Byte} {p : Bool} :
    takePresence bs = some (p, rest) ↔ bs = flagByte p :: rest := by
  simp only [takePresence]
  constructor
  · intro h
    split at h
    next r hn => cases h; exact (takeNum_eq_some.1 hn).2
    next r hn => cases h; exact (takeNum_eq_some.1 hn).2
    next => cases h
  · rintro rfl
    cases p
    · have hnum : takeNum 1 (flagByte false :: rest) = some (0, rest) := takeNum_eq_some.2 ⟨by decide, rfl⟩
      simp only [hnum]
    · have hnum : takeNum 1 (flagByte true :: rest) = some (1, rest) := takeNum_eq_some.2 ⟨by decide, rfl⟩
      simp only [hnum]

theorem takeFlags_eq_some {bs rest : List Byte} {durable group : Bool} :
    takeFlags bs = some (durable, group, rest) ↔ bs = encodeFlags durable group :: rest := by
  simp only [takeFlags]
  constructor
  · intro h
    split at h
    next n r hn =>
      obtain ⟨_, rfl⟩ := takeNum_eq_some.1 hn
      simp only [Option.ite_none_right_eq_some, Option.some.injEq, Prod.mk.injEq] at h
      obtain ⟨hlt, rfl, rfl, rfl⟩ := h
      have hcases : n = 0 ∨ n = 1 ∨ n = 2 ∨ n = 3 := by omega
      rcases hcases with rfl | rfl | rfl | rfl <;> rfl
    next => cases h
  · rintro rfl
    have hnum : takeNum 1 (encodeFlags durable group :: rest)
        = some ((if durable then 1 else 0) + (if group then 2 else 0), rest) :=
      takeNum_eq_some.2 ⟨by cases durable <;> cases group <;> decide, rfl⟩
    simp only [hnum]
    cases durable <;> cases group <;> rfl

theorem takeOptional_eq_some {present : Bool} {n : Nat} {bs rest : List Byte} {q : Option Nat} :
    takeOptional present n bs = some (q, rest) ↔
      q.isSome = present ∧ (∀ v, q = some v → v < 256 ^ n) ∧ bs = encodeOptional n q ++ rest := by
  simp only [takeOptional]
  cases present
  · simp only [Bool.false_eq_true, if_false, Option.some.injEq, Prod.mk.injEq, Option.isSome_eq_false_iff,
      Option.isNone_iff_eq_none]
    constructor
    · rintro ⟨rfl, rfl⟩
      exact ⟨rfl, by simp, rfl⟩
    · rintro ⟨rfl, _, rfl⟩
      exact ⟨rfl, rfl⟩
  · simp only [if_true]
    constructor
    · intro h
      split at h
      next v r hn =>
        cases h
        obtain ⟨hlt, rfl⟩ := takeNum_eq_some.1 hn
        exact ⟨rfl, by simpa using hlt, rfl⟩
      next => cases h
    · rintro ⟨hsome, hlt, rfl⟩
      obtain ⟨v, rfl⟩ := Option.isSome_iff_exists.1 hsome
      have hnum : takeNum n (encodeOptional n (some v) ++ rest) = some (v, rest) := takeNum_eq_some.2 ⟨hlt v rfl, rfl⟩
      simp only [hnum]

/-! ## Requests -/

theorem decodeKeyOnly_eq_some {f : Key → Request} {bs : List Byte} {r : Request} :
    decodeKeyOnly f bs = some r ↔ ∃ k : Key, (1 ≤ k.length ∧ k.length ≤ Config.maxKey) ∧ bs = encodeKey k ∧ f k = r := by
  simp only [decodeKeyOnly]
  constructor
  · intro h
    split at h
    next k hk =>
      obtain ⟨⟨hpos, _⟩, rfl⟩ := takeKey_eq_some.1 hk
      simp only [Option.ite_none_right_eq_some, Option.some.injEq] at h
      exact ⟨k, ⟨hpos, h.1⟩, by simp, h.2⟩
    next => cases h
  · rintro ⟨k, ⟨hpos, hle⟩, rfl, rfl⟩
    have hkey : takeKey (encodeKey k) = some (k, []) :=
      takeKey_eq_some.2 ⟨⟨hpos, Nat.le_trans hle (by decide)⟩, by simp⟩
    simp only [hkey, hle, if_true]

/-- The request is of this kind, its fields are in range, and these bytes are its encoding. -/
def Request.encodes (r : Request) (k : ReqKind) (bs : List Byte) : Prop := r.kind = k ∧ r.wellFormed = true ∧ r.encode = bs

theorem decodeEmpty_iff {k : ReqKind} {q r : Request} {bs : List Byte} (hq : q.encodes k [])
    (hk : ∀ x : Request, x.kind = k → x = q) : decodeEmpty q bs = some r ↔ r.encodes k bs := by
  rw [decodeEmpty_eq_some]
  constructor
  · rintro ⟨rfl, rfl⟩; exact hq
  · rintro ⟨hkind, _, rfl⟩
    obtain rfl := hk r hkind
    exact ⟨hq.2.2, rfl⟩

theorem decodeGet_iff {bs : List Byte} {r : Request} : decodeKeyOnly .get bs = some r ↔ r.encodes .get bs := by
  rw [decodeKeyOnly_eq_some]
  constructor
  · rintro ⟨k, hk, rfl, rfl⟩
    exact ⟨rfl, decide_eq_true hk, rfl⟩
  · rintro ⟨hkind, hwf, rfl⟩
    cases r with
    | get k => exact ⟨k, of_decide_eq_true hwf, rfl, rfl⟩
    | _ => cases hkind

theorem decodeStat_iff {bs : List Byte} {r : Request} : decodeKeyOnly .stat bs = some r ↔ r.encodes .stat bs := by
  rw [decodeKeyOnly_eq_some]
  constructor
  · rintro ⟨k, hk, rfl, rfl⟩
    exact ⟨rfl, decide_eq_true hk, rfl⟩
  · rintro ⟨hkind, hwf, rfl⟩
    cases r with
    | stat k => exact ⟨k, of_decide_eq_true hwf, rfl, rfl⟩
    | _ => cases hkind

theorem toNat_ofNat_of_lt {n : Nat} (h : n < 256) : (BitVec.ofNat 8 n).toNat = n := by
  rw [BitVec.toNat_ofNat, Nat.mod_eq_of_lt h]

theorem decodeList_iff {bs : List Byte} {r : Request} : decodeList bs = some r ↔ r.encodes .list bs := by
  simp only [decodeList]
  constructor
  · intro h
    split at h
    next rest hp =>
      rw [takePresence_eq_some.1 hp]
      split at h
      next k m hk =>
        obtain ⟨⟨hpos, _⟩, rfl⟩ := takeKey_eq_some.1 hk
        simp only [Option.ite_none_right_eq_some, Option.some.injEq] at h
        obtain ⟨⟨hle, hm⟩, rfl⟩ := h
        refine ⟨rfl, ?_, ?_⟩
        · simp [Request.wellFormed, hle, hpos, hm]
        · simp [Request.encode, le_one_toNat, flagByte]
      next => cases h
    next m hp =>
      rw [takePresence_eq_some.1 hp]
      simp only [Option.ite_none_right_eq_some, Option.some.injEq] at h
      obtain ⟨hm, rfl⟩ := h
      refine ⟨rfl, ?_, ?_⟩
      · simp [Request.wellFormed, hm]
      · simp [Request.encode, le_one_toNat, flagByte]
    next => cases h
  · rintro ⟨hkind, hwf, rfl⟩
    cases r with
    | list after m =>
      simp only [Request.wellFormed, Bool.and_eq_true, decide_eq_true_eq] at hwf
      obtain ⟨hafter, hm⟩ := hwf
      have hnat : (BitVec.ofNat 8 m).toNat = m := toNat_ofNat_of_lt (by omega)
      cases after with
      | none =>
        have hp : takePresence (Request.list none m).encode = some (false, [BitVec.ofNat 8 m]) :=
          takePresence_eq_some.2 rfl
        simp only [hp, hnat, hm, and_self, if_true]
      | some k =>
        have hk : 1 ≤ k.length ∧ k.length ≤ Config.maxKey := by simpa using hafter
        have hp : takePresence (Request.list (some k) m).encode = some (true, encodeKey k ++ [BitVec.ofNat 8 m]) :=
          takePresence_eq_some.2 (by simp [Request.encode, flagByte, le_one])
        have hkey : takeKey (encodeKey k ++ [BitVec.ofNat 8 m]) = some (k, [BitVec.ofNat 8 m]) :=
          takeKey_eq_some.2 ⟨⟨hk.1, Nat.le_trans hk.2 (by decide)⟩, rfl⟩
        simp only [hp, hkey, hnat, hm, hk.2, and_self, if_true]
    | _ => cases hkind

theorem decodePut_iff {bs : List Byte} {r : Request} : decodePut bs = some r ↔ r.encodes .put bs := by
  simp only [decodePut]
  constructor
  · intro h
    split at h
    next p r1 hp =>
      split at h
      next durable group r2 hf =>
        split at h
        next k r3 hk =>
          split at h
          next v r4 hv =>
            split at h
            next q hq =>
              cases h
              obtain ⟨rfl, hlt, rfl⟩ := takeOptional_eq_some.1 hq
              obtain ⟨hvlen, rfl⟩ := takeValue_eq_some.1 hv
              obtain ⟨hklen, rfl⟩ := takeKey_eq_some.1 hk
              rw [takePresence_eq_some.1 hp, takeFlags_eq_some.1 hf]
              refine ⟨rfl, ?_, by simp [Request.encode]⟩
              cases q with
              | none => simp [Request.wellFormed, hklen, hvlen]
              | some n =>
                have := hlt n rfl
                simp [Request.wellFormed, hklen, hvlen]
                omega
            next => cases h
          next => cases h
        next => cases h
      next => cases h
    next => cases h
  · rintro ⟨hkind, hwf, rfl⟩
    cases r with
    | put w =>
      simp only [Request.wellFormed, Bool.and_eq_true, decide_eq_true_eq] at hwf
      obtain ⟨⟨hpos, hle, hvlen⟩, hseq⟩ := hwf
      have hlt : ∀ v, w.ifSeq = some v → v < 256 ^ 6 := by
        intro v hv
        simpa [hv] using hseq
      have hp : takePresence (Request.put w).encode = some (w.ifSeq.isSome,
          encodeFlags w.durable w.group :: (encodeKey w.key ++ (encodeValue w.value ++ encodeOptional 6 w.ifSeq))) :=
        takePresence_eq_some.2 (by simp [Request.encode])
      have hf := takeFlags_eq_some.2 (rfl : encodeFlags w.durable w.group ::
        (encodeKey w.key ++ (encodeValue w.value ++ encodeOptional 6 w.ifSeq)) = _)
      have hk : takeKey (encodeKey w.key ++ (encodeValue w.value ++ encodeOptional 6 w.ifSeq))
          = some (w.key, encodeValue w.value ++ encodeOptional 6 w.ifSeq) := takeKey_eq_some.2 ⟨⟨hpos, hle⟩, rfl⟩
      have hv : takeValue (encodeValue w.value ++ encodeOptional 6 w.ifSeq) = some (w.value, encodeOptional 6 w.ifSeq) :=
        takeValue_eq_some.2 ⟨hvlen, rfl⟩
      have hq : takeOptional w.ifSeq.isSome 6 (encodeOptional 6 w.ifSeq) = some (w.ifSeq, []) :=
        takeOptional_eq_some.2 ⟨rfl, hlt, by simp⟩
      simp only [hp, hf, hk, hv, hq]
    | _ => cases hkind

theorem decodeDelete_iff {bs : List Byte} {r : Request} : decodeDelete bs = some r ↔ r.encodes .delete bs := by
  simp only [decodeDelete]
  constructor
  · intro h
    split at h
    next p r1 hp =>
      split at h
      next durable group r2 hf =>
        split at h
        next k r3 hk =>
          split at h
          next q hq =>
            cases h
            obtain ⟨rfl, hlt, rfl⟩ := takeOptional_eq_some.1 hq
            obtain ⟨hklen, rfl⟩ := takeKey_eq_some.1 hk
            rw [takePresence_eq_some.1 hp, takeFlags_eq_some.1 hf]
            refine ⟨rfl, ?_, by simp [Request.encode]⟩
            cases q with
            | none => simp [Request.wellFormed, hklen]
            | some n =>
              have := hlt n rfl
              simp [Request.wellFormed, hklen]
              omega
          next => cases h
        next => cases h
      next => cases h
    next => cases h
  · rintro ⟨hkind, hwf, rfl⟩
    cases r with
    | delete w =>
      simp only [Request.wellFormed, Bool.and_eq_true, decide_eq_true_eq] at hwf
      obtain ⟨⟨hpos, hle, hvalue⟩, hseq⟩ := hwf
      have hlt : ∀ v, w.ifSeq = some v → v < 256 ^ 6 := by
        intro v hv
        simpa [hv] using hseq
      have hp : takePresence (Request.delete w).encode = some (w.ifSeq.isSome,
          encodeFlags w.durable w.group :: (encodeKey w.key ++ encodeOptional 6 w.ifSeq)) :=
        takePresence_eq_some.2 (by simp [Request.encode])
      have hf := takeFlags_eq_some.2 (rfl : encodeFlags w.durable w.group :: (encodeKey w.key ++ encodeOptional 6 w.ifSeq) = _)
      have hk : takeKey (encodeKey w.key ++ encodeOptional 6 w.ifSeq) = some (w.key, encodeOptional 6 w.ifSeq) :=
        takeKey_eq_some.2 ⟨⟨hpos, hle⟩, rfl⟩
      have hq : takeOptional w.ifSeq.isSome 6 (encodeOptional 6 w.ifSeq) = some (w.ifSeq, []) :=
        takeOptional_eq_some.2 ⟨rfl, hlt, by simp⟩
      simp only [hp, hf, hk, hq]
      exact congrArg (fun v => some (Request.delete { w with value := v })) hvalue.symm
    | _ => cases hkind

theorem decodeSectors_iff {bs : List Byte} {r : Request} : decodeSectors bs = some r ↔ r.encodes .sectors bs := by
  simp only [decodeSectors]
  constructor
  · intro h
    split at h
    next a n =>
      simp only [Option.ite_none_right_eq_some, Option.some.injEq] at h
      obtain ⟨hrange, rfl⟩ := h
      exact ⟨rfl, decide_eq_true hrange, by simp [Request.encode, le_one_toNat]⟩
    next => cases h
  · rintro ⟨hkind, hwf, rfl⟩
    cases r with
    | sectors first count =>
      have hrange : first < Config.sectors ∧ 1 ≤ count ∧ count ≤ 32 := of_decide_eq_true hwf
      have hsectors : Config.sectors = 128 := rfl
      simp only [Request.encode, le_one, List.singleton_append, toNat_ofNat_of_lt (show first < 256 by omega),
        toNat_ofNat_of_lt (show count < 256 by omega), hrange, and_self, if_true]
    | _ => cases hkind

theorem decodeTidy_iff {bs : List Byte} {r : Request} : decodeTidy bs = some r ↔ r.encodes .tidy bs := by
  simp only [decodeTidy]
  constructor
  · intro h
    split at h
    next t =>
      simp only [Option.ite_none_right_eq_some, Option.some.injEq] at h
      obtain ⟨hrange, rfl⟩ := h
      exact ⟨rfl, decide_eq_true hrange, by simp [Request.encode, le_one_toNat]⟩
    next => cases h
  · rintro ⟨hkind, hwf, rfl⟩
    cases r with
    | tidy t =>
      have hrange : 1 ≤ t ∧ t ≤ 100 := of_decide_eq_true hwf
      simp only [Request.encode, le_one, toNat_ofNat_of_lt (show t < 256 by omega), hrange, and_self, if_true]
    | _ => cases hkind

theorem decodeReset_iff {bs : List Byte} {r : Request} : decodeReset bs = some r ↔ r.encodes .reset bs := by
  simp only [decodeReset]
  constructor
  · intro h
    split at h
    next m =>
      split at h
      next hm => cases h; exact ⟨rfl, rfl, hm ▸ rfl⟩
      next =>
        simp only [Option.ite_none_right_eq_some, Option.some.injEq] at h
        obtain ⟨rfl, rfl⟩ := h
        exact ⟨rfl, rfl, rfl⟩
    next => cases h
  · rintro ⟨hkind, hwf, rfl⟩
    cases r with
    | reset mode => cases mode <;> rfl
    | _ => cases hkind

theorem decodeRequest_iff {k : ReqKind} {bs : List Byte} {r : Request} : decodeRequest k bs = some r ↔ r.encodes k bs := by
  cases k
  case hello =>
    simp only [decodeRequest, false_iff, reduceCtorEq]
    rintro ⟨hkind, _⟩
    cases r <;> cases hkind
  case get => exact decodeGet_iff
  case stat => exact decodeStat_iff
  case list => exact decodeList_iff
  case put => exact decodePut_iff
  case delete => exact decodeDelete_iff
  case fence => exact decodeEmpty_iff ⟨rfl, rfl, rfl⟩ (fun x h => by cases x with | fence => rfl | _ => cases h)
  case beginGroup => exact decodeEmpty_iff ⟨rfl, rfl, rfl⟩ (fun x h => by cases x with | beginGroup => rfl | _ => cases h)
  case commit => exact decodeEmpty_iff ⟨rfl, rfl, rfl⟩ (fun x h => by cases x with | commit => rfl | _ => cases h)
  case abort => exact decodeEmpty_iff ⟨rfl, rfl, rfl⟩ (fun x h => by cases x with | abort => rfl | _ => cases h)
  case space => exact decodeEmpty_iff ⟨rfl, rfl, rfl⟩ (fun x h => by cases x with | space => rfl | _ => cases h)
  case format => exact decodeEmpty_iff ⟨rfl, rfl, rfl⟩ (fun x h => by cases x with | format => rfl | _ => cases h)
  case sectors => exact decodeSectors_iff
  case tidy => exact decodeTidy_iff
  case reset => exact decodeReset_iff

theorem decodeHello_eq_some {bs : List Byte} {id : Nat} {baud : Option Nat} :
    decodeHello bs = some (id, baud) ↔
      1 ≤ id ∧ id ≤ 65535 ∧ (∀ b, baud = some b → b ∈ [115200, 460800, 921600, 2000000]) ∧ encodeHello id baud = bs := by
  have hrates : ∀ b : Option Nat, b.all (fun b => Config.rates.contains b) = true
      ↔ ∀ v, b = some v → v ∈ [115200, 460800, 921600, 2000000] := by
    intro b
    cases b <;> simp [Config.rates]
  simp only [decodeHello]
  constructor
  · intro h
    split at h
    next p r1 hp =>
      split at h
      next n r2 hn =>
        split at h
        next b hb =>
          simp only [Option.ite_none_right_eq_some, Option.some.injEq, Prod.mk.injEq] at h
          obtain ⟨⟨hne, hall⟩, rfl, rfl⟩ := h
          obtain ⟨rfl, _, rfl⟩ := takeOptional_eq_some.1 hb
          obtain ⟨hlt, rfl⟩ := takeNum_eq_some.1 hn
          rw [takePresence_eq_some.1 hp]
          exact ⟨by omega, by omega, (hrates _).1 hall, by simp [encodeHello]⟩
        next => cases h
      next => cases h
    next => cases h
  · rintro ⟨hpos, hle, hall, rfl⟩
    have hp : takePresence (encodeHello id baud) = some (baud.isSome, le 2 id ++ encodeOptional 4 baud) :=
      takePresence_eq_some.2 (by simp [encodeHello])
    have hn : takeNum 2 (le 2 id ++ encodeOptional 4 baud) = some (id, encodeOptional 4 baud) :=
      takeNum_eq_some.2 ⟨by omega, rfl⟩
    have hb : takeOptional baud.isSome 4 (encodeOptional 4 baud) = some (baud, []) := by
      refine takeOptional_eq_some.2 ⟨rfl, fun v hv => ?_, by simp⟩
      have := hall v hv
      simp only [List.mem_cons, List.not_mem_nil, or_false] at this
      omega
    simp only [hp, hn, hb, (hrates baud).2 hall, and_true]
    rw [if_pos (by omega)]

/-- Settles O4: each kind's decoding, and HELLO's, undoes the encoding field by field. -/
theorem requestsDecodeExactly : Obligations.RequestsDecodeExactly :=
  ⟨fun _ _ _ => decodeRequest_iff, fun _ _ _ => decodeHello_eq_some⟩

end Sys2Proof.Machine
end

section
/-! PROOFS. The words of the array: erase words, open words and records are read back from what the part writes
(R3, R4, R6, R8, R9, R80, R189, R190). -/

namespace Sys2Proof.Machine

/-! ## Words and their bytes -/

@[simp] theorem length_wordBytes (w : Word) : (wordBytes w).length = 8 := length_le_bytes 8 _

theorem wordOfBytes_wordBytes (w : Word) : wordOfBytes (wordBytes w) = w := by
  have hw : w.toNat < 256 ^ 8 := w.isLt
  rw [wordOfBytes, wordBytes, fromLe_le hw, BitVec.ofNat_toNat, BitVec.setWidth_eq]

theorem wordBytes_wordOfBytes {bs : List Byte} (h : bs.length = 8) : wordBytes (wordOfBytes bs) = bs := by
  have hlt : fromLe bs < 2 ^ 64 := by
    have := fromLe_lt bs
    rw [h] at this
    exact this
  rw [wordBytes, wordOfBytes, BitVec.toNat_ofNat, Nat.mod_eq_of_lt hlt, ← h, le_fromLe]

theorem wordBytes_inj {v w : Word} (h : wordBytes v = wordBytes w) : v = w := by
  rw [← wordOfBytes_wordBytes v, h, wordOfBytes_wordBytes]

/-! ## Erase words and open words -/

theorem wordBytes_eraseWord (epoch : BitVec 16) (count : Nat) :
    wordBytes (eraseWord epoch count) = (le 2 eraseMagic ++ le 2 epoch.toNat ++ le 3 count)
      ++ [crc8 (le 2 eraseMagic ++ le 2 epoch.toNat ++ le 3 count)] := by
  simp only [eraseWord]
  exact wordBytes_wordOfBytes (by simp)

theorem decodeEraseWord_eq_some {w : Word} {epoch : BitVec 16} {count : Nat} :
    decodeEraseWord w = some (epoch, count) ↔ count ≤ 16777215 ∧ w = eraseWord epoch count := by
  constructor
  · intro h
    simp only [decodeEraseWord, Option.ite_none_right_eq_some, Option.some.injEq, Prod.mk.injEq] at h
    obtain ⟨⟨hmagic, hcheck⟩, rfl, rfl⟩ := h
    have hlen := length_wordBytes w
    have hepoch := fromLe_lt (((wordBytes w).drop 2).take 2)
    have hcount := fromLe_lt (((wordBytes w).drop 4).take 3)
    have h1 : ((wordBytes w).take 2).length = 2 := by simp
    have h2 : (((wordBytes w).drop 2).take 2).length = 2 := by simp
    have h3 : (((wordBytes w).drop 4).take 3).length = 3 := by simp
    rw [h2] at hepoch
    rw [h3] at hcount
    refine ⟨by omega, wordBytes_inj ?_⟩
    have e1 := le_fromLe ((wordBytes w).take 2)
    have e2 := le_fromLe (((wordBytes w).drop 2).take 2)
    have e3 := le_fromLe (((wordBytes w).drop 4).take 3)
    rw [h1, hmagic] at e1
    rw [h2] at e2
    rw [h3] at e3
    have hbody : le 2 eraseMagic ++ le 2 (BitVec.ofNat 16 (fromLe (((wordBytes w).drop 2).take 2))).toNat
        ++ le 3 (fromLe (((wordBytes w).drop 4).take 3)) = (wordBytes w).take 7 := by
      rw [BitVec.toNat_ofNat, Nat.mod_eq_of_lt (by omega), e1, e2, e3]
      rfl
    rw [wordBytes_eraseWord, hbody, ← hcheck, List.take_append_drop]
  · rintro ⟨hle, rfl⟩
    have hmagic : fromLe (le 2 eraseMagic) = eraseMagic := fromLe_le (by decide)
    have hepoch : fromLe (le 2 epoch.toNat) = epoch.toNat := fromLe_le epoch.isLt
    have hcount : fromLe (le 3 count) = count := fromLe_le (by omega)
    simp only [decodeEraseWord, wordBytes_eraseWord]
    rw [if_pos ⟨hmagic, rfl⟩]
    refine congrArg some (Prod.ext ?_ hcount)
    show BitVec.ofNat 16 (fromLe (le 2 epoch.toNat)) = epoch
    rw [hepoch, BitVec.ofNat_toNat, BitVec.setWidth_eq]

theorem wordBytes_openWord (gen : Nat) : wordBytes (openWord gen) = le 4 gen ++ (le 4 gen).map (fun b => ~~~ b) := by
  simp only [openWord]
  exact wordBytes_wordOfBytes (by simp)

theorem decodeOpenWord_eq_some {w : Word} {gen : Nat} :
    decodeOpenWord w = some gen ↔ 1 ≤ gen ∧ gen ≤ 4294967295 ∧ w = openWord gen := by
  constructor
  · intro h
    simp only [decodeOpenWord, Option.ite_none_right_eq_some, Option.some.injEq] at h
    obtain ⟨⟨hcomplement, hne⟩, rfl⟩ := h
    have hlen : ((wordBytes w).take 4).length = 4 := by simp
    have hlt := fromLe_lt ((wordBytes w).take 4)
    rw [hlen] at hlt
    refine ⟨by omega, by omega, wordBytes_inj ?_⟩
    have hgen := le_fromLe ((wordBytes w).take 4)
    rw [hlen] at hgen
    rw [wordBytes_openWord, hgen, ← hcomplement, List.take_append_drop]
  · rintro ⟨hpos, hle, rfl⟩
    have hgen : fromLe (le 4 gen) = gen := fromLe_le (by omega)
    simp only [decodeOpenWord, wordBytes_openWord]
    rw [if_pos ⟨rfl, by show fromLe (le 4 gen) ≠ 0; omega⟩]
    exact congrArg some hgen

/-- Settles O5: the bytes of a word that is valid are those that its own fields give. -/
theorem sectorWordsDecodeExactly : Obligations.SectorWordsDecodeExactly :=
  ⟨fun _ _ _ => decodeEraseWord_eq_some, fun _ _ => decodeOpenWord_eq_some⟩

/-! ## Bytes cut into words -/

theorem wordsOfBytes_append {bs rest : List Byte} (h : bs.length = 8) :
    wordsOfBytes (bs ++ rest) = wordOfBytes bs :: wordsOfBytes rest := by
  match bs, h with
  | [_, _, _, _, _, _, _, _], _ => rfl

/-- Bytes that fill `n` words, cut into them. -/
theorem length_wordsOfBytes {n : Nat} {bs : List Byte} (h : bs.length = 8 * n) : (wordsOfBytes bs).length = n := by
  induction n generalizing bs with
  | zero => rw [List.length_eq_zero_iff.1 h]; rfl
  | succ n ih =>
    rw [← List.take_append_drop 8 bs, wordsOfBytes_append (by simp; omega), List.length_cons, ih (by simp; omega)]

theorem bytesOfWords_wordsOfBytes {n : Nat} {bs : List Byte} (h : bs.length = 8 * n) : bytesOfWords (wordsOfBytes bs) = bs := by
  induction n generalizing bs with
  | zero => rw [List.length_eq_zero_iff.1 h]; rfl
  | succ n ih =>
    have hfirst : (bs.take 8).length = 8 := by simp; omega
    have hrest := ih (bs := bs.drop 8) (by simp; omega)
    have hwords : wordsOfBytes bs = wordsOfBytes (bs.take 8 ++ bs.drop 8) := by rw [List.take_append_drop]
    rw [hwords, wordsOfBytes_append hfirst, bytesOfWords, List.flatMap_cons, wordBytes_wordOfBytes hfirst]
    show bs.take 8 ++ bytesOfWords (wordsOfBytes (bs.drop 8)) = bs
    rw [hrest, List.take_append_drop]

/-! ## The header of a record -/

/-- The bytes of header word A (R189). -/
def Record.headerA (r : Record) : List Byte :=
  le 1 r.kind.code ++ le 1 r.key.length ++ le 2 r.value.length ++ le 1 (groupFlags r.group) ++ [0, 0, 0]

/-- The bytes of header word B (R189). -/
def Record.headerB (r : Record) : List Byte := le 6 r.seq ++ le 2 (groupId r.group)

/-- Header, key and value, and the bytes behind them: the pad and the trailer (R6). -/
def Record.tail (r : Record) : List Byte :=
  List.replicate (padded (r.key ++ r.value).length - (r.key ++ r.value).length) 0xFF#8
    ++ (le 4 (crc32 (r.header ++ (r.key ++ r.value))).toNat ++ le 4 r.bytes)

theorem Record.header_eq (r : Record) : r.header = r.headerA ++ r.headerB := by
  simp only [Record.header, Record.headerA, Record.headerB, List.append_assoc]

theorem Record.image_eq (r : Record) : r.image = r.header ++ (r.key ++ r.value) ++ r.tail := by
  simp only [Record.image, Record.tail, List.append_assoc]

@[simp] theorem Record.length_headerA (r : Record) : r.headerA.length = 8 := by simp [Record.headerA]

@[simp] theorem Record.length_headerB (r : Record) : r.headerB.length = 8 := by simp [Record.headerB]

@[simp] theorem Record.length_header (r : Record) : r.header.length = 16 := by simp [Record.header_eq]

theorem le_padded (n : Nat) : n ≤ padded n := by simp only [padded]; omega

theorem Record.length_image (r : Record) : r.image.length = r.bytes := by
  have := le_padded (r.key ++ r.value).length
  simp only [List.length_append] at this
  simp only [Record.image_eq, Record.tail, Record.bytes, recordBytes, List.length_append, List.length_replicate,
    length_le_bytes, Record.length_header]
  omega

theorem Record.bytes_eq (r : Record) : r.bytes = 8 * (r.bytes / 8) := by
  simp only [Record.bytes, recordBytes, padded]
  omega

theorem Record.length_words (r : Record) : 8 * r.words.length = r.bytes := by
  rw [Record.words, length_wordsOfBytes (n := r.bytes / 8) (r.length_image.trans r.bytes_eq), ← r.bytes_eq]

theorem Record.bytesOfWords_words (r : Record) : bytesOfWords r.words = r.image :=
  bytesOfWords_wordsOfBytes (n := r.bytes / 8) (r.length_image.trans r.bytes_eq)

theorem Record.words_eq (r : Record) :
    r.words = wordOfBytes r.headerA :: wordOfBytes r.headerB :: wordsOfBytes (r.key ++ r.value ++ r.tail) := by
  rw [Record.words, Record.image_eq, Record.header_eq]
  simp only [List.append_assoc]
  rw [wordsOfBytes_append r.length_headerA, wordsOfBytes_append r.length_headerB]

/-- The header that a record's words give. -/
def Record.headerFields (r : Record) : RecordHeader :=
  { kind := r.kind, keyLen := r.key.length, valLen := r.value.length, member := r.group.isSome,
    groupEnd := r.group.any (fun g => g.2), seq := r.seq, gid := groupId r.group }

/-- What `Record.wellFormed` says. -/
theorem Record.wellFormed_iff (r : Record) : r.wellFormed = true ↔
    (1 ≤ r.key.length ∧ r.key.length ≤ Config.maxKey ∧ r.value.length ≤ Config.maxValue)
    ∧ (r.kind = .data ∨ r.value = []) ∧ (1 ≤ r.seq ∧ r.seq < 2 ^ 48)
    ∧ ∀ g last, r.group = some (g, last) → 1 ≤ g ∧ g < 65536 ∧ r.kind ≠ .loss := by
  simp only [Record.wellFormed, Bool.and_eq_true, decide_eq_true_eq, and_assoc]
  rcases r.group with _ | ⟨g, last⟩
  · simp
  · have hgroup : (∀ g' last', some (g, last) = some (g', last') → 1 ≤ g' ∧ g' < 65536 ∧ r.kind ≠ .loss)
        ↔ 1 ≤ g ∧ g < 65536 ∧ r.kind ≠ .loss := ⟨fun h => h g last rfl, by rintro h _ _ ⟨⟩; exact h⟩
    rw [hgroup, decide_eq_true_eq]

theorem groupFlags_lt (g : Option (Nat × Bool)) : groupFlags g < 4 := by
  rcases g with _ | ⟨_, _ | _⟩ <;> simp [groupFlags]

theorem groupFlags_member (g : Option (Nat × Bool)) : decide (groupFlags g % 2 = 1) = g.isSome := by
  rcases g with _ | ⟨_, _ | _⟩ <;> simp [groupFlags]

theorem groupFlags_end (g : Option (Nat × Bool)) : decide (groupFlags g / 2 = 1) = g.any (fun x => x.2) := by
  rcases g with _ | ⟨_, _ | _⟩ <;> simp [groupFlags]

theorem RecordKind.ofCode_code (k : RecordKind) : RecordKind.ofCode k.code = some k := by cases k <;> rfl

theorem RecordKind.code_lt (k : RecordKind) : k.code < 256 := by cases k <;> decide

theorem Record.decodeWordA_headerA {r : Record} (h : r.wellFormed = true) :
    decodeWordA (wordOfBytes r.headerA) = some { r.headerFields with seq := 0, gid := 0 } := by
  obtain ⟨⟨hpos, hkey, hvalue⟩, hempty, _, _⟩ := r.wellFormed_iff.1 h
  have hmax : Config.maxKey = 32 := rfl
  have hmaxv : Config.maxValue = 2000 := rfl
  have hkind : fromLe (le 1 r.kind.code) = r.kind.code := fromLe_le r.kind.code_lt
  have hkeyLen : fromLe (le 1 r.key.length) = r.key.length := fromLe_le (by omega)
  have hvalLen : fromLe (le 2 r.value.length) = r.value.length := fromLe_le (by omega)
  have hflags : fromLe (le 1 (groupFlags r.group)) = groupFlags r.group :=
    fromLe_le (Nat.lt_trans (groupFlags_lt r.group) (by decide))
  have hlen : r.kind = .data ∨ r.value.length = 0 := hempty.imp id (by rintro h; rw [h]; rfl)
  simp only [decodeWordA, wordBytes_wordOfBytes r.length_headerA]
  have h1 : r.headerA.take 1 = le 1 r.kind.code := rfl
  have h2 : (r.headerA.drop 1).take 1 = le 1 r.key.length := rfl
  have h3 : (r.headerA.drop 2).take 2 = le 2 r.value.length := rfl
  have h4 : (r.headerA.drop 4).take 1 = le 1 (groupFlags r.group) := rfl
  have h5 : r.headerA.drop 5 = [0, 0, 0] := rfl
  rw [h1, h2, h3, h4, h5, hkind, hkeyLen, hvalLen, hflags, RecordKind.ofCode_code, groupFlags_member, groupFlags_end]
  exact if_pos ⟨hpos, hkey, hvalue, hlen, groupFlags_lt _, rfl⟩

theorem groupId_lt {r : Record} (h : r.wellFormed = true) : groupId r.group < 65536 := by
  obtain ⟨_, _, _, hgroup⟩ := r.wellFormed_iff.1 h
  cases hg : r.group with
  | none => decide
  | some p => exact (hgroup p.1 p.2 hg).2.1

theorem Record.decodeHeader_words {r : Record} (h : r.wellFormed = true) :
    decodeHeader (wordOfBytes r.headerA) (wordOfBytes r.headerB) = some r.headerFields := by
  obtain ⟨_, _, ⟨hseqpos, hseq⟩, _⟩ := r.wellFormed_iff.1 h
  have hseqs : fromLe (le 6 r.seq) = r.seq := fromLe_le (by omega)
  have hgid : fromLe (le 2 (groupId r.group)) = groupId r.group := fromLe_le (groupId_lt h)
  have h1 : r.headerB.take 6 = le 6 r.seq := rfl
  have h2 : r.headerB.drop 6 = le 2 (groupId r.group) := rfl
  simp only [decodeHeader, wordBytes_wordOfBytes r.length_headerB, Record.decodeWordA_headerA h]
  rw [h1, h2, hseqs, hgid, if_pos (by omega)]
  rfl

theorem Record.headerFields_groupAgrees {r : Record} (h : r.wellFormed = true) : r.headerFields.groupAgrees = true := by
  obtain ⟨_, _, _, hgroup⟩ := r.wellFormed_iff.1 h
  rw [RecordHeader.groupAgrees, Record.headerFields]
  dsimp only
  generalize r.group = group at hgroup ⊢
  rcases group with _ | ⟨g, last⟩
  · rfl
  · obtain ⟨hpos, _, hkind⟩ := hgroup g last rfl
    have : g ≠ 0 := by omega
    simp [groupId, this, hkind]

/-! ## The record read back -/

theorem values?_length {ws : List RawWord} {vs : List Word} (h : values? ws = some vs) : ws.length = vs.length := by
  induction ws generalizing vs with
  | nil => cases h; rfl
  | cons w rest ih =>
    simp only [values?] at h
    split at h
    next _ vs' _ hrest => cases h; simp [ih hrest]
    next => cases h

theorem headerOf_of_values? {ws : List RawWord} {x y : Word} {vs : List Word} (h : values? ws = some (x :: y :: vs)) :
    headerOf ws = decodeHeader x y := by
  match ws with
  | [] => cases h
  | [a] =>
    simp only [values?] at h
    split at h
    next _ _ _ hnil => cases hnil; cases h
    next => cases h
  | a :: b :: rest =>
    simp only [values?] at h
    split at h
    next v vs' ha hrest =>
      cases h
      split at hrest
      next v' _ hb _ => cases hrest; simp only [headerOf, ha, hb]
      next => cases hrest
    next => cases h

theorem Record.headerOf_words {r : Record} (h : r.wellFormed = true) {ws : List RawWord} (hv : values? ws = some r.words) :
    headerOf ws = some r.headerFields := by
  rw [r.words_eq] at hv
  rw [headerOf_of_values? hv, Record.decodeHeader_words h]

theorem Record.headerFields_bytes (r : Record) : r.headerFields.bytes = r.bytes := rfl

theorem Record.record_image (r : Record) : r.headerFields.record r.image = r := by
  have hkey : (r.image.drop 16).take r.key.length = r.key := by
    rw [Record.image_eq, List.append_assoc, List.drop_left' r.length_header, List.append_assoc, List.take_left' rfl]
  have hvalue : (r.image.drop (16 + r.key.length)).take r.value.length = r.value := by
    rw [Record.image_eq, ← List.append_assoc, List.append_assoc (r.header ++ r.key),
      List.drop_left' (by simp), List.take_left' rfl]
  have hgroup : (if r.group.isSome then some (groupId r.group, r.group.any (fun g => g.2)) else none) = r.group := by
    rcases r.group with _ | ⟨_, _⟩ <;> rfl
  rw [RecordHeader.record, Record.headerFields]
  dsimp only
  rw [hkey, hvalue, hgroup]

theorem Record.covered_image (r : Record) :
    r.image.take (16 + r.key.length + r.value.length) = r.header ++ (r.key ++ r.value) := by
  rw [Record.image_eq]
  exact List.take_left' (by simp; omega)

theorem Record.trailer_image (r : Record) :
    r.image.drop (r.bytes - 8) = le 4 (crc32 (r.header ++ (r.key ++ r.value))).toNat ++ le 4 r.bytes := by
  rw [Record.image_eq, Record.tail, ← List.append_assoc]
  refine List.drop_left' ?_
  have := le_padded (r.key ++ r.value).length
  simp only [List.length_append] at this
  simp only [List.length_append, List.length_replicate, Record.length_header, Record.bytes, recordBytes]
  omega

theorem Record.bytes_lt {r : Record} (h : r.wellFormed = true) : r.bytes < 256 ^ 4 := by
  obtain ⟨⟨_, hkey, hvalue⟩, _⟩ := r.wellFormed_iff.1 h
  simp only [Record.bytes, recordBytes, padded, Config.maxKey, Config.maxValue] at *
  omega

/-- The two fields of a record's own trailer (R6). -/
theorem Record.trailer_fields {r : Record} (h : r.wellFormed = true) :
    fromLe ((r.image.drop (r.bytes - 8)).drop 4) = r.bytes
    ∧ fromLe ((r.image.drop (r.bytes - 8)).take 4)
        = (crc32 (r.image.take (16 + r.key.length + r.value.length))).toNat := by
  rw [r.trailer_image, r.covered_image, List.drop_left' (length_le_bytes 4 _), List.take_left' (length_le_bytes 4 _)]
  exact ⟨fromLe_le (Record.bytes_lt h), fromLe_le (crc32 _).isLt⟩

/-- Settles O6: header, key and value, pad and trailer of the image, each read back. -/
theorem recordRoundTrip : Obligations.RecordRoundTrip := by
  intro r hwf
  refine ⟨r.length_words, fun ws hv => ⟨fun offset hfits => ?_, fun hkind d hkey hseq hvalLen hrecLen => ?_⟩⟩
  · have hheader : headerWithin ws offset = some r.headerFields := by
      simp only [headerWithin, Record.headerOf_words hwf hv]
      exact if_pos hfits
    obtain ⟨hlen, hcrc⟩ := Record.trailer_fields hwf
    have htrailer : trailerAgrees r.headerFields r.image = true := by
      simp only [trailerAgrees, Bool.and_eq_true, beq_iff_eq]
      exact ⟨hlen, hcrc⟩
    simp only [validRecord, hheader, hv, r.bytesOfWords_words]
    rw [if_pos ⟨Record.headerFields_groupAgrees hwf, by rw [values?_length hv]; exact r.length_words, htrailer⟩,
      r.record_image]
  · obtain ⟨hlen, hcrc⟩ := Record.trailer_fields hwf
    simp only [getValue, Record.headerOf_words hwf hv, hv, r.bytesOfWords_words, r.record_image]
    rw [if_pos]
    refine ⟨hkind, ?_, ?_, hseq.symm, hkey.symm, ?_, ?_⟩
    · rw [hkey]; rfl
    · rw [hvalLen]; rfl
    · rw [hrecLen]; exact hlen
    · rw [hrecLen]; exact hcrc

end Sys2Proof.Machine
end

section
/-! PROOFS. A frame's bytes in the receiver: header, payload and check (R175, R176, R183). -/

namespace Sys2Proof.Machine

/-- The receiver is inside a frame, with these bytes stored and the gap timer running. -/
def State.inFrame (rx : RxState) (got : List Byte) (s : State) : State := s.storeByte rx got

@[simp] theorem State.inFrame_held (rx : RxState) (got : List Byte) (s : State) : (s.inFrame rx got).held = s.held := rfl

theorem State.storeByte_inFrame (rx rx' : RxState) (got got' : List Byte) (s : State) :
    (s.inFrame rx got).storeByte rx' got' = s.inFrame rx' got' := rfl

theorem exec_character {s : State} (h : s.held = false) (c : Byte) :
    exec (.characterReceived c false) s = .next (s.takeChar c) := by
  simp [exec, execCharacterReceived, State.unlessHeld, h]

theorem feed_cons {s : State} (h : s.held = false) (c : Byte) (rest : List Byte) :
    feed (c :: rest) s = feed rest (s.takeChar c) := by
  simp only [feed, exec_character h]

theorem feed_append (bs cs : List Byte) (s : State) : feed (bs ++ cs) s = (feed bs s).bind (feed cs) := by
  induction bs generalizing s with
  | nil => rfl
  | cons b rest ih =>
    simp only [List.cons_append, feed]
    split
    · exact ih _
    · rfl
    · rfl

theorem lengthField_append {got : List Byte} (h : 2 ≤ got.length) (bs : List Byte) :
    lengthField (got ++ bs) = lengthField got := by
  rw [lengthField, lengthField, List.take_append_of_le_length h]

/-- The header up to its last byte (R175). -/
theorem feed_header {s : State} (h : s.held = false) (bs got : List Byte) (hlen : got.length + bs.length < 8)
    (hfield : lengthField (got ++ bs) ≤ Config.maxPayload) :
    feed bs (s.inFrame .header got) = some (s.inFrame .header (got ++ bs)) := by
  induction bs generalizing got with
  | nil => simp [feed]
  | cons c rest ih =>
    have hshort : (got ++ [c]).length < 8 := by simp only [List.length_append, List.length_cons, List.length_nil] at hlen ⊢; omega
    have hstep : (s.inFrame .header got).takeChar c = s.inFrame .header (got ++ [c]) := by
      show State.headerByte c (s.inFrame .header got) = _
      have hgot : (s.inFrame .header got).link.got = got := rfl
      simp only [State.headerByte, hgot]
      rw [if_neg, if_pos hshort, State.storeByte_inFrame]
      rintro ⟨htwo, hbig⟩
      rw [List.append_cons, lengthField_append (by omega)] at hfield
      omega
    have hnext := ih (got ++ [c]) (by simpa [Nat.add_assoc, Nat.add_comm 1] using hlen) (by simpa using hfield)
    rw [feed_cons (by simpa using h), hstep, hnext, List.append_assoc]
    rfl

/-- The last byte of the header: the payload follows, or the check when there is none (R175). -/
theorem takeChar_header_last {got : List Byte} {c : Byte} (hlen : got.length = 7) (s : State) :
    (s.inFrame .header got).takeChar c
      = s.inFrame (if lengthField (got ++ [c]) = 0 then .check else .payload) (got ++ [c]) := by
  show State.headerByte c (s.inFrame .header got) = _
  have hgot : (s.inFrame .header got).link.got = got := rfl
  simp only [State.headerByte, hgot]
  rw [if_neg (by simp [hlen]), if_neg (by simp [hlen])]
  split <;> rfl

/-- The payload, byte by byte (R175). -/
theorem feed_payload {s : State} (h : s.held = false) (bs got : List Byte) (htwo : 2 ≤ got.length) (hne : bs ≠ [])
    (hlen : got.length + bs.length = 8 + lengthField got) :
    feed bs (s.inFrame .payload got) = some (s.inFrame .check (got ++ bs)) := by
  induction bs generalizing got with
  | nil => exact absurd rfl hne
  | cons c rest ih =>
    have hfield : lengthField (got ++ [c]) = lengthField got := lengthField_append htwo _
    have hgot : (s.inFrame .payload got).link.got = got := rfl
    rw [feed_cons (by simpa using h)]
    show feed rest (State.payloadByte c (s.inFrame .payload got)) = _
    simp only [State.payloadByte, hgot, hfield]
    simp only [List.length_cons] at hlen
    cases rest with
    | nil =>
      rw [if_neg (by simp only [List.length_append, List.length_cons, List.length_nil] at hlen ⊢; omega)]
      rfl
    | cons d rest =>
      rw [if_pos (by simp only [List.length_append, List.length_cons, List.length_nil] at hlen ⊢; omega),
        State.storeByte_inFrame, ih (got ++ [c]) (by simp; omega) (by simp)
          (by rw [hfield]; simp only [List.length_append, List.length_cons, List.length_nil] at hlen ⊢; omega), List.append_assoc]
      rfl

/-- The bytes of a frame behind SYNC, up to its CRC (R183). -/
def Frame.covered (f : Frame) : List Byte := f.start ++ [f.flags] ++ f.payload

theorem Frame.wire_covered (f : Frame) : f.wire = 0x5A#8 :: (f.covered ++ le 2 f.crc.toNat) := by
  simp [Frame.wire, Frame.covered]

section
variable {f : Frame} (hkind : f.kind.length = 4) (hlen : f.payload.length ≤ 2080)

include hkind in
theorem Frame.length_covered : f.covered.length = 8 + f.payload.length := by
  simp [Frame.covered, Frame.start, hkind]
  omega

include hlen in
theorem Frame.lengthField_covered (bs : List Byte) : lengthField (f.covered ++ bs) = f.payload.length := by
  have htake : (f.covered ++ bs).take 2 = le 2 f.payload.length := rfl
  rw [lengthField, htake, fromLe_le (by omega)]

include hkind hlen in
/-- The stored bytes of a frame are that frame (R183). -/
theorem frameOf_covered (crc : List Byte) : frameOf (f.covered ++ crc) = f := by
  have hfield := Frame.lengthField_covered hlen crc
  obtain ⟨kind, tag, flags, payload⟩ := f
  obtain ⟨a, b, c, d, rfl⟩ : ∃ a b c d, kind = [a, b, c, d] := by
    match kind, hkind with
    | [a, b, c, d], _ => exact ⟨a, b, c, d, rfl⟩
  simp only [frameOf, hfield]
  simp [Frame.covered, Frame.start, le_two]

include hkind hlen in
theorem crcField_covered : crcField (f.covered ++ le 2 f.crc.toNat) = f.crc.toNat := by
  rw [crcField, Frame.lengthField_covered hlen, List.drop_left' (Frame.length_covered hkind),
    List.take_of_length_le (by simp)]
  exact fromLe_le f.crc.isLt

include hkind hlen in
/-- Header and payload bring the receiver to the check (R175). -/
theorem feed_covered {s : State} (h : s.held = false) :
    feed f.covered (s.inFrame .header []) = some (s.inFrame .check f.covered) := by
  have hlast : (f.start.length = 7) := by simp [Frame.start, hkind]
  have hfield : ∀ bs, lengthField (f.start ++ bs) = f.payload.length := by
    intro bs
    have htake : (f.start ++ bs).take 2 = le 2 f.payload.length := rfl
    rw [lengthField, htake, fromLe_le (by omega)]
  have hheader : feed f.start (s.inFrame .header []) = some (s.inFrame .header f.start) := by
    have := feed_header h f.start [] (by simp [hlast]) (by
      rw [List.nil_append, ← List.append_nil f.start, hfield]
      exact hlen)
    simpa using this
  rw [Frame.covered, List.append_assoc, feed_append, hheader]
  show feed (f.flags :: f.payload) (s.inFrame .header f.start) = _
  rw [feed_cons (by simpa using h), takeChar_header_last hlast, hfield]
  cases hp : f.payload with
  | nil => simp [feed]
  | cons b rest =>
    rw [if_neg (by simp)]
    have := feed_payload h (b :: rest) (f.start ++ [f.flags]) (by simp [hlast]) (by simp)
      (by rw [hfield, hp]; simp [hlast])
    simpa using this

end

/-- The two bytes of a CRC that matches hand the frame over (R175, R176). -/
theorem feed_crc {f : Frame} (hkind : f.kind.length = 4) (hlen : f.payload.length ≤ 2080) {s : State} (h : s.held = false) :
    feed (le 2 f.crc.toNat) (s.inFrame .check f.covered) = some ((s.modLink Link.hunt).handOver f) := by
  have hfield := Frame.lengthField_covered hlen
  have hlength := Frame.length_covered hkind
  rw [le_two, feed_cons (by simpa using h)]
  have hfirst : (s.inFrame .check f.covered).takeChar (BitVec.ofNat 8 f.crc.toNat)
      = s.inFrame .check (f.covered ++ [BitVec.ofNat 8 f.crc.toNat]) := by
    show State.checkByte _ (s.inFrame .check f.covered) = _
    have hgot : (s.inFrame .check f.covered).link.got = f.covered := rfl
    simp only [State.checkByte, hgot, hfield]
    rw [if_pos (by simp only [List.length_append, hlength, List.length_singleton]; omega)]
    rfl
  rw [hfirst, feed_cons (by simpa using h)]
  have hgot : (s.inFrame .check (f.covered ++ [BitVec.ofNat 8 f.crc.toNat])).link.got
      = f.covered ++ [BitVec.ofNat 8 f.crc.toNat] := rfl
  have hall : f.covered ++ [BitVec.ofNat 8 f.crc.toNat] ++ [BitVec.ofNat 8 (f.crc.toNat / 256)]
      = f.covered ++ le 2 f.crc.toNat := by rw [List.append_assoc]; rfl
  show feed [] (State.checkByte _ (s.inFrame .check (f.covered ++ [BitVec.ofNat 8 f.crc.toNat]))) = _
  simp only [State.checkByte, hgot, hall, hfield, frameOf_covered hkind hlen, crcField_covered hkind hlen]
  rw [if_neg (by simp only [List.length_append, hlength, length_le_bytes]; omega), if_pos trivial]
  rfl

/-- Settles O7: SYNC, header and payload, and the CRC, one after another. -/
theorem frameThroughReceiver : Obligations.FrameThroughReceiver := by
  intro f s hkind hlen hheld hhunt
  refine ⟨(s.modLink Link.hunt).handOver f, ?_, exec_frame (s := s.modLink Link.hunt) hheld f⟩
  have hsync : s.takeChar 0x5A#8 = s.inFrame .header [] := by
    simp only [State.takeChar, hhunt]
    rfl
  rw [f.wire_covered, feed_cons hheld, hsync, feed_append, feed_covered hkind hlen hheld]
  exact feed_crc hkind hlen hheld

end Sys2Proof.Machine
end

section
/-! PROOFS. What the Request Table decides on a frame before its request is acted on, HELLO, and the keys answered at
their lookup (R138, R161, R166, R169 to R171, R77, R78, R85). -/

namespace Sys2Proof.Machine

/-! ## Frames without a slot, and retries (R161, R166) -/

/-- A fresh frame but a HELLO is decided as new, whatever its kind. -/
theorem State.handOver_new {s : State} {f : Frame} (h : s.fresh f = true) (hk : kindOf f.kind ≠ some .hello) :
    s.handOver f = s.acceptUnknown f ∨ ∃ k act, s.handOver f = s.acceptNew k act f := by
  rcases State.handOver_slotted hk with ⟨hu, _⟩ | ⟨k, act, _, _, ha, _⟩
  · exact .inl (hu.trans (State.retryOr_fresh h _))
  · exact .inr ⟨k, act, ha.trans (State.retryOr_fresh h _)⟩

theorem State.handOver_tagInUse {s : State} {f : Frame} (h : s.fresh f = true) (hk : kindOf f.kind ≠ some .hello) {sl : Slot}
    (hs : s.slot f.tag = some sl) : s.handOver f = (s.answerUnslotted f.tag .tagInUse).consult := by
  rcases State.handOver_new h hk with hu | ⟨k, act, ha⟩
  · rw [hu, State.acceptUnknown, hs]; rfl
  · rw [ha, State.acceptNew_tagInUse hs]

theorem State.handOver_tableFull {s : State} {f : Frame} (h : s.fresh f = true) (hk : kindOf f.kind ≠ some .hello)
    (hs : s.slot f.tag = none) (hfull : Config.maxSlots ≤ s.req.slots.length) :
    s.handOver f = (s.answerUnslotted f.tag .tableFull).consult := by
  rcases State.handOver_new h hk with hu | ⟨k, act, ha⟩
  · simp only [hu, State.acceptUnknown, hs, Option.isSome_none, Bool.false_eq_true, if_false, if_pos hfull]
  · rw [ha, State.acceptNew_full hs hfull]

/-- A retry that matches is answered by its retry answer (R166). -/
theorem State.handOver_retry {s : State} {f g : Frame} (hr : f.retry = true) (hk : kindOf f.kind ≠ some .hello)
    (hg : s.retryMatch f = some g) : s.handOver f = (s.sendRetry g).consult := by
  have hretry : ∀ fresh : Frame → State → State, State.retryOr fresh f s = (s.sendRetry g).consult := by
    intro fresh
    simp only [State.retryOr, hr, hg, if_true]
  rcases State.handOver_slotted hk with ⟨hu, _⟩ | ⟨k, act, _, _, ha, _⟩
  · rw [hu]; exact hretry _
  · rw [ha]; exact hretry _

/-- A retry that does not match is handled as the frame without its flag (R166). -/
theorem State.handOver_unmatched {s : State} {f : Frame} (hr : f.retry = true) (hk : kindOf f.kind ≠ some .hello)
    (hg : s.retryMatch f = none) : s.handOver f = s.handOver { f with flags := 0 } := by
  have hplain : ({ f with flags := 0 } : Frame).retry = false := by simp [Frame.retry]
  rcases State.handOver_slotted (s := s) hk with ⟨hu, hnone⟩ | ⟨k, act, _, _, ha, hany⟩
  · have hu' : s.handOver { f with flags := 0 } = s.takeUnknown { f with flags := 0 } := by simp only [State.handOver, hnone]
    rw [hu, hu']
    simp only [State.takeUnknown, State.retryOr, hr, hplain, hg, if_true, Bool.false_eq_true, if_false]
    rfl
  · rw [ha, hany { f with flags := 0 } rfl s]
    simp only [State.accept, State.retryOr, hr, hplain, hg, if_true, Bool.false_eq_true, if_false]
    rfl

/-- Settles O18: the steps of R161 before a slot is taken, and the three outcomes of a retry. -/
theorem frameSettledWithoutSlot : Obligations.FrameSettledWithoutSlot := by
  refine ⟨fun s f hfresh hkind => ⟨?_, fun hslot hfull => ?_⟩, fun s f hheld hretry hkind => ⟨?_, ?_, ?_⟩⟩
  · rintro ⟨sl, hslot⟩
    refine ⟨_, exec_frame (State.fresh_iff.1 hfresh).1 f, ?_⟩
    rw [State.handOver_tagInUse hfresh hkind hslot]
    exact State.unslotted_toldOff s f .tagInUse
  · refine ⟨_, exec_frame (State.fresh_iff.1 hfresh).1 f, ?_⟩
    rw [State.handOver_tableFull hfresh hkind hslot hfull]
    exact State.unslotted_toldOff s f .tableFull
  · intro sl hslot hsession hdigest
    refine ⟨_, exec_frame hheld f, ?_⟩
    rw [State.handOver_retry hretry hkind (g := stillPendingFrame f.tag) (by simp [State.retryMatch, hslot, hsession, hdigest])]
    exact State.sendRetry_resent s _
  · intro e hslot hcache hdigest
    refine ⟨_, exec_frame hheld f, ?_⟩
    rw [State.handOver_retry hretry hkind (g := e.frame) (by simp [State.retryMatch, hslot, hcache, hdigest])]
    exact State.sendRetry_resent s _
  · intro hslots hcache
    have hnone : s.retryMatch f = none := by
      simp only [State.retryMatch]
      split
      next sl hslot =>
        rw [if_neg]
        rintro ⟨hsession, hdigest⟩
        rcases hslots sl hslot with h | h
        · rw [hsession] at h; cases h
        · exact h hdigest
      next hslot =>
        split
        next e he => exact if_neg (hcache hslot e he)
        next => rfl
    rw [exec_frame hheld, exec_frame hheld, State.handOver_unmatched hretry hkind hnone]

/-! ## Frames refused (R138, R186) -/

/-- A decoded request that the gate refuses is answered by the gate's status. -/
theorem exec_refused {s : State} {f : Frame} {k : ReqKind} {r : Request} {st : Status} (ha : s.accepts f = true)
    (hk : kindOf f.kind = some k) (hd : decodeRequest k f.payload = some r) (hg : s.gate k = some st) :
    ∃ t : State, exec (frameCommand f) s = .next t ∧ s.answered f (le 1 st.code) t := by
  obtain ⟨hfresh, hslot, _⟩ := State.accepts_iff.1 ha
  have hhello : kindOf f.kind ≠ some .hello := by
    rw [hk]
    rintro ⟨⟩
    cases hd
  refine ⟨_, exec_frame (State.fresh_iff.1 hfresh).1 f, ?_⟩
  rcases State.handOver_slotted (s := s) hhello with ⟨_, hnone⟩ | ⟨k', act, hk', _, hact, _⟩
  · rw [hk] at hnone; cases hnone
  · rw [hk] at hk'
    cases hk'
    rw [hact, State.accept_refused ha hd hg]
    simpa using State.taken_answered hslot k r st []

theorem gateTable_notReady {k : ReqKind} (hk : k ≠ .hello) {d : DeviceState} (hd : d = .mounting ∨ d = .formatting) :
    gateTable k d = some .notReady := by
  rcases hd with rfl | rfl <;> cases k <;> simp_all [gateTable, gateStore, gateWrite, gateInfo, gateFormat]

theorem gateTable_unformatted {k : ReqKind}
    (hk : k ∈ [ReqKind.get, .stat, .list, .put, .delete, .commit, .fence, .beginGroup, .abort, .tidy]) :
    gateTable k .unformatted = some .unformatted := by
  cases k <;> simp_all [gateTable, gateStore, gateWrite]

theorem gateTable_readOnly {k : ReqKind} (hk : k ∈ [ReqKind.put, .delete, .commit, .beginGroup, .tidy]) :
    gateTable k .readOnly = some .readOnly := by
  cases k <;> simp_all [gateTable, gateWrite]

theorem gateTable_draining {k : ReqKind} (hk : k ∈ [ReqKind.put, .delete, .commit, .beginGroup, .tidy, .format]) :
    gateTable k .draining = some .notReady := by
  cases k <;> simp_all [gateTable, gateWrite, gateFormat]

/-- A frame that takes a slot and does not decode is answered BAD_REQUEST (R161, R186). -/
theorem State.handOver_bad {s : State} {f : Frame} (ha : s.accepts f = true) (hk : kindOf f.kind ≠ some .hello)
    (hd : ∀ k, kindOf f.kind = some k → decodeRequest k f.payload = none) : s.answered f [6] (s.handOver f) := by
  obtain ⟨hfresh, hslot, hroom⟩ := State.accepts_iff.1 ha
  have hroom' : ¬ (Config.maxSlots ≤ s.req.slots.length) := Nat.not_le.2 hroom
  rcases State.handOver_slotted (s := s) hk with ⟨hu, _⟩ | ⟨k, act, hkind, _, hact, _⟩
  · rw [hu, State.takeUnknown, State.retryOr_fresh hfresh, State.acceptUnknown]
    simp only [hslot, Option.isSome_none, Bool.false_eq_true, if_false, hroom']
    exact State.bad_answered hslot none
  · rw [hact, State.accept, State.retryOr_fresh hfresh, State.acceptNew]
    simp only [hslot, Option.isSome_none, Bool.false_eq_true, if_false, hroom', hd k hkind]
    exact State.bad_answered hslot (some k)

/-- Settles O19: R138's table by device state and latch, and the frames that do not decode. -/
theorem framesRefused : Obligations.FramesRefused := by
  refine ⟨fun s f k r ha hk hd => ?_, fun s f ha hk hd => ?_, fun s kind tag flags payload ha hk => ?_⟩
  · have hhello : k ≠ .hello := by rintro rfl; cases hd
    refine ⟨fun hlatch => ?_, fun hlatch => ⟨fun hdev => ?_, fun hdev hmem => ?_, fun hdev hmem => ?_, fun hdev hmem => ?_⟩⟩
    · exact exec_refused (st := .notReady) ha hk hd (by rw [State.gate, hlatch]; rfl)
    · exact exec_refused (st := .notReady) ha hk hd (by rw [State.gate_unlatched hlatch, gateTable_notReady hhello hdev])
    · exact exec_refused (st := .unformatted) ha hk hd (by rw [State.gate_unlatched hlatch, hdev, gateTable_unformatted hmem])
    · exact exec_refused (st := .readOnly) ha hk hd (by rw [State.gate_unlatched hlatch, hdev, gateTable_readOnly hmem])
    · exact exec_refused (st := .notReady) ha hk hd (by rw [State.gate_unlatched hlatch, hdev, gateTable_draining hmem])
  · exact ⟨_, exec_frame (State.fresh_iff.1 (State.accepts_iff.1 ha).1).1 f, State.handOver_bad ha hk hd⟩
  · let f : Frame := { kind := kind, tag := tag, flags := flags, payload := payload }
    have hexec := exec_frame (State.fresh_iff.1 (State.accepts_iff.1 ha).1).1 f
    have hcommand : frameCommand f = .unknownKindFrame kind tag flags payload := by
      have hkind : kindOf f.kind = none := hk
      simp only [frameCommand, hkind]
      rfl
    rw [hcommand] at hexec
    exact ⟨_, hexec, State.handOver_bad (f := f) ha (by rw [show kindOf f.kind = none from hk]; simp)
      (fun k hk' => by rw [show kindOf f.kind = none from hk] at hk'; cases hk')⟩

/-! ## HELLO (R169 to R171) -/

/-- The open group is discarded, if there is one (R73). -/
theorem State.discardGroup_eq (s : State) : s.discardGroup = { s with
    grp := { s.grp with group := none }
    dir := { s.dir with admitted := s.dir.admitted - s.stagedShare }
    wq := { s.wq with charged := s.wq.charged - s.stagedShare } } := by
  cases hg : s.grp.group with
  | none =>
    have hstaged : s.stagedShare = 0 := by rw [State.stagedShare_eq, hg]; rfl
    rw [State.discardGroup_none hg, hstaged, ← hg]
    rfl
  | some g =>
    have hstaged : s.stagedShare = g.bytes := by rw [State.stagedShare_eq, hg]; rfl
    rw [State.discardGroup_some hg, hstaged]

/-- With nothing on the Admission List, a discard ends in the Notice Set alone. -/
theorem State.afterDiscard_empty {s : State} (h : s.wq.admission = []) : s.afterDiscard = s.consult := by
  have hsame : s.considerAdmissions = s := by
    simp only [State.considerAdmissions, h, List.length_nil, State.considerUpTo]
    exact ite_self s
  simp only [State.afterDiscard, hsame]
  exact if_pos (by simp)

/-- The reply to a HELLO that decodes (R171). -/
def State.helloSent (s : State) (tag : Byte) (id : Nat) (baud : Option Nat) : TxFrame :=
  TxFrame.mk (replyFrame tag (le 1 Status.ok.code ++ helloFields s id (baud.getD s.link.settledRate))) baud false

/-- HELLO's effect up to the considerations it calls for (R170, R171). -/
def State.afterHello (s : State) (tag : Byte) (id : Nat) (baud : Option Nat) : State := { s with
  link := { s.link with txq := s.txAfter (s.helloSent tag id baud) }
  req := { slots := s.req.slots.map (fun sl => { sl with session := .ended }), cache := [], session := id }
  dir := { s.dir with admitted := s.dir.admitted - s.stagedShare }
  wq := { s.wq with charged := s.wq.charged - s.stagedShare }
  grp := { s.grp with group := none } }

theorem State.actHello_eq (tag : Byte) (id : Nat) (baud : Option Nat) (s : State) :
    s.actHello tag id baud
      = if s.grp.group.isSome then (s.afterHello tag id baud).afterDiscard else (s.afterHello tag id baud).consult := by
  simp only [State.actHello, State.helloReply, State.discardGroup_eq]
  rw [State.sendReply_eq rfl]
  rfl

/-- Settles O20: HELLO's effect in one equation, and its end by whether a group was open. -/
theorem helloDecided : Obligations.HelloDecided := by
  intro s tag flags payload hheld
  have hexec : exec (.hello tag flags payload) s = .next (s.takeHello (requestFrame .hello tag flags payload)) :=
    exec_request hheld .hello tag flags payload
  refine ⟨fun hnone => ⟨_, hexec, ?_⟩, fun id baud hsome => ⟨s.afterHello tag id baud, ?_, ?_, rfl⟩⟩
  · have : decodeHello (requestFrame .hello tag flags payload).payload = none := hnone
    simp only [State.takeHello, this]
    exact State.unslotted_toldOff s (requestFrame .hello tag flags payload) .badRequest
  · have : decodeHello (requestFrame .hello tag flags payload).payload = some (id, baud) := hsome
    rw [hexec]
    simp only [State.takeHello, this]
    rw [State.actHello_eq]
    rfl
  · intro hquiet
    have : decodeHello (requestFrame .hello tag flags payload).payload = some (id, baud) := hsome
    rw [hexec]
    simp only [State.takeHello, this]
    rw [State.actHello_eq]
    split
    next hgroup =>
      rcases hquiet with h | h
      · rw [h] at hgroup; cases hgroup
      · rw [State.afterDiscard_empty (s := s.afterHello _ id baud) h]
        rfl
    next => rfl

/-! ## STAT and GET at the lookup (R77, R78, R85) -/

/-- The last entry of the Write Queue that carries a key (R78). -/
theorem State.lastQueued_eq {s : State} {before after : List QueueEntry} {q : QueueEntry}
    (h : s.wq.entries = before ++ q :: after) (hlast : ∀ x ∈ after, x.key ≠ q.key) : s.lastQueued q.key = some q := by
  have hafter : after.filter (fun x => x.key == q.key) = [] := by
    rw [List.filter_eq_nil_iff]
    intro x hx
    simpa using hlast x hx
  rw [State.lastQueued, h, List.filter_append, List.filter_cons_of_pos (by simp), hafter]
  simp

/-- A request just taken is answered at once: what the command does. -/
theorem answered_of_exec {c : Instr} {s : State} {f : Frame} {k : ReqKind} {r : Request} {st : Status} {fields : List Byte}
    (h : s.takes k f r = true) (he : exec c s = .next ((s.taken k f r).answer f.tag st fields).consult) :
    ∃ t : State, exec c s = .next t ∧ s.answered f (le 1 st.code ++ fields) t :=
  ⟨_, he, State.taken_answered (State.takes_slot h) k r st fields⟩

theorem flagByte_eq (b : Bool) : flagByte b = if b then 1 else 0 := rfl

theorem encodeOptional_map (n : Nat) (d : Option DurablePart) :
    encodeOptional n (d.map (fun d => d.seq)) = (match d with
      | some d => le n d.seq
      | none => []) := by
  cases d <;> rfl

theorem statReply_eq (e : Entry) : le 1 Status.ok.code ++ statFields e
    = [0] ++ [if e.durable.isSome then 1 else 0, BitVec.ofNat 8 e.state.code] ++ le 2 e.newestLen ++ le 6 e.newestSeq
      ++ (match e.durable with
        | some d => le 6 d.seq
        | none => []) ++ [BitVec.ofNat 8 e.queued] := by
  simp only [statFields, encodeOptional_map, flagByte_eq, le_one, List.append_assoc]
  rfl

theorem getReply_eq (value : List Byte) (seq : Nat) (durable : Bool) : le 1 Status.ok.code ++ getFields value seq durable
    = [0] ++ le 2 value.length ++ value ++ le 6 seq ++ [flagByte durable] := by
  simp only [getFields, encodeValue, le_one, List.append_assoc]
  rfl

/-- Settles O21: the lookup's cases, for STAT and for GET. -/
theorem keyAnsweredAtLookup : Obligations.KeyAnsweredAtLookup := by
  refine ⟨fun s tag flags payload k htakes => ?_, fun s tag flags payload k htakes => ⟨fun hnone => ?_, fun e he => ⟨fun hstate => ?_, fun hstate => ?_, ?_⟩⟩⟩
  · have hslot := State.takes_slot htakes
    refine ⟨_, exec_stat_taken htakes, fun hnone => ?_, fun e he => ?_⟩
    · simp only [State.actStat, State.taken_entry, hnone]
      exact State.taken_answered hslot _ _ .notFound []
    · simp only [State.actStat, State.taken_entry, he]
      have hanswered := State.taken_answered hslot .stat (.stat k) .ok (statFields e)
      rw [statReply_eq] at hanswered
      exact hanswered
  · refine answered_of_exec (st := .notFound) (fields := []) htakes ?_
    rw [exec_get_taken htakes]
    simp only [State.actGet, State.taken_entry, hnone]
    rfl
  · refine answered_of_exec (st := .notFound) (fields := []) htakes ?_
    rw [exec_get_taken htakes]
    simp only [State.actGet, State.taken_entry, he, hstate]
    rfl
  · refine answered_of_exec (st := .corrupt) (fields := le 6 e.newestSeq) htakes ?_
    rw [exec_get_taken htakes]
    simp only [State.actGet, State.taken_entry, he, hstate]
    rfl
  · intro before q after hstate hqueued hentries hkey hlast
    have hq : (s.taken .get (requestFrame .get tag flags payload) (.get k)).lastQueued k = some q := by
      subst hkey
      exact State.lastQueued_eq (s := s) hentries hlast
    have hanswered := answered_of_exec (st := .ok) (fields := getFields q.value e.newestSeq false) htakes (c := .get tag flags payload) (by
      rw [exec_get_taken htakes]
      simp only [State.actGet, State.taken_entry, he, hstate, State.getPresent, hqueued, if_true, hq]
      rfl)
    rw [getReply_eq] at hanswered
    exact hanswered

end Sys2Proof.Machine
end

section
/-! PROOFS. GET that reads the array, and listings (R79, R80, R86 to R89). -/

namespace Sys2Proof.Machine

/-! ## Replies and the array's next read -/

/-- A reply to a request that holds a slot, decided in a state whose link and Request Table are still those of `s`. -/
theorem State.answer_closed {s t : State} (hlink : t.link = s.link) (hreq : t.req = s.req) {tag : Byte} {sl : Slot}
    (h : s.slot tag = some sl) (st : Status) (fields : List Byte) :
    s.closed sl (le 1 st.code ++ fields) (t.answer tag st fields)
      ∧ { (t.answer tag st fields) with link := t.link, req := t.req } = t := by
  have htag : sl.tag = tag := by simpa using List.find?_some h
  have hslot : t.slot tag = some sl := by rw [State.slot, hreq]; exact h
  subst htag
  cases hc : sl.session with
  | current =>
    rw [State.answer, State.finish_current hslot hc]
    refine ⟨?_, rfl⟩
    unfold State.closed
    rw [hc, State.txAfter, hlink, hreq]
    exact ⟨⟨⟨[], by simp, by rw [List.append_nil]; rfl⟩, rfl⟩, rfl⟩
  | ended =>
    rw [State.answer, State.finish_ended hslot hc]
    refine ⟨?_, rfl⟩
    unfold State.closed
    rw [hc, hreq]
    exact ⟨⟨⟨[], by simp, by rw [List.append_nil, hlink]⟩, by rw [hlink]⟩, rfl⟩

/-- A free array starts the oldest read of class 1 (R108). -/
theorem State.schedule_gets {s : State} (h : s.arr.gets ≠ []) : s.schedule
    = { s with arr := if s.arr.free then { s.arr with op := s.arr.gets.head?.map .read, gets := s.arr.gets.drop 1 } else s.arr } := by
  obtain ⟨r, rest, hgets⟩ := List.exists_cons_of_ne_nil h
  rw [State.schedule]
  by_cases hfree : s.arr.free = true
  · simp only [hfree, if_true, hgets]
    rfl
  · simp only [hfree]
    rfl

/-! ## GET (R79, R80) -/

theorem takenReading_eq {s : State} {f : Frame} (h : s.slot f.tag = none) (k : Key) (d : DurablePart) :
    (((s.taken .get f (.get k)).modSlot f.tag (fun sl => { sl with progress := .reading (readDescriptor k d) })).waitFor f.tag
      .flashRead) = { s with req := { s.req with
        slots := s.req.slots ++ [{ newSlot (some .get) f with
          request := some (.get k), state := .waiting, wait := some .flashRead, progress := .reading (readDescriptor k d) }]
        cache := s.req.cache.filter (fun e => e.tag != f.tag) } } := by
  have hothers := find_tag_none h
  rw [State.taken_eq h]
  simp [State.waitFor, State.modSlot, map_other _ hothers, State.takenSlot, newSlot, Request.binds]

/-- The read that a GET asks for (R79). -/
def getReadReq (tag : Byte) (d : DurablePart) : ReadReq :=
  { who := .get tag, sector := d.sector, offset := d.offset, words := d.recLen / 8, discard := false }

theorem State.taken_getRead (s : State) (f : Frame) (k : Key) (d : DurablePart) :
    (s.taken .get f (.get k)).getRead f.tag k d
      = ({ (((s.taken .get f (.get k)).modSlot f.tag
              (fun sl => { sl with progress := .reading (readDescriptor k d) })).waitFor f.tag .flashRead) with
          sm := { s.sm with table := s.sm.table.modify d.sector (fun x => { x with readers := x.readers + 1 }) }
          arr := { s.arr with gets := s.arr.gets ++ [getReadReq f.tag d] } } : State).schedule.consult := rfl

theorem State.getDone_eq {s : State} {tag : Byte} {sl : Slot} {d : ReadDescriptor} (hslot : s.slot tag = some sl)
    (hprogress : sl.progress = .reading d) (r : ReadReq) (words : List RawWord) :
    s.getDone tag r words = State.getAnswer tag d words { s with sm := { s.sm with table := s.sm.table.modify r.sector (fun e =>
      { e with corrected := min 65535 (e.corrected + correctedWords words), readers := e.readers - 1 }) } } := by
  simp only [State.getDone, hslot, hprogress, State.addCorrected, State.modSector, List.modify_modify_eq]
  rfl

/-- A GET is answered from its descriptor (R80). -/
theorem State.getAnswer_closed {s t : State} (hlink : t.link = s.link) (hreq : t.req = s.req) {tag : Byte} {sl : Slot}
    (h : s.slot tag = some sl) (d : ReadDescriptor) (words : List RawWord) :
    s.closed sl (match getValue words d with
      | some v => [0] ++ le 2 v.length ++ v ++ le 6 d.seq ++ [1]
      | none => [12] ++ le 6 d.seq) (t.getAnswer tag d words)
      ∧ { (t.getAnswer tag d words) with link := t.link, req := t.req } = t := by
  rw [State.getAnswer]
  cases getValue words d with
  | some v =>
    have hanswer := State.answer_closed hlink hreq h .ok (getFields v d.seq true)
    rw [getReply_eq] at hanswer
    exact hanswer
  | none => exact State.answer_closed hlink hreq h .corrupt (le 6 d.seq)

/-- Settles O22: the two halves of a GET's read. -/
theorem getReadsTheArray : Obligations.GetReadsTheArray := by
  refine ⟨fun s tag flags payload k e d htakes he hstate hqueued hd => ?_,
    fun s decayed r tag sl d hheld hop hwho hinside hslot hprogress => ?_⟩
  · have hslot := State.takes_slot htakes
    have hget : (s.taken .get (requestFrame .get tag flags payload) (.get k)).actGet tag k
        = (s.taken .get (requestFrame .get tag flags payload) (.get k)).getRead tag k d := by
      simp only [State.actGet, State.taken_entry, he, hstate, State.getPresent, hqueued, hd]
      rfl
    refine ⟨_, exec_get_taken htakes, ?_⟩
    rw [hget]
    have hread : (s.taken .get (requestFrame .get tag flags payload) (.get k)).getRead tag k d = _ :=
      State.taken_getRead s (requestFrame .get tag flags payload) k d
    rw [takenReading_eq hslot, State.schedule_gets (by simp)] at hread
    rw [hread]
    obtain ⟨notes, rest, hnotes, _, hconsult⟩ := State.consult_eq _
    rw [hconsult]
    exact ⟨⟨⟨notes, hnotes, rfl⟩, rfl⟩, rfl, rfl, rfl, rfl⟩
  · have hwords := State.getDone_eq (s := s.endRead r decayed) (tag := tag) hslot hprogress r
      ((s.flash.decay r decayed).read r)
    refine ⟨(s.endRead r decayed).getDone tag r ((s.flash.decay r decayed).read r), ?_, ?_⟩
    · simp only [exec, execGetReadComplete, hheld, hop, hwho, hinside]
      rfl
    rw [hwords]
    obtain ⟨hclosed, hframe⟩ := State.getAnswer_closed (s := s) (t := { s.endRead r decayed with sm := { s.sm with
        table := s.sm.table.modify r.sector (fun e => { e with
          corrected := min 65535 (e.corrected + correctedWords ((s.flash.decay r decayed).read r)), readers := e.readers - 1 }) } })
      rfl rfl hslot d ((s.flash.decay r decayed).read r)
    refine ⟨hclosed, ?_, ?_, ?_, ?_⟩
    · exact congrArg State.arr hframe
    · exact congrArg State.flash hframe
    · exact congrArg State.sm hframe
    · exact congrArg (fun t : State => { t with link := s.link, req := s.req, arr := s.arr, flash := s.flash, sm := s.sm }) hframe

/-! ## LIST (R86 to R89) -/

theorem State.taken_listStep {s : State} {f : Frame} (h : s.slot f.tag = none) (after : Option Key) (max : Nat) (l : Listing) :
    match l.step s.dir.entries with
    | .goesOn l' => (s.taken .list f (.list after max)).listStep f.tag l = { s with req := { s.req with
        slots := s.req.slots ++ [{ newSlot (some .list) f with request := some (.list after max), progress := .listing l' }]
        cache := s.req.cache.filter (fun x => x.tag != f.tag) } }
    | .ends items more =>
      s.answered f ([0] ++ listFields items more) ((s.taken .list f (.list after max)).listStep f.tag l) := by
  have hothers := find_tag_none h
  rw [State.listStep, show (s.taken .list f (.list after max)).dir.entries = s.dir.entries from rfl]
  cases l.step s.dir.entries with
  | goesOn l' =>
    rw [State.taken_eq h]
    simp [State.modSlot, map_other _ hothers, State.takenSlot, newSlot, Request.binds]
  | ends items more => exact State.taken_answered h .list (.list after max) .ok (listFields items more)

theorem State.slot_listStep {s : State} {tag : Byte} {sl : Slot} (h : s.slot tag = some sl) (l : Listing) :
    match l.step s.dir.entries with
    | .goesOn l' => s.listStep tag l = { s with req := { s.req with
        slots := s.req.slots.map (fun x => if x.tag = tag then { x with progress := .listing l' } else x) } }
    | .ends items more =>
      s.closed sl ([0] ++ listFields items more) (s.listStep tag l) ∧ s.otherwiseSame (s.listStep tag l) := by
  rw [State.listStep]
  cases l.step s.dir.entries with
  | goesOn l' => rfl
  | ends items more => exact State.closed_answer h .ok (listFields items more)

theorem exec_listStep {s : State} {tag : Byte} {sl : Slot} {l : Listing} (hheld : s.held = false) (h : s.slot tag = some sl)
    (hl : sl.progress = .listing l) : exec (.listStep tag) s = .next (s.listStep tag l) := by
  simp only [exec, execListStep, State.unlessHeld, hheld, h, hl]
  rfl

/-- The key orders strictly after the cursor (R86). -/
abbrev behind (cursor : Option Key) (k : Key) : Prop := ∀ c, cursor = some c → keyLt c k = true

/-- The entry after a cursor is the first of those that order behind it. -/
theorem entryAfter_first {es : List Entry} (hes : keysRise es) {cursor : Option Key} {e : Entry}
    (h : entryAfter cursor es = some e) :
    e ∈ es ∧ behind cursor e.key ∧ ∀ x ∈ es, behind cursor x.key → x = e ∨ keyLt e.key x.key = true := by
  cases cursor with
  | none =>
    obtain ⟨rest, rfl⟩ := List.head?_eq_some_iff.1 h
    refine ⟨List.mem_cons_self, (fun c hc => by cases hc), fun x hx _ => ?_⟩
    rcases List.mem_cons.1 hx with rfl | hx
    · exact .inl rfl
    · exact .inr ((List.pairwise_cons.1 hes).1 x hx)
  | some c =>
    obtain ⟨hbehind, before, rest, rfl, hbefore⟩ := List.find?_eq_some_iff_append.1 h
    refine ⟨by simp, fun _ hc => Option.some.inj hc ▸ hbehind, fun x hx hxc => ?_⟩
    rcases List.mem_append.1 hx with hx | hx
    · exact absurd (hxc c rfl) (by simpa using hbefore x hx)
    · rcases List.mem_cons.1 hx with rfl | hx
      · exact .inl rfl
      · exact .inr ((List.pairwise_cons.1 (List.pairwise_append.1 hes).2.1).1 x hx)

/-- Behind a cursor after which no entry stands there is none. -/
theorem entryAfter_none {es : List Entry} {cursor : Option Key} (h : entryAfter cursor es = none) {x : Entry} (hx : x ∈ es) :
    ¬ behind cursor x.key := by
  intro hbehind
  cases cursor with
  | none =>
    rw [List.head?_eq_none_iff.1 h] at hx
    cases hx
  | some c => exact List.find?_eq_none.1 h x hx (hbehind c rfl)

/-- What a listing has gathered is in key order, counted, within 2048 bytes, and not behind its cursor. -/
structure Listing.Sound (l : Listing) : Prop where
  bytes_eq : l.bytes = (l.items.map ListItem.size).sum
  bytes_le : l.bytes ≤ 2048
  rise : l.items.Pairwise (fun a b => keyLt a.key b.key = true)
  passed : ∀ i ∈ l.items, ∃ c, l.cursor = some c ∧ (i.key = c ∨ keyLt i.key c = true)

/-- A gathered item orders before every key behind the cursor. -/
theorem Listing.Sound.lt_behind {l : Listing} (h : l.Sound) {i : ListItem} (hi : i ∈ l.items) {k : Key}
    (hk : behind l.cursor k) : keyLt i.key k = true := by
  obtain ⟨c, hc, rfl | hlt⟩ := h.passed i hi
  · exact hk _ hc
  · exact keyLt_trans hlt (hk c hc)

theorem Entry.listed_iff (e : Entry) : e.listed = true ↔ e.state ≠ .tombstone := by
  cases h : e.state <;> simp [Entry.listed, h]

/-- The listing behind an entry that it has passed without gathering it. -/
theorem Listing.Sound.pass {l : Listing} (h : l.Sound) {k : Key} (hk : behind l.cursor k) :
    ({ l with cursor := some k } : Listing).Sound :=
  ⟨h.bytes_eq, h.bytes_le, h.rise, fun _ hi => ⟨k, rfl, .inr (h.lt_behind hi hk)⟩⟩

/-- The listing behind an entry that it has gathered. -/
theorem Listing.Sound.gather {l : Listing} (h : l.Sound) {i : ListItem} (hk : behind l.cursor i.key)
    (hfits : l.bytes + i.size ≤ 2048) :
    ({ l with cursor := some i.key, items := l.items ++ [i], bytes := l.bytes + i.size } : Listing).Sound := by
  refine ⟨by simp [h.bytes_eq], hfits, ?_, fun j hj => ⟨i.key, rfl, ?_⟩⟩
  · refine List.pairwise_append.2 ⟨h.rise, List.pairwise_singleton _ _, fun j hj x hx => ?_⟩
    rw [List.mem_singleton.1 hx]
    exact h.lt_behind hj hk
  · rcases List.mem_append.1 hj with hj | hj
    · exact .inr (h.lt_behind hj hk)
    · rw [List.mem_singleton.1 hj]
      exact .inl rfl

/-- Settles O23: the two commands that take a step, and one step's cases. -/
theorem listingStepsAndEnds : Obligations.ListingStepsAndEnds := by
  refine ⟨⟨fun s tag flags payload after max htakes => ?_, fun s tag sl l hheld hslot hl => ?_⟩,
    fun es l hes hroom hbytes hle hrise hpassed => ?_⟩
  · exact ⟨_, exec_list_taken htakes, State.taken_listStep (State.takes_slot htakes) after max _⟩
  · exact ⟨_, exec_listStep hheld hslot hl, State.slot_listStep hslot l⟩
  · have hsound : l.Sound := ⟨hbytes, hle, hrise, hpassed⟩
    cases hafter : entryAfter l.cursor es with
    | none =>
      rw [show l.step es = .ends l.items false by rw [Listing.step, hafter]]
      exact ⟨Nat.le_of_lt hroom, hbytes ▸ hle, List.prefix_rfl, hrise,
        fun _ e he _ hbehind => absurd hbehind (entryAfter_none hafter he), by simp⟩
    | some e =>
      obtain ⟨hmem, hbehind, hfirst⟩ := entryAfter_first hes hafter
      by_cases hlisted : e.listed = true
      · have hstate : e.state ≠ .tombstone := e.listed_iff.1 hlisted
        by_cases hfits : l.bytes + e.item.size ≤ 2048
        · have hgather := hsound.gather (i := e.item) hbehind hfits
          by_cases hfull : (l.items ++ [e.item]).length = l.max
          · have hstep : l.step es = .ends (l.items ++ [e.item]) (es.any (fun x => x.listed && keyLt e.key x.key)) := by
              rw [Listing.step, hafter]
              exact (if_pos hlisted).trans ((if_pos hfits).trans (if_pos hfull))
            rw [hstep]
            refine ⟨Nat.le_of_eq hfull, ?_, List.prefix_append _ _, hgather.rise, fun hmore x hx hxs hxb => ?_, fun hmore => ?_⟩
            · exact hgather.bytes_eq ▸ hgather.bytes_le
            · rcases hfirst x hx hxb with rfl | hlt
              · exact ⟨x.item, by simp, rfl, rfl⟩
              · have hnone := List.any_eq_false.1 hmore x hx
                simp [x.listed_iff.2 hxs, hlt] at hnone
            · obtain ⟨x, hx, hxe⟩ := List.any_eq_true.1 hmore
              obtain ⟨hxl, hlt⟩ := Bool.and_eq_true_iff.1 hxe
              refine ⟨x, hx, x.listed_iff.1 hxl, fun c hc => keyLt_trans (hbehind c hc) hlt, fun i hi => ?_⟩
              exact hgather.lt_behind hi (fun c hc => Option.some.inj hc ▸ hlt)
          · have hstep : l.step es = .goesOn { l with cursor := some e.key, items := l.items ++ [e.item], bytes := l.bytes + e.item.size } := by
              rw [Listing.step, hafter]
              exact (if_pos hlisted).trans ((if_pos hfits).trans (if_neg hfull))
            rw [hstep]
            have hless : (l.items ++ [e.item]).length < l.max := by
              simp only [List.length_append, List.length_singleton] at hfull ⊢
              omega
            refine ⟨rfl, hless, hgather.bytes_eq, hgather.bytes_le, hgather.rise, hgather.passed, e, rfl, rfl, ?_⟩
            rw [if_neg hstate]
            rfl
        · have hstep : l.step es = .ends l.items true := by
            rw [Listing.step, hafter]
            exact (if_pos hlisted).trans (if_neg hfits)
          rw [hstep]
          exact ⟨Nat.le_of_lt hroom, hbytes ▸ hle, List.prefix_rfl, hrise, by simp,
            fun _ => ⟨e, hmem, hstate, hbehind, fun i hi => hsound.lt_behind hi hbehind⟩⟩
      · have hstate : e.state = .tombstone := by
          refine Decidable.byContradiction fun h => ?_
          exact hlisted (e.listed_iff.2 h)
        have hstep : l.step es = .goesOn { l with cursor := some e.key } := by
          rw [Listing.step, hafter]
          exact if_neg hlisted
        rw [hstep]
        have hpass := hsound.pass hbehind
        refine ⟨rfl, hroom, hbytes, hle, hrise, hpass.passed, e, rfl, rfl, ?_⟩
        rw [if_pos hstate, List.append_nil]

end Sys2Proof.Machine
end

section
/-! PROOFS. A write-class request that arrives: its considerations' cases, refusals and waits (R39 to R43, R63 to R65). -/

namespace Sys2Proof.Machine

/-! ## The cases of a consideration (R42, R43, R64, R65) -/

theorem tooLarge_eq_false {deletes : Bool} {w : WriteFields} (h : sizesFit deletes w) : tooLarge deletes w = false := by
  rw [← Bool.not_eq_true, tooLarge_iff]
  exact not_not_intro h

theorem writeBytes_pos (deletes : Bool) (w : WriteFields) : 0 < writeBytes deletes w := by
  simp only [writeBytes, recordBytes]
  omega

section LoneCases
variable {s : State} {tag : Byte} {deletes : Bool} {w : WriteFields}

theorem State.considerLone_tooLarge (h : ¬ sizesFit deletes w) : s.considerLone tag deletes w = s.refuse tag .tooLarge [] := by
  rw [State.considerLone]
  exact if_pos ((tooLarge_iff deletes w).2 h)

theorem State.considerLone_fits (h : sizesFit deletes w) : s.considerLone tag deletes w
    = if deletes && s.isAbsent w.key then s.refuse tag .notFound []
      else if w.ifSeq.any (fun q => q != s.checkSeq w.key) then s.refuse tag .conflict (le 6 (s.checkSeq w.key) ++ [0])
      else if s.needsPlace w.key && decide (Config.maxEntries ≤ s.places) then s.refuse tag .noEntry []
      else if s.dir.limit < s.dir.admitted + writeBytes deletes w then s.refuse tag .noSpace []
      else if Config.maxQueue ≤ s.wq.entries.length ∨ s.stagingFree < writeBytes deletes w then .kept (s.waitFor tag .admission)
      else .left ((s.leaveList tag).admitLone tag deletes w) := by
  rw [State.considerLone]
  simp [tooLarge_eq_false h]

theorem State.considerLone_notFound (hsize : sizesFit deletes w) (h : ¬ s.deletable deletes w.key) :
    s.considerLone tag deletes w = s.refuse tag .notFound [] := by
  rw [State.considerLone_fits hsize, if_pos ((s.absent_iff deletes w.key).2 h)]

theorem State.considerLone_conflict (hsize : sizesFit deletes w) (hdel : s.deletable deletes w.key) (h : ¬ s.condHolds w) :
    s.considerLone tag deletes w = s.refuse tag .conflict (le 6 (s.checkSeq w.key) ++ [0]) := by
  rw [State.considerLone_fits hsize, if_neg (mt (s.absent_iff deletes w.key).1 (not_not_intro hdel)), if_pos ((s.cond_iff w).2 h)]

theorem State.considerLone_noEntry (hsize : sizesFit deletes w) (hdel : s.deletable deletes w.key) (hcond : s.condHolds w)
    (h : ¬ s.placeFree w.key) : s.considerLone tag deletes w = s.refuse tag .noEntry [] := by
  rw [State.considerLone_fits hsize, if_neg (mt (s.absent_iff deletes w.key).1 (not_not_intro hdel)),
    if_neg (mt (s.cond_iff w).1 (not_not_intro hcond)), if_pos ((s.place_iff w.key).2 h)]

theorem State.considerLone_placed (hsize : sizesFit deletes w) (hdel : s.deletable deletes w.key) (hcond : s.condHolds w)
    (hplace : s.placeFree w.key) : s.considerLone tag deletes w
    = if s.dir.limit < s.dir.admitted + writeBytes deletes w then s.refuse tag .noSpace []
      else if Config.maxQueue ≤ s.wq.entries.length ∨ s.stagingFree < writeBytes deletes w then .kept (s.waitFor tag .admission)
      else .left ((s.leaveList tag).admitLone tag deletes w) := by
  rw [State.considerLone_fits hsize, if_neg (mt (s.absent_iff deletes w.key).1 (not_not_intro hdel)),
    if_neg (mt (s.cond_iff w).1 (not_not_intro hcond)), if_neg (mt (s.place_iff w.key).1 (not_not_intro hplace))]

theorem State.considerLone_noSpace (hsize : sizesFit deletes w) (hdel : s.deletable deletes w.key) (hcond : s.condHolds w)
    (hplace : s.placeFree w.key) (h : ¬ s.spaceFree (writeBytes deletes w)) :
    s.considerLone tag deletes w = s.refuse tag .noSpace [] := by
  rw [State.considerLone_placed hsize hdel hcond hplace, if_pos (Nat.not_le.1 h)]

theorem State.considerLone_passes (h : s.passesLone deletes w) : s.considerLone tag deletes w
    = if Config.maxQueue ≤ s.wq.entries.length ∨ s.stagingFree < writeBytes deletes w then .kept (s.waitFor tag .admission)
      else .left ((s.leaveList tag).admitLone tag deletes w) := by
  obtain ⟨hsize, hdel, hcond, hplace, hspace⟩ := h
  rw [State.considerLone_placed hsize hdel hcond hplace, if_neg (Nat.not_lt.2 hspace)]

/-- The Staging Buffer is short of room just when the charge would pass its size (R46). -/
theorem State.stagingFree_lt_iff : s.stagingFree < writeBytes deletes w ↔ 24576 < s.wq.charged + writeBytes deletes w := by
  have hpos := writeBytes_pos deletes w
  simp only [State.stagingFree, Config.stagingBytes]
  omega

theorem State.considerLone_kept (h : s.passesLone deletes w) (hroom : ¬ s.roomFree (writeBytes deletes w)) :
    s.considerLone tag deletes w = .kept (s.waitFor tag .admission) := by
  rw [State.considerLone_passes h, if_pos]
  rw [State.stagingFree_lt_iff]
  simp only [State.roomFree, Config.maxQueue, Config.stagingBytes] at hroom ⊢
  omega

theorem State.considerLone_admitted (h : s.passesLone deletes w) (hroom : s.roomFree (writeBytes deletes w)) :
    s.considerLone tag deletes w = .left ((s.leaveList tag).admitLone tag deletes w) := by
  rw [State.considerLone_passes h, if_neg]
  rw [State.stagingFree_lt_iff]
  simp only [State.roomFree, Config.maxQueue, Config.stagingBytes] at hroom ⊢
  omega

end LoneCases

section MemberCases
variable {s : State} {tag : Byte} {deletes : Bool} {w : WriteFields} {bound : Option Nat} {g : OpenGroup}

theorem State.considerMember_none (h : s.boundGroup bound = none) :
    s.considerMember tag deletes w bound = s.refuse tag .groupState [] := by
  simp only [State.considerMember, h]

theorem State.considerMember_tooLarge (h : s.boundGroup bound = some g) (hsize : ¬ sizesFit deletes w) :
    s.considerMember tag deletes w bound = s.refuse tag .tooLarge [] := by
  simp only [State.considerMember, h, (tooLarge_iff deletes w).2 hsize, if_true]

theorem State.considerMember_groupFull (h : s.boundGroup bound = some g) (hsize : sizesFit deletes w)
    (hfull : 16 ≤ g.members.length ∨ 16384 < g.bytes + writeBytes deletes w) :
    s.considerMember tag deletes w bound = s.refuse tag .groupFull [] := by
  simp only [State.considerMember, h, tooLarge_eq_false hsize]
  exact if_pos hfull

theorem State.considerMember_fits (h : s.boundGroup bound = some g) (hsize : sizesFit deletes w)
    (hcount : g.members.length < 16) (hbytes : g.bytes + writeBytes deletes w ≤ 16384) :
    s.considerMember tag deletes w bound
      = if s.dir.limit < s.dir.admitted + writeBytes deletes w then s.refuse tag .noSpace []
        else if s.stagingFree < writeBytes deletes w then .kept (s.waitFor tag .admission)
        else .left ((s.leaveList tag).stageMember tag deletes w g) := by
  simp only [State.considerMember, h, tooLarge_eq_false hsize]
  exact if_neg (not_or.2 ⟨Nat.not_le.2 hcount, Nat.not_lt.2 hbytes⟩)

theorem State.considerMember_noSpace (h : s.boundGroup bound = some g) (hsize : sizesFit deletes w)
    (hcount : g.members.length < 16) (hbytes : g.bytes + writeBytes deletes w ≤ 16384)
    (hspace : ¬ s.spaceFree (writeBytes deletes w)) : s.considerMember tag deletes w bound = s.refuse tag .noSpace [] := by
  rw [State.considerMember_fits h hsize hcount hbytes, if_pos (Nat.not_le.1 hspace)]

theorem State.considerMember_kept (h : s.boundGroup bound = some g) (hsize : sizesFit deletes w)
    (hcount : g.members.length < 16) (hbytes : g.bytes + writeBytes deletes w ≤ 16384)
    (hspace : s.spaceFree (writeBytes deletes w)) (hroom : 24576 < s.wq.charged + writeBytes deletes w) :
    s.considerMember tag deletes w bound = .kept (s.waitFor tag .admission) := by
  rw [State.considerMember_fits h hsize hcount hbytes, if_neg (Nat.not_lt.2 hspace), if_pos (State.stagingFree_lt_iff.2 hroom)]

theorem State.considerMember_staged (h : s.boundGroup bound = some g) (hsize : sizesFit deletes w)
    (hcount : g.members.length < 16) (hbytes : g.bytes + writeBytes deletes w ≤ 16384)
    (hspace : s.spaceFree (writeBytes deletes w)) (hroom : s.wq.charged + writeBytes deletes w ≤ 24576) :
    s.considerMember tag deletes w bound = .left ((s.leaveList tag).stageMember tag deletes w g) := by
  rw [State.considerMember_fits h hsize hcount hbytes, if_neg (Nat.not_lt.2 hspace),
    if_neg (mt State.stagingFree_lt_iff.1 (Nat.not_lt.2 hroom))]

end MemberCases

theorem State.boundGroup_eq_some {s : State} {bound : Option Nat} {g : OpenGroup} :
    s.boundGroup bound = some g ↔ s.grp.group = some g ∧ bound = some g.id := by
  simp only [State.boundGroup]
  cases s.grp.group with
  | none => simp
  | some x =>
    simp only [Option.ite_none_right_eq_some, Option.some.injEq]
    constructor
    · rintro ⟨hb, rfl⟩
      exact ⟨rfl, hb⟩
    · rintro ⟨rfl, hb⟩
      exact ⟨hb, rfl⟩

/-! ## A request that waits (R39, R163, R164) -/

/-- A request taken in a state that differs from `s` outside the link and the Request Table waits. -/
theorem State.parked_of_waits {s u : State} (hlink : u.link = s.link) (hreq : u.req = s.req) (hgrp : u.grp = s.grp) {f : Frame}
    (h : s.slot f.tag = none) (k : ReqKind) (r : Request) {why : WaitReason} (hw : why ≠ .flashRead) :
    s.parked f (waitingSlot k f r (if r.binds then s.grp.group.map (fun g => g.id) else none) why)
        (((u.taken k f r).waitFor f.tag why).consultFor f.tag)
      ∧ { (((u.taken k f r).waitFor f.tag why).consultFor f.tag) with link := u.link, req := u.req } = u := by
  have hslot : u.slot f.tag = none := by rw [State.slot, hreq]; exact h
  obtain ⟨notes, rest, hnotes, heq⟩ := State.taken_waits_consult hslot k r hw
  rw [heq]
  refine ⟨⟨⟨⟨notes, hnotes, ?_⟩, ?_⟩, ?_⟩, rfl⟩
  · rw [State.txAfter, hlink]
    rfl
  · rw [hlink]
  · rw [hreq, State.takenSlot, hgrp]
    rfl

/-- A request that is kept at its one consideration waits at the head of the list. -/
theorem State.joinList_keep {s : State} {f : Frame} (hs : s.slot f.tag = none) (h : s.listOpen) {k : ReqKind} {r : Request}
    {why : WaitReason} (hw : why ≠ .flashRead)
    (hc : (s.atHead k f r).considerHead (s.takenSlot k f r) = .kept ((s.atHead k f r).waitFor f.tag why)) :
    s.parked f (waitingSlot k f r (if r.binds then s.grp.group.map (fun g => g.id) else none) why) ((s.taken k f r).joinList f.tag)
      ∧ ((s.taken k f r).joinList f.tag).wq = { s.wq with admission := [f.tag] }
      ∧ { ((s.taken k f r).joinList f.tag) with link := s.link, req := s.req, wq := s.wq } = s := by
  have hjoin : (s.taken k f r).joinList f.tag = (((s.atHead k f r).waitFor f.tag why).consultFor f.tag) :=
    (State.joinList_open hs h (congrArg Consideration.state hc)).trans (if_pos rfl)
  rw [hjoin]
  obtain ⟨hparked, hframe⟩ := State.parked_of_waits (s := s)
    (u := { s with wq := { s.wq with admission := [f.tag] } }) rfl rfl rfl hs k r hw
  exact ⟨hparked, congrArg State.wq hframe,
    congrArg (fun t : State => { t with link := s.link, req := s.req, wq := s.wq }) hframe⟩

/-- A request that joins behind others waits at the tail (R39). -/
theorem State.joinList_behind {s : State} {f : Frame} (hs : s.slot f.tag = none) (h : s.wq.admission ≠ []) (k : ReqKind)
    (r : Request) :
    s.parked f (waitingSlot k f r (if r.binds then s.grp.group.map (fun g => g.id) else none) .admission)
        ((s.taken k f r).joinList f.tag)
      ∧ ((s.taken k f r).joinList f.tag).wq = { s.wq with admission := s.wq.admission ++ [f.tag] }
      ∧ { ((s.taken k f r).joinList f.tag) with link := s.link, req := s.req, wq := s.wq } = s := by
  have hjoin : (s.taken k f r).joinList f.tag = ((({ s with wq := { s.wq with admission := s.wq.admission ++ [f.tag] } } : State).taken
      k f r).waitFor f.tag .admission).consultFor f.tag := by
    rw [State.joinList]
    exact if_neg h
  rw [hjoin]
  obtain ⟨hparked, hframe⟩ := State.parked_of_waits (s := s)
    (u := { s with wq := { s.wq with admission := s.wq.admission ++ [f.tag] } }) rfl rfl rfl hs k r (why := .admission) (by simp)
  exact ⟨hparked, congrArg State.wq hframe,
    congrArg (fun t : State => { t with link := s.link, req := s.req, wq := s.wq }) hframe⟩

theorem writeRequest_binds (deletes : Bool) (w : WriteFields) : (writeRequest deletes w).binds = w.group := by
  cases deletes <;> rfl

/-- The write-class requests join the Admission List (R39). -/
theorem exec_joinList_taken {s : State} {k : ReqKind} {tag flags : Byte} {payload : List Byte} {r : Request}
    (hk : k ∈ [ReqKind.put, .delete, .fence, .commit]) (h : s.takes k (requestFrame k tag flags payload) r = true) :
    exec (requestCommand k tag flags payload) s
      = .next ((s.taken k (requestFrame k tag flags payload) r).joinList tag) := by
  simp only [List.mem_cons, List.not_mem_nil, or_false] at hk
  rcases hk with rfl | rfl | rfl | rfl
  · exact exec_put_taken h
  · exact exec_delete_taken h
  · exact exec_fence_taken h
  · exact exec_commit_taken h

/-- Settles O24: the arrival's consideration is `considerLone` at the list's head, and its cases are those of R42 and R43. -/
theorem writeNotAdmittedAtOnce : Obligations.WriteNotAdmittedAtOnce := by
  refine ⟨fun s deletes tag flags payload w htakes hlone hopen hmedia => ?_,
    fun s deletes tag flags payload w htakes hlone hopen hmedia hpasses hroom => ?_,
    fun s k tag flags payload r hk htakes hwaiting => ?_⟩
  · have hslot := State.takes_slot htakes
    have hhead := State.considerHead_write htakes hmedia
    simp only [hlone] at hhead
    refine ⟨fun hsize => ?_, fun hsize hdel => ?_, fun hsize hdel hcond => ?_, fun hsize hdel hcond hplace => ?_,
      fun hsize hdel hcond hplace hspace => ?_⟩
    · exact ⟨_, exec_write_taken htakes, State.joinList_refuse hslot hopen (hhead.trans (State.considerLone_tooLarge hsize))⟩
    · exact ⟨_, exec_write_taken htakes, State.joinList_refuse hslot hopen (hhead.trans (State.considerLone_notFound hsize hdel))⟩
    · exact ⟨_, exec_write_taken htakes, State.joinList_refuse hslot hopen (hhead.trans (State.considerLone_conflict hsize hdel hcond))⟩
    · exact ⟨_, exec_write_taken htakes, State.joinList_refuse hslot hopen (hhead.trans (State.considerLone_noEntry hsize hdel hcond hplace))⟩
    · exact ⟨_, exec_write_taken htakes, State.joinList_refuse hslot hopen (hhead.trans (State.considerLone_noSpace hsize hdel hcond hplace hspace))⟩
  · have hslot := State.takes_slot htakes
    have hhead := State.considerHead_write htakes hmedia
    simp only [hlone] at hhead
    refine ⟨_, exec_write_taken htakes, ?_⟩
    have hkept := State.joinList_keep hslot hopen (by simp) (hhead.trans (State.considerLone_kept hpasses hroom))
    rw [writeRequest_binds, hlone] at hkept
    exact hkept
  · exact ⟨_, exec_joinList_taken hk htakes, State.joinList_behind (State.takes_slot htakes) hwaiting k r⟩

end Sys2Proof.Machine
end

section
/-! PROOFS. What admits, stages and discards: lone writes, members, fences, groups (R44, R52, R62, R66, R72, R73). -/

namespace Sys2Proof.Machine

/-! ## Replies and waits that touch the Request Table and the Transmit Queue alone -/

/-- From `s` to `t` only the Request Table and the Transmit Queue may differ. -/
def State.tableOnly (s t : State) : Prop := t.link.notices = s.link.notices ∧ { t with link := s.link, req := s.req } = s

theorem State.answer_tableOnly (s : State) (tag : Byte) (st : Status) (fields : List Byte) :
    s.tableOnly (s.answer tag st fields) := by
  rw [State.answer]
  cases hslot : s.slot tag with
  | none => simp [State.finish, hslot, State.tableOnly]
  | some sl =>
    cases hc : sl.session with
    | current =>
      rw [State.finish_current hslot hc]
      exact ⟨rfl, rfl⟩
    | ended =>
      rw [State.finish_ended hslot hc]
      exact ⟨rfl, rfl⟩

theorem State.waitFor_tableOnly (s : State) (tag : Byte) (why : WaitReason) : s.tableOnly (s.waitFor tag why) := ⟨rfl, rfl⟩

theorem State.taken_tableOnly (s : State) (k : ReqKind) (f : Frame) (r : Request) : s.tableOnly (s.taken k f r) := ⟨rfl, rfl⟩

/-- The end of an arrival's event tells PENDING behind every reply, to a request that is owed it (R164). -/
theorem State.tells_settleFor (u : State) (tag : Byte) : u.tells tag := by
  refine ⟨fun hnone => ?_, fun sl hslot hsession hstate hwait hsent => ?_⟩
  · rw [State.settleFor, State.tellPending_none hnone]
  · have howed : sl.owedPending = true := by simp [Slot.owedPending, hsession, hstate, hwait, hsent]
    rw [State.settleFor, State.tellPending_owed hslot howed]

section Arrival
variable {s : State} {f : Frame} {k : ReqKind} {r : Request}

/-- A request that leaves the list at its one consideration, and what acts on it then. -/
theorem State.considerHead_arrival (h : s.listOpen) {act : State → State}
    (hc : (s.atHead k f r).considerHead (s.takenSlot k f r) = .left (act ((s.atHead k f r).leaveList f.tag))) :
    ((s.atHead k f r).considerHead (s.takenSlot k f r)).state = act (s.taken k f r) := by
  rw [hc, State.atHead_leaves h]
  rfl

/-- When something joins the Write Queue the blocks act, and PENDING is told at the end of the event. -/
theorem State.joinList_settles (hs : s.slot f.tag = none) (h : s.listOpen) {act : State → State}
    (hc : (s.atHead k f r).considerHead (s.takenSlot k f r) = .left (act ((s.atHead k f r).leaveList f.tag)))
    (hn : (act (s.taken k f r)).wq.entries.length ≠ s.wq.entries.length) :
    (s.taken k f r).joinList f.tag = (act (s.taken k f r)).settleFor f.tag :=
  (State.joinList_open hs h (State.considerHead_arrival h hc)).trans (if_neg hn)

/-- When nothing joins the Write Queue no other block is concerned. -/
theorem State.joinList_consults (hs : s.slot f.tag = none) (h : s.listOpen) {act : State → State}
    (hc : (s.atHead k f r).considerHead (s.takenSlot k f r) = .left (act ((s.atHead k f r).leaveList f.tag)))
    (hn : (act (s.taken k f r)).wq.entries.length = s.wq.entries.length) :
    (s.taken k f r).joinList f.tag = (act (s.taken k f r)).consultFor f.tag :=
  (State.joinList_open hs h (State.considerHead_arrival h hc)).trans (if_pos hn)

end Arrival

section Taken
variable {s t : State} {f : Frame} {k : ReqKind} {r : Request}

/-- The reply to a request just taken, decided in a state whose Request Table is still the one of the taking. -/
theorem State.answer_of_taken (h : s.slot f.tag = none) (ht : t.req = (s.taken k f r).req) (st : Status) (fields : List Byte) :
    t.answer f.tag st fields = { t with
      link := { t.link with txq := t.txAfter (plainTx (replyFrame f.tag (le 1 st.code ++ fields))) }
      req := { s.req with
        cache := cacheAfter s.req.cache (CacheEntry.mk f.tag f.digest (replyFrame f.tag (le 1 st.code ++ fields))) } } := by
  have hslot : t.slot f.tag = some (s.takenSlot k f r) := by
    rw [State.slot, ht]
    exact State.taken_slot h k r
  have hreq := congrArg State.req (State.taken_answer h k r st fields)
  rw [State.answer, State.finish_current (State.taken_slot h k r) rfl] at hreq
  rw [State.answer, State.finish_current hslot rfl, ht]
  exact congrArg (fun q : RequestTable => { t with
    link := { t.link with txq := t.txAfter (plainTx (replyFrame f.tag (le 1 st.code ++ fields))) }, req := q }) hreq

theorem State.answer_of_taken_slot (h : s.slot f.tag = none) (ht : t.req = (s.taken k f r).req) (st : Status)
    (fields : List Byte) : (t.answer f.tag st fields).slot f.tag = none := by
  rw [State.answer_of_taken h ht]
  exact h

/-- Such a reply, before the event's end. -/
theorem State.replied_of_answer (h : s.slot f.tag = none) (ht : t.req = (s.taken k f r).req) (hlink : t.link = s.link)
    (st : Status) (fields : List Byte) :
    s.replied f (le 1 st.code ++ fields) (t.answer f.tag st fields)
      ∧ { (t.answer f.tag st fields) with link := t.link, req := t.req } = t := by
  rw [State.answer_of_taken h ht]
  refine ⟨⟨⟨⟨[], by simp, ?_⟩, ?_⟩, rfl⟩, rfl⟩
  · rw [List.append_nil, State.txAfter, hlink]
    rfl
  · rw [hlink]

/-- Such a reply with the notices behind it. -/
theorem State.replied_consult (h : s.slot f.tag = none) (ht : t.req = (s.taken k f r).req)
    (hlink : { t.link with notices := s.link.notices } = s.link) (st : Status) (fields : List Byte) :
    s.replied f (le 1 st.code ++ fields) (t.answer f.tag st fields).consult
      ∧ { (t.answer f.tag st fields).consult with link := t.link, req := t.req } = t := by
  have htxq : t.link.txq = s.link.txq := by
    rw [← hlink]
  obtain ⟨notes, rest, hnotes, _, hconsult⟩ := State.consult_eq (t.answer f.tag st fields)
  rw [hconsult, State.answer_of_taken h ht]
  refine ⟨⟨⟨⟨notes, hnotes, ?_⟩, ?_⟩, rfl⟩, rfl⟩
  · rw [State.txAfter, htxq]
    rfl
  · exact congrArg (fun l : Link => { l with txq := s.link.txq, notices := s.link.notices }) hlink

end Taken

section Replied
variable {s t : State} {f : Frame} {k : ReqKind} {r : Request}

/-- A request that leaves the list with its reply, and nothing joins the Write Queue. -/
theorem State.joinList_replies (h : s.slot f.tag = none) (hopen : s.listOpen) {act : State → State} {st : Status}
    {fields : List Byte}
    (hc : (s.atHead k f r).considerHead (s.takenSlot k f r) = .left (act ((s.atHead k f r).leaveList f.tag)))
    (hact : act (s.taken k f r) = t.answer f.tag st fields) (ht : t.req = (s.taken k f r).req)
    (hlink : { t.link with notices := s.link.notices } = s.link) (hlen : t.wq.entries.length = s.wq.entries.length) :
    s.replied f (le 1 st.code ++ fields) ((s.taken k f r).joinList f.tag)
      ∧ { ((s.taken k f r).joinList f.tag) with link := t.link, req := t.req } = t := by
  have hjoin : (s.taken k f r).joinList f.tag = (t.answer f.tag st fields).consult := by
    rw [State.joinList_consults h hopen hc (by rw [hact]; simpa using hlen), hact,
      State.consultFor_answered (State.answer_of_taken_slot h ht st fields)]
  rw [hjoin]
  exact State.replied_consult h ht hlink st fields

end Replied

/-! ## A lone write (R23, R44, R51) -/

/-- A lone write has been admitted and has not been answered yet (R44). -/
def State.withLone (s : State) (tag : Byte) (deletes : Bool) (w : WriteFields) (seq : Nat) : State := { s with
  link := { s.link with notices := s.noticesAfter (s.dir.admitted + writeBytes deletes w) }
  wq := { s.wq with
    entries := s.wq.entries ++ [loneEntry tag deletes w seq]
    charged := s.wq.charged + writeBytes deletes w
    seqCounter := some (seq + 1) }
  dir := { s.dir with
    entries := Machine.putEntry (entryAfterWrite (s.entry w.key) w.key deletes w.value.length seq) s.dir.entries
    admitted := s.dir.admitted + writeBytes deletes w
    reserved := s.dir.reserved.filter (fun r => r.key != w.key) }
  sup := { s.sup with holdTimer := s.sup.holdTimer || decide (s.sup.condition = .hold) } }

theorem State.admitsLone_withLone (s : State) (tag : Byte) (deletes : Bool) (w : WriteFields) (seq : Nat) :
    s.admitsLone tag deletes w seq (s.withLone tag deletes w seq) := ⟨rfl, rfl, rfl, rfl, rfl⟩

theorem takenEntry_write (old : Option Entry) (k : Key) (deletes : Bool) (seq : Nat) (value : List Byte) :
    takenEntry old k (writeKind deletes) seq (if deletes then [] else value).length
      = entryAfterWrite old k deletes value.length seq := by
  cases old <;> cases deletes <;> rfl

theorem State.admission_eq {s : State} {seq : Nat} (hseq : s.wq.seqCounter = some seq) (tag : Byte) (deletes : Bool) (w : WriteFields) :
    ((((s.takeSeqs 1).dirTake w.key (writeKind deletes) seq (writeValue deletes w).length).setAdmitted
      (s.dir.admitted + writeBytes deletes w)).charge (writeBytes deletes w)).enqueue (loneEntry tag deletes w seq)
      = s.withLone tag deletes w seq := by
  have hnext : s.nextSeq = seq := by rw [State.nextSeq, hseq]; rfl
  rw [State.dirTake_eq, writeValue, takenEntry_write, State.setAdmitted_eq, State.enqueue, State.startHoldTimer_eq,
    State.takeSeqs, hnext]
  simp [State.modQueue, State.charge, State.withLone, State.noticesAfter, State.entry]
  rfl

theorem State.admitLone_eq {s : State} {seq : Nat} (hseq : s.wq.seqCounter = some seq) (tag : Byte) (deletes : Bool) (w : WriteFields) :
    s.admitLone tag deletes w
      = if w.durable then (s.withLone tag deletes w seq).waitFor tag .durable
        else (s.withLone tag deletes w seq).answer tag .ok (le 6 seq) := by
  have hnext : s.nextSeq = seq := by rw [State.nextSeq, hseq]; rfl
  rw [← State.admission_eq hseq tag deletes w, State.admitLone, hnext]
  rfl

/-- What a lone write's admission changes does not depend on the Request Table and the Transmit Queue. -/
theorem State.admitsLone.congr {s u v : State} {tag : Byte} {deletes : Bool} {w : WriteFields} {seq : Nat}
    (h : s.admitsLone tag deletes w seq u) (huv : u.tableOnly v) : s.admitsLone tag deletes w seq v := by
  obtain ⟨hnotices, hwq, hdir, hsup, hrest⟩ := h
  obtain ⟨hnotices', hframe⟩ := huv
  refine ⟨hnotices'.trans hnotices, (congrArg State.wq hframe).trans hwq, (congrArg State.dir hframe).trans hdir,
    (congrArg State.sup hframe).trans hsup, ?_⟩
  exact (congrArg (fun t : State => { t with link := s.link, req := s.req, wq := s.wq, dir := s.dir, sup := s.sup })
    hframe).trans hrest

/-- A lone write that has just been taken is admitted, up to the end of the event (R44, R51). -/
theorem State.taken_admitLone {s : State} {seq : Nat} (hseq : s.wq.seqCounter = some seq) {f : Frame} (h : s.slot f.tag = none)
    (k : ReqKind) {r : Request} (hr : r.binds = false) (deletes : Bool) (w : WriteFields) :
    let u := (s.taken k f r).admitLone f.tag deletes w
    s.admitsLone f.tag deletes w seq u
      ∧ (if w.durable then s.waits f { waitingSlot k f r none .durable with pendingSent := false } u
         else s.replied f ([0] ++ le 6 seq) { u with link := { u.link with notices := s.link.notices } }) := by
  intro u
  have hu : u = if w.durable then ((s.withLone f.tag deletes w seq).taken k f r).waitFor f.tag .durable
      else ((s.withLone f.tag deletes w seq).taken k f r).answer f.tag .ok (le 6 seq) :=
    State.admitLone_eq (s := s.taken k f r) hseq f.tag deletes w
  have hadmits := (s.admitsLone_withLone f.tag deletes w seq).congr (State.taken_tableOnly _ k f r)
  have hslot : (s.withLone f.tag deletes w seq).slot f.tag = none := h
  by_cases hdurable : w.durable = true
  · rw [if_pos hdurable] at hu ⊢
    rw [hu]
    refine ⟨hadmits.congr (State.waitFor_tableOnly _ _ _), ?_⟩
    rw [State.taken_waits hslot]
    refine ⟨rfl, ?_⟩
    simp only [State.takenSlot, hr]
    rfl
  · rw [if_neg hdurable] at hu ⊢
    rw [hu]
    refine ⟨hadmits.congr (State.answer_tableOnly _ _ _ _), ?_⟩
    rw [State.taken_answer hslot]
    exact ⟨⟨⟨[], by simp, (List.append_nil _).symm⟩, rfl⟩, rfl⟩

/-- Settles O25: the admission, `withLone`, with the reply or the wait that follows it. -/
theorem loneWriteAdmitted : Obligations.LoneWriteAdmitted := by
  intro s deletes tag flags payload w seq f htakes hlone hopen hmedia hpasses hroom hseq
  have hslot := State.takes_slot htakes
  have hhead := State.considerHead_write htakes hmedia
  simp only [hlone] at hhead
  have hadmitted := State.taken_admitLone (f := f) hseq hslot (writeReqKind deletes) (r := writeRequest deletes w)
    (by rw [writeRequest_binds, hlone]) deletes w
  obtain ⟨⟨hnotices, hwq, hdir, hsup, hrest⟩, hreply⟩ := hadmitted
  refine ⟨_, ?_, State.tells_settleFor _ _, ⟨hnotices, hwq, hdir, hsup, hrest⟩, hreply⟩
  rw [exec_write_taken htakes]
  refine congrArg Host.Outcome.next (State.joinList_settles (f := f) (act := State.admitLone tag deletes w) hslot hopen
    (hhead.trans (State.considerLone_admitted hpasses hroom)) ?_)
  rw [show (State.admitLone tag deletes w (s.taken _ f _)).wq.entries.length = _ from
    congrArg (fun q : WriteQueue => q.entries.length) hwq]
  simp

/-! ## BEGIN, members, ABORT (R62, R64 to R66, R72, R73) -/

theorem State.actBegin_some {s : State} {g : OpenGroup} (h : s.grp.group = some g) (tag : Byte) :
    s.actBegin tag = (s.answer tag .groupState []).consult := by
  simp only [State.actBegin, h]

/-- A group has been opened (R62). -/
def State.withGroup (s : State) : State :=
  { s with grp := ⟨some ⟨s.grp.counter, [], 0⟩, nextGroupId s.grp.counter⟩ }

theorem State.actBegin_none {s : State} (h : s.grp.group = none) (tag : Byte) :
    s.actBegin tag = (s.withGroup.answer tag .ok (le 2 s.grp.counter)).consult := by
  simp only [State.actBegin, h]
  rfl

/-- The open group with one more member (R66). -/
def OpenGroup.add (g : OpenGroup) (m : Member) : OpenGroup :=
  { g with members := g.members ++ [m], bytes := g.bytes + m.recLen }

/-- A group-flagged write has been staged and has not been answered yet (R66). -/
def State.withMember (s : State) (deletes : Bool) (w : WriteFields) (g : OpenGroup) : State := { s with
  link := { s.link with notices := s.noticesAfter (s.dir.admitted + writeBytes deletes w) }
  grp := { s.grp with group := some (g.add (Member.mk w.key (writeKind deletes) (writeValue deletes w) (writeBytes deletes w) w.ifSeq)) }
  dir := { s.dir with admitted := s.dir.admitted + writeBytes deletes w }
  wq := { s.wq with charged := s.wq.charged + writeBytes deletes w } }

theorem State.stages_withMember (s : State) (deletes : Bool) (w : WriteFields) (g : OpenGroup) :
    s.stages deletes w g (s.withMember deletes w g) := ⟨rfl, rfl, rfl, rfl⟩

theorem State.stageMember_eq (s : State) (tag : Byte) (deletes : Bool) (w : WriteFields) (g : OpenGroup) :
    s.stageMember tag deletes w g
      = (s.withMember deletes w g).answer tag .ok (le 1 (g.members.length + 1)) := by
  rw [State.stageMember]
  simp only [State.setAdmitted_eq]
  rfl

theorem State.stages.congr {s u v : State} {deletes : Bool} {w : WriteFields} {g : OpenGroup} (h : s.stages deletes w g u)
    (huv : { v with link := u.link, req := u.req } = u) : s.stages deletes w g v := by
  obtain ⟨hgrp, hdir, hwq, hrest⟩ := h
  exact ⟨(congrArg State.grp huv).trans hgrp, (congrArg State.dir huv).trans hdir, (congrArg State.wq huv).trans hwq,
    (congrArg (fun t : State => { t with link := s.link, req := s.req, grp := s.grp, dir := s.dir, wq := s.wq }) huv).trans hrest⟩

/-- Settles O26: BEGIN with and without a group, and a member's consideration case by case. -/
theorem groupOpenedAndFilled : Obligations.GroupOpenedAndFilled := by
  refine ⟨fun s tag flags payload htakes => ?_, fun s deletes tag flags payload w htakes hgroup hopen hmedia => ?_⟩
  · have hslot := State.takes_slot htakes
    refine ⟨_, exec_beginGroup_taken htakes, fun g hg => ?_, fun hnone => ?_⟩
    · rw [State.actBegin_some (s := s.taken _ _ _) hg]
      exact State.taken_answered hslot .beginGroup .beginGroup .groupState []
    · rw [State.actBegin_none (s := s.taken _ _ _) hnone]
      obtain ⟨hreplied, hframe⟩ := State.replied_consult
        (t := (s.taken .beginGroup (requestFrame .beginGroup tag flags payload) .beginGroup).withGroup) hslot rfl rfl
        .ok (le 2 s.grp.counter)
      exact ⟨hreplied, congrArg State.grp hframe,
        congrArg (fun t : State => { t with link := s.link, req := s.req, grp := s.grp }) hframe⟩
  · intro b
    have hslot := State.takes_slot htakes
    have hhead := State.considerHead_write htakes hmedia
    simp only [hgroup] at hhead
    refine ⟨_, exec_write_taken htakes, fun hnone => ?_, fun g hg => ?_⟩
    · rw [hnone] at hhead
      have hbound : (s.atHead (writeReqKind deletes) (requestFrame (writeReqKind deletes) tag flags payload)
          (writeRequest deletes w)).boundGroup none = none := by
        show (match s.grp.group with | some g => _ | none => _) = _
        rw [hnone]
      exact State.joinList_refuse hslot hopen (hhead.trans (State.considerMember_none hbound))
    · rw [hg] at hhead
      have hbound : (s.atHead (writeReqKind deletes) (requestFrame (writeReqKind deletes) tag flags payload)
          (writeRequest deletes w)).boundGroup (some g.id) = some g := State.boundGroup_eq_some.2 ⟨hg, rfl⟩
      refine ⟨fun hsize => ?_, fun hsize hfull => ?_, fun hsize hcount hbytes hspace => ?_,
        fun hsize hcount hbytes hspace hroom => ?_, fun hsize hcount hbytes hspace hroom => ?_⟩
      · exact State.joinList_refuse hslot hopen (hhead.trans (State.considerMember_tooLarge hbound hsize))
      · exact State.joinList_refuse hslot hopen (hhead.trans (State.considerMember_groupFull hbound hsize hfull))
      · exact State.joinList_refuse hslot hopen (hhead.trans (State.considerMember_noSpace hbound hsize hcount hbytes hspace))
      · have hkept := State.joinList_keep hslot hopen (by simp)
          (hhead.trans (State.considerMember_kept hbound hsize hcount hbytes hspace hroom))
        rw [writeRequest_binds, hgroup, hg] at hkept
        exact hkept
      · have hleft := hhead.trans (State.considerMember_staged hbound hsize hcount hbytes hspace hroom)
        obtain ⟨hreplied, hframe⟩ := State.joinList_replies (f := requestFrame (writeReqKind deletes) tag flags payload)
          (act := State.stageMember tag deletes w g) hslot hopen hleft (State.stageMember_eq _ _ _ _ _) rfl rfl rfl
        exact ⟨hreplied, ((s.stages_withMember deletes w g).congr
          (v := (s.taken _ _ _).withMember deletes w g) rfl).congr hframe⟩

/-! ## FENCE (R52) -/

/-- A FENCE has been admitted (R52). -/
def State.fenced (s : State) : State :=
  s.modQueue (fun q => { q with failureNote := false, fenceBoundary := s.wq.seqCounter.getD 1 - 1 })

/-- A FENCE has been admitted, and waits for the entry with the sequence `mark` (R52). -/
def State.fencedOn (s : State) (tag : Byte) (mark : Nat) : State :=
  s.fenced.modQueue (fun q => { q with fences := q.fences ++ [FenceWaiter.mk tag mark s.wq.failureNote] })

theorem State.admitFence_empty {s : State} (h : s.wq.entries = []) (tag : Byte) :
    s.admitFence tag = s.fenced.answer tag (fenceStatus s.wq.failureNote) [] := by
  simp only [State.admitFence, h, List.getLast?_nil]
  rfl

theorem State.admitFence_queued {s : State} {before : List QueueEntry} {e : QueueEntry} (h : s.wq.entries = before ++ [e])
    (tag : Byte) : s.admitFence tag = (s.fencedOn tag e.seq).waitFor tag .fence := by
  simp only [State.admitFence, h, List.getLast?_concat]
  rfl

theorem fenceReply_eq (failed : Bool) : le 1 (fenceStatus failed).code ++ [] = [if failed then 19 else 0] := by
  cases failed <;> rfl

/-- Settles O27: `admitFence` on an empty and on a filled Write Queue. -/
theorem fenceDecided : Obligations.FenceDecided := by
  intro s tag flags payload f htakes hopen wq'
  have hslot := State.takes_slot htakes
  have hhead : (s.atHead .fence f .fence).considerHead (s.takenSlot .fence f .fence)
      = .left (((s.atHead .fence f .fence).leaveList tag).admitFence tag) := rfl
  refine ⟨_, exec_fence_taken htakes, fun hempty => ?_, fun before e hqueued => ?_⟩
  · obtain ⟨hreplied, hframe⟩ := State.joinList_replies (f := f) (act := State.admitFence tag) hslot hopen hhead
      (State.admitFence_empty (s := s.taken .fence f .fence) hempty tag) rfl rfl rfl
    rw [fenceReply_eq] at hreplied
    exact ⟨hreplied, congrArg State.wq hframe,
      congrArg (fun t : State => { t with link := s.link, req := s.req, wq := s.wq }) hframe⟩
  · have hact := State.admitFence_queued (s := s.taken .fence f .fence) hqueued tag
    have hjoin := State.joinList_consults (f := f) (act := State.admitFence tag) hslot hopen hhead (by
      rw [hact]
      rfl)
    rw [hact] at hjoin
    obtain ⟨hparked, hframe⟩ := State.parked_of_waits (s := s) (u := s.fencedOn tag e.seq) rfl rfl rfl hslot .fence .fence
      (why := .fence) (by simp)
    refine hjoin ▸ ⟨hparked, congrArg State.wq hframe,
      congrArg (fun t : State => { t with link := s.link, req := s.req, wq := s.wq }) hframe⟩

/-! ## ABORT (R72, R73) -/

theorem State.actAbort_none {s : State} (h : s.grp.group = none) (tag : Byte) :
    s.actAbort tag = (s.answer tag .groupState []).consult := by
  simp only [State.actAbort, h]

theorem State.actAbort_some {s : State} {g : OpenGroup} (h : s.grp.group = some g) (tag : Byte) :
    s.actAbort tag = (s.discardGroup.answer tag .ok (le 1 g.members.length)).afterDiscard := by
  simp only [State.actAbort, h]

/-- Settles O30: the discard, the reply, and what the discard calls for. -/
theorem abortDecided : Obligations.AbortDecided := by
  intro s tag flags payload f htakes
  have hslot := State.takes_slot htakes
  have hexec := exec_abort_taken htakes
  refine ⟨fun hnone => ?_, fun g hg => ?_⟩
  · rw [State.actAbort_none (s := s.taken _ _ _) hnone] at hexec
    exact ⟨_, hexec, State.taken_answered hslot .abort .abort .groupState []⟩
  · rw [State.actAbort_some (s := s.taken _ _ _) hg] at hexec
    have hdiscard := State.discardGroup_some (s := s.taken .abort f .abort) hg
    have hreq : (s.taken .abort f .abort).discardGroup.req = (s.taken .abort f .abort).req := by rw [hdiscard]
    have hlink : (s.taken .abort f .abort).discardGroup.link = s.link := by rw [hdiscard]; rfl
    obtain ⟨hreplied, hframe⟩ := State.replied_of_answer (f := f) hslot hreq hlink .ok (le 1 g.members.length)
    have hdwq : (s.taken .abort f .abort).discardGroup.wq = { s.wq with charged := s.wq.charged - g.bytes } := by
      rw [hdiscard]
      rfl
    have hwq := (congrArg State.wq hframe).trans hdwq
    refine ⟨_, hexec, fun hlist => ?_, hreplied, ?_, ?_, hwq, ?_⟩
    · rw [hexec]
      refine congrArg Host.Outcome.next (State.afterDiscard_empty ?_)
      exact (congrArg (fun q : WriteQueue => q.admission) hwq).trans hlist
    · exact (congrArg State.grp hframe).trans (by rw [hdiscard]; rfl)
    · exact (congrArg State.dir hframe).trans (by rw [hdiscard]; rfl)
    · exact (congrArg (fun t : State => { t with link := s.link, req := s.req, grp := s.grp, dir := s.dir, wq := s.wq })
        hframe).trans (by rw [hdiscard])

end Sys2Proof.Machine
end

section
/-! PROOFS. COMMIT: its checks, and what it refuses, keeps and admits (R63, R68 to R70, R73). -/

namespace Sys2Proof.Machine

/-! ## The commit checks (R68) -/

/-- The key reads as present behind the members `pre`: the last of them with the key decides, or else the Directory. -/
def State.readsPresent (s : State) (pre : List Member) (k : Key) : Prop :=
  match pre.reverse.find? (fun m => m.key == k) with
  | some m => m.kind = .data
  | none => s.isAbsent k = false

/-- A member passes its checks behind the members `pre`. -/
def State.memberPasses (s : State) (pre : List Member) (m : Member) : Prop :=
  (m.kind = .tombstone → s.readsPresent pre m.key) ∧ ∀ q, m.ifSeq = some q → q = s.checkSeq m.key

/-- What the commit checks note of the members `pre`. -/
def seenOf (pre : List Member) : List (Key × Bool) := pre.reverse.map (fun m => (m.key, m.kind == .data))

/-- The key reads as absent behind the members `pre`, as the commit checks find it. -/
def State.readsAbsent (s : State) (pre : List Member) (k : Key) : Bool :=
  match (seenOf pre).find? (fun p => p.1 == k) with
  | some (_, present) => !present
  | none => s.isAbsent k

theorem State.readsAbsent_iff (s : State) (pre : List Member) (k : Key) :
    s.readsAbsent pre k = true ↔ ¬ s.readsPresent pre k := by
  have hfind : (seenOf pre).find? (fun p => p.1 == k)
      = (pre.reverse.find? (fun m => m.key == k)).map (fun m => (m.key, m.kind == .data)) := by
    rw [seenOf, List.find?_map]
    rfl
  rw [State.readsAbsent, State.readsPresent, hfind]
  cases pre.reverse.find? (fun m => m.key == k) with
  | none => simp
  | some m => simp

theorem seenOf_concat (pre : List Member) (m : Member) : seenOf (pre ++ [m]) = (m.key, m.kind == .data) :: seenOf pre := by
  simp [seenOf]

/-- One member's checks. -/
theorem State.commitCheck_cons (s : State) (pre : List Member) (m : Member) (rest : List Member) (i : Nat) :
    s.commitCheck (m :: rest) (seenOf pre) i
      = if m.kind == .tombstone && s.readsAbsent pre m.key then some (.notFound, i, 0)
        else if m.ifSeq.any (fun q => q != s.checkSeq m.key) then some (.conflict, i, s.checkSeq m.key)
        else s.commitCheck rest (seenOf (pre ++ [m])) (i + 1) := by
  rw [seenOf_concat]
  rfl

/-- A member that fails its checks: which one, and how. -/
def State.memberFails (s : State) (pre : List Member) (m : Member) (st : Status) (q : Nat) : Prop :=
  st = .notFound ∧ m.kind = .tombstone ∧ ¬ s.readsPresent pre m.key
    ∨ st = .conflict ∧ (m.kind = .tombstone → s.readsPresent pre m.key) ∧ (∃ x, m.ifSeq = some x ∧ x ≠ q) ∧ q = s.checkSeq m.key

/-- One member either passes, or decides the commit. -/
theorem State.commitCheck_member (s : State) (pre : List Member) (m : Member) (rest : List Member) (i : Nat) :
    (s.memberPasses pre m ∧ s.commitCheck (m :: rest) (seenOf pre) i = s.commitCheck rest (seenOf (pre ++ [m])) (i + 1))
      ∨ ∃ st q, s.memberFails pre m st q ∧ ¬ s.memberPasses pre m
          ∧ s.commitCheck (m :: rest) (seenOf pre) i = some (st, i, q) := by
  rw [State.commitCheck_cons]
  by_cases habsent : (m.kind == .tombstone && s.readsAbsent pre m.key) = true
  · have hboth : m.kind = .tombstone ∧ ¬ s.readsPresent pre m.key := by
      simpa [Bool.and_eq_true, State.readsAbsent_iff] using habsent
    exact .inr ⟨_, _, .inl ⟨rfl, hboth⟩, fun h => hboth.2 (h.1 hboth.1), if_pos habsent⟩
  · have hpresent : m.kind = .tombstone → s.readsPresent pre m.key := by
      intro hk
      refine Classical.byContradiction fun hnot => ?_
      exact habsent (by simp [hk, (s.readsAbsent_iff pre m.key).2 hnot])
    rw [if_neg habsent]
    by_cases hseq : m.ifSeq.any (fun q => q != s.checkSeq m.key) = true
    · obtain ⟨x, hx, hne⟩ := (Option.any_eq_true _ _).1 hseq
      have hne' : x ≠ s.checkSeq m.key := by simpa using hne
      exact .inr ⟨_, _, .inr ⟨rfl, hpresent, ⟨x, hx, hne'⟩, rfl⟩, fun h => hne' (h.2 x hx), if_pos hseq⟩
    · refine .inl ⟨⟨hpresent, fun q hq => ?_⟩, if_neg hseq⟩
      refine Decidable.byContradiction fun hne => ?_
      exact hseq (by simp [hq, hne])

/-- The commit checks pass just when every member passes its own behind those before it. -/
theorem State.commitCheck_eq_none (s : State) (pre rest : List Member) (i : Nat) :
    s.commitCheck rest (seenOf pre) i = none ↔ ∀ j m, rest[j]? = some m → s.memberPasses (pre ++ rest.take j) m := by
  induction rest generalizing pre i with
  | nil => simp [State.commitCheck]
  | cons m rest ih =>
    rcases s.commitCheck_member pre m rest i with ⟨hpass, heq⟩ | ⟨st, q, _, hfail, heq⟩
    · rw [heq, ih]
      constructor
      · intro h j x hx
        cases j with
        | zero => cases hx; simpa using hpass
        | succ j => simpa using h j x hx
      · intro h j x hx
        simpa using h (j + 1) x hx
    · rw [heq]
      exact ⟨fun h => (nomatch h), fun h => absurd (by simpa using h 0 m rfl) hfail⟩

/-- Otherwise the first member that fails decides. -/
theorem State.commitCheck_eq_some {s : State} {pre rest : List Member} {i n q : Nat} {st : Status}
    (h : s.commitCheck rest (seenOf pre) i = some (st, n, q)) :
    ∃ j m, n = i + j ∧ rest[j]? = some m ∧ (∀ k x, k < j → rest[k]? = some x → s.memberPasses (pre ++ rest.take k) x)
      ∧ s.memberFails (pre ++ rest.take j) m st q := by
  induction rest generalizing pre i with
  | nil => cases h
  | cons m rest ih =>
    rcases s.commitCheck_member pre m rest i with ⟨hpass, heq⟩ | ⟨st', q', hfails, _, heq⟩
    · rw [heq] at h
      obtain ⟨j, x, hn, hx, hbefore, hfails⟩ := ih h
      refine ⟨j + 1, x, by omega, hx, fun k y hk hy => ?_, by simpa using hfails⟩
      cases k with
      | zero => cases hy; simpa using hpass
      | succ k => simpa using hbefore k y (by omega) hy
    · rw [heq] at h
      cases h
      exact ⟨0, m, rfl, rfl, fun k x hk => absurd hk (Nat.not_lt_zero k), by simpa using hfails⟩

/-- The commit checks read the Directory alone. -/
theorem State.commitCheck_congr {s t : State} (h : t.dir = s.dir) (ms : List Member) (seen : List (Key × Bool)) (i : Nat) :
    t.commitCheck ms seen i = s.commitCheck ms seen i := by
  have habsent : ∀ k, t.isAbsent k = s.isAbsent k := fun k => by simp only [State.isAbsent, State.entry, h]
  have hseq : ∀ k, t.checkSeq k = s.checkSeq k := fun k => by simp only [State.checkSeq, State.entry, h]
  induction ms generalizing seen i with
  | nil => rfl
  | cons m rest ih => simp only [State.commitCheck, habsent, hseq, ih]

/-! ## The cases of a commit's consideration (R63, R68, R69) -/

section CommitCases
variable {s : State} {tag : Byte} {bound : Option Nat} {g : OpenGroup}

theorem State.considerCommit_none (h : s.boundGroup bound = none) : s.considerCommit tag bound = s.refuse tag .groupState [] := by
  simp only [State.considerCommit, h]

theorem State.considerCommit_notFound (h : s.boundGroup bound = some g) {i q : Nat}
    (hc : s.commitCheck g.members [] 1 = some (.notFound, i, q)) :
    s.considerCommit tag bound = s.refuseCommit tag .notFound (le 1 i) := by
  simp only [State.considerCommit, h, hc]

theorem State.considerCommit_conflict (h : s.boundGroup bound = some g) {i q : Nat}
    (hc : s.commitCheck g.members [] 1 = some (.conflict, i, q)) :
    s.considerCommit tag bound = s.refuseCommit tag .conflict (le 6 q ++ le 1 i) := by
  simp only [State.considerCommit, h, hc]

theorem State.considerCommit_passes (h : s.boundGroup bound = some g) (hc : s.commitCheck g.members [] 1 = none) :
    s.considerCommit tag bound
      = if 3072 - s.places < s.newPlaces g.members then s.refuseCommit tag .noEntry []
        else if 24 - s.wq.entries.length < g.members.length then .kept (s.waitFor tag .commit)
        else .left ((s.leaveList tag).admitGroup tag g) := by
  simp only [State.considerCommit, h, hc]

theorem State.considerCommit_noEntry (h : s.boundGroup bound = some g) (hc : s.commitCheck g.members [] 1 = none)
    (hplaces : 3072 - s.places < s.newPlaces g.members) : s.considerCommit tag bound = s.refuseCommit tag .noEntry [] := by
  rw [State.considerCommit_passes h hc, if_pos hplaces]

theorem State.considerCommit_kept (h : s.boundGroup bound = some g) (hc : s.commitCheck g.members [] 1 = none)
    (hplaces : s.newPlaces g.members ≤ 3072 - s.places) (hroom : 24 - s.wq.entries.length < g.members.length) :
    s.considerCommit tag bound = .kept (s.waitFor tag .commit) := by
  rw [State.considerCommit_passes h hc, if_neg (Nat.not_lt.2 hplaces), if_pos hroom]

theorem State.considerCommit_admitted (h : s.boundGroup bound = some g) (hc : s.commitCheck g.members [] 1 = none)
    (hplaces : s.newPlaces g.members ≤ 3072 - s.places) (hroom : g.members.length ≤ 24 - s.wq.entries.length) :
    s.considerCommit tag bound = .left ((s.leaveList tag).admitGroup tag g) := by
  rw [State.considerCommit_passes h hc, if_neg (Nat.not_lt.2 hplaces), if_neg (Nat.not_lt.2 hroom)]

end CommitCases

/-- An empty group needs no place. -/
theorem State.newPlaces_nil (s : State) : s.newPlaces [] = 0 := rfl

/-- An empty group is admitted with no members (R70). -/
theorem State.admitGroup_empty {g : OpenGroup} (h : g.members = []) (s : State) (tag : Byte) :
    s.admitGroup tag g = ({ s with grp := { s.grp with group := none } } : State).answer tag .ok (commitFields 0 none) := by
  simp only [State.admitGroup, h, if_true]

/-- The reply of a refused COMMIT and the discard of its group do not disturb each other (R68, R73). -/
theorem State.discardGroup_answer (s : State) (tag : Byte) (st : Status) (fields : List Byte) :
    (s.answer tag st fields).discardGroup = s.discardGroup.answer tag st fields := by
  simp only [State.discardGroup_eq]
  rw [State.answer, State.answer]
  cases hslot : s.slot tag with
  | none =>
    have hslot' : ({ s with grp := { s.grp with group := none }, dir := { s.dir with admitted := s.dir.admitted - s.stagedShare }
                            wq := { s.wq with charged := s.wq.charged - s.stagedShare } } : State).slot tag = none := hslot
    simp only [State.finish, hslot, hslot']
  | some sl =>
    have hslot' : ({ s with grp := { s.grp with group := none }, dir := { s.dir with admitted := s.dir.admitted - s.stagedShare }
                            wq := { s.wq with charged := s.wq.charged - s.stagedShare } } : State).slot tag = some sl := hslot
    cases hc : sl.session with
    | current =>
      rw [State.finish_current hslot hc, State.finish_current hslot' hc]
      rfl
    | ended =>
      rw [State.finish_ended hslot hc, State.finish_ended hslot' hc]
      rfl

/-- A COMMIT that arrives to an empty Admission List is considered as a commit. -/
theorem State.considerHead_commit {s : State} {f : Frame} (hg : s.gate .commit = none) (hm : s.wq.mediaFault = false)
    {g : Option OpenGroup} (hgroup : s.grp.group = g) :
    (s.atHead .commit f .commit).considerHead (s.takenSlot .commit f .commit)
      = (s.atHead .commit f .commit).considerCommit f.tag (g.map (fun g => g.id)) := by
  have hgate := State.headGate_none (k := .commit) (r := .commit) (f := f) hg hm
  subst hgroup
  show (match (s.atHead .commit f .commit).headGate with | some st => _ | none => _) = _
  rw [hgate]
  rfl

/-- A COMMIT refused at its one consideration: its reply, and its group discarded (R68, R73). -/
theorem State.joinList_refuseCommit {s : State} {f : Frame} (hs : s.slot f.tag = none) (h : s.listOpen) {g : OpenGroup}
    (hg : s.grp.group = some g) {k : ReqKind} {r : Request} {st : Status} {fields : List Byte}
    (hc : (s.atHead k f r).considerHead (s.takenSlot k f r) = (s.atHead k f r).refuseCommit f.tag st fields) :
    let t := (s.taken k f r).joinList f.tag
    s.replied f (le 1 st.code ++ fields) t ∧ t.grp = { s.grp with group := none }
      ∧ t.dir = { s.dir with admitted := s.dir.admitted - g.bytes }
      ∧ t.wq = { s.wq with charged := s.wq.charged - g.bytes }
      ∧ { t with link := s.link, req := s.req, grp := s.grp, dir := s.dir, wq := s.wq } = s := by
  have hdiscard := State.discardGroup_some (s := s.taken k f r) hg
  obtain ⟨hreplied, hframe⟩ := State.joinList_replies (act := fun v => (v.answer f.tag st fields).discardGroup) hs h hc
    (State.discardGroup_answer _ _ _ _) (by rw [hdiscard]) (by rw [hdiscard]; rfl) (by rw [hdiscard]; rfl)
  rw [hdiscard] at hframe
  exact ⟨hreplied, congrArg State.grp hframe, congrArg State.dir hframe, congrArg State.wq hframe,
    congrArg (fun t : State => { t with link := s.link, req := s.req, grp := s.grp, dir := s.dir, wq := s.wq }) hframe⟩

/-- Settles O28: the checks by induction along the members, and COMMIT's consideration case by case. -/
theorem commitChecked : Obligations.CommitChecked := by
  refine ⟨fun s ms => ⟨?_, fun st i q h => ?_⟩, fun s tag flags payload htakes hopen hmedia => ?_⟩
  · have hchecks := s.commitCheck_eq_none [] ms 1
    simp only [List.nil_append] at hchecks
    exact hchecks
  · obtain ⟨j, m, rfl, hm, hbefore, hfails⟩ := State.commitCheck_eq_some (pre := []) h
    have hj : 1 + j - 1 = j := by omega
    rw [hj]
    exact ⟨m, by omega, hm, fun k x hk hx => hbefore k x (by omega) hx, hfails⟩
  · have hslot := State.takes_slot htakes
    have hgate := State.takes_gate htakes
    have hexec := exec_commit_taken htakes
    refine ⟨fun hnone => ?_, fun g hg => ?_⟩
    · have hhead := State.considerHead_commit (f := requestFrame .commit tag flags payload) hgate hmedia hnone
      have hbound : (s.atHead .commit (requestFrame .commit tag flags payload) .commit).boundGroup none = none := by
        show (match s.grp.group with | some g => _ | none => _) = _
        rw [hnone]
      exact ⟨_, hexec, State.joinList_refuse hslot hopen (hhead.trans (State.considerCommit_none hbound))⟩
    · have hhead := State.considerHead_commit (f := requestFrame .commit tag flags payload) hgate hmedia hg
      have hbound : (s.atHead .commit (requestFrame .commit tag flags payload) .commit).boundGroup (some g.id) = some g :=
        State.boundGroup_eq_some.2 ⟨hg, rfl⟩
      have hchecks := State.commitCheck_congr (s := s) (t := s.atHead .commit (requestFrame .commit tag flags payload) .commit)
        rfl g.members [] 1
      refine ⟨fun i q hc => ?_, fun i q hc => ?_, fun hc => ⟨fun hplaces => ?_, fun hplaces hroom => ?_, fun hempty => ?_⟩⟩
      · exact ⟨_, hexec, State.joinList_refuseCommit hslot hopen hg (hhead.trans (State.considerCommit_notFound hbound (hchecks.trans hc)))⟩
      · exact ⟨_, hexec, State.joinList_refuseCommit hslot hopen hg (hhead.trans (State.considerCommit_conflict hbound (hchecks.trans hc)))⟩
      · exact ⟨_, hexec, State.joinList_refuseCommit hslot hopen hg
          (hhead.trans (State.considerCommit_noEntry hbound (hchecks.trans hc) hplaces))⟩
      · have hkept := State.joinList_keep hslot hopen (by simp) (hhead.trans (State.considerCommit_kept hbound (hchecks.trans hc) hplaces hroom))
        rw [hg] at hkept
        exact ⟨_, hexec, hkept⟩
      · have hleft := hhead.trans (State.considerCommit_admitted hbound (hchecks.trans hc) (by rw [hempty, State.newPlaces_nil]; omega)
          (by rw [hempty]; exact Nat.zero_le _))
        obtain ⟨hreplied, hframe⟩ := State.joinList_replies (f := requestFrame .commit tag flags payload)
          (act := State.admitGroup tag g) hslot hopen hleft (State.admitGroup_empty hempty _ _) rfl rfl rfl
        exact ⟨_, hexec, hreplied, congrArg State.grp hframe,
          congrArg (fun t : State => { t with link := s.link, req := s.req, grp := s.grp }) hframe⟩

/-! ## A group admitted (R14, R23, R70) -/

/-- The Write Queue entry of the member at an index of a run of `n` members whose first sequence is `seq` (R70). -/
def runEntry (gid : Nat) (tag : Byte) (n seq i : Nat) (m : Member) : QueueEntry :=
  { key := m.key, kind := m.kind, seq := seq + i, recLen := m.recLen, value := m.value,
    group := some (gid, decide (i + 1 = n)), waiter := if i + 1 = n then some tag else none, state := .waiting }

/-- The entry of a key in the Directory after the Directory has taken a write of it or of another key. -/
theorem State.dirTake_entry (s : State) (k : Key) (kind : RecordKind) (seq valLen : Nat) :
    (s.dirTake k kind seq valLen).entry k = some (takenEntry (s.entry k) k kind seq valLen) := by
  rw [State.dirTake_eq]
  have hkey := s.takenEntry_key k kind seq valLen
  have hput := findEntry_put (takenEntry (s.entry k) k kind seq valLen) s.dir.entries
  rw [hkey] at hput
  exact hput

theorem State.dirTake_entry_other (s : State) {k k' : Key} (h : k' ≠ k) (kind : RecordKind) (seq valLen : Nat) :
    (s.dirTake k kind seq valLen).entry k' = s.entry k' := by
  have hkey := s.takenEntry_key k kind seq valLen
  have hother := State.putEntry_entry_other (e := takenEntry (s.entry k) k kind seq valLen) (hkey.symm ▸ h) s
  exact hother

/-- One member joins the Directory and the Write Queue (R70). -/
def State.joinMember (s : State) (gid : Nat) (tag : Byte) (n seq : Nat) (m : Member) : State :=
  (s.dirTake m.key m.kind seq m.value.length).enqueue (runEntry gid tag n seq 0 m)

theorem State.admitMembers_cons (gid : Nat) (tag : Byte) (m : Member) (rest : List Member) (seq : Nat) (s : State) :
    s.admitMembers gid tag (m :: rest) seq
      = (s.joinMember gid tag (rest.length + 1) seq m).admitMembers gid tag rest (seq + 1) := by
  rw [State.admitMembers, State.joinMember, runEntry]
  cases rest <;> simp

theorem State.joinMember_eq (s : State) (gid : Nat) (tag : Byte) (n seq : Nat) (m : Member) :
    s.joinMember gid tag n seq m = { s with
      dir := (s.dirTake m.key m.kind seq m.value.length).dir
      wq := { s.wq with entries := s.wq.entries ++ [runEntry gid tag n seq 0 m] }
      sup := { s.sup with holdTimer := s.sup.holdTimer || decide (s.sup.condition = .hold) } } := by
  rw [State.joinMember, State.enqueue, State.startHoldTimer_eq]
  simp [State.modQueue, State.dirTake_eq]

/-- The entry of a member's key just after the member has joined, from the one before (R23). -/
theorem takenEntry_spec (old : Option Entry) (k : Key) (kind : RecordKind) (seq valLen : Nat) :
    let e := takenEntry old k kind seq valLen
    e.state = kind.entryState ∧ e.newestSeq = seq ∧ e.newestLen = (if kind = .data then valLen else 0)
      ∧ e.flashCopies = (match old with
        | some x => x.flashCopies
        | none => 0) := by
  cases old <;> exact ⟨rfl, rfl, rfl, rfl⟩

/-- A run that names a key no more leaves its entry (R23). -/
theorem State.admitMembers_entry_other {gid : Nat} {tag : Byte} {ms : List Member} {k : Key} (h : ∀ m ∈ ms, m.key ≠ k)
    (seq : Nat) (s : State) : (s.admitMembers gid tag ms seq).entry k = s.entry k := by
  induction ms generalizing seq s with
  | nil => rfl
  | cons m rest ih =>
    rw [State.admitMembers_cons, ih (fun x hx => h x (List.mem_cons_of_mem _ hx)), State.joinMember_eq]
    exact s.dirTake_entry_other (h m List.mem_cons_self).symm _ _ _

/-- What a run leaves as the entry of a key whose last member stands at an index (R23). -/
theorem State.admitMembers_entry {gid : Nat} {tag : Byte} {ms : List Member} {i : Nat} {m : Member} (hm : ms[i]? = some m)
    (hlast : ∀ j x, i < j → ms[j]? = some x → x.key ≠ m.key) (seq : Nat) (s : State) :
    ∃ e, (s.admitMembers gid tag ms seq).entry m.key = some e ∧ e.state = m.kind.entryState ∧ e.newestSeq = seq + i
      ∧ e.newestLen = (if m.kind = .data then m.value.length else 0)
      ∧ e.queued = (match s.entry m.key with
          | some x => x.queued
          | none => 0) + ms.countP (fun x => x.key == m.key)
      ∧ e.durable = (s.entry m.key).bind (fun x => x.durable)
      ∧ e.flashCopies = (match s.entry m.key with
          | some x => x.flashCopies
          | none => 0) := by
  induction ms generalizing i seq s with
  | nil => cases hm
  | cons m0 rest ih =>
    rw [State.admitMembers_cons, State.joinMember_eq]
    generalize hs' : ({ s with dir := _, wq := _, sup := _ } : State) = s'
    have hentry : s'.entry m0.key = some (takenEntry (s.entry m0.key) m0.key m0.kind seq m0.value.length) := by
      rw [← hs']
      exact s.dirTake_entry _ _ _ _
    cases i with
    | zero =>
      cases hm
      have hnone : ∀ x ∈ rest, x.key ≠ m.key := fun x hx => by
        obtain ⟨j, hj⟩ := List.getElem?_of_mem hx
        exact hlast (j + 1) x (by omega) (by simpa using hj)
      have hcount : rest.countP (fun x => x.key == m.key) = 0 := by
        rw [List.countP_eq_zero]
        simpa using hnone
      obtain ⟨hstate, hseq, hlen, hcopies⟩ := takenEntry_spec (s.entry m.key) m.key m.kind seq m.value.length
      refine ⟨_, (State.admitMembers_entry_other hnone _ _).trans hentry, hstate, hseq, hlen, ?_, takenEntry_durable .., hcopies⟩
      have hone : (m :: rest).countP (fun x => x.key == m.key) = 1 := by rw [List.countP_cons_of_pos (by simp), hcount]
      rw [hone]
      exact takenEntry_queued ..
    | succ i =>
      obtain ⟨e, he, hstate, hseq, hlen, hqueued, hdurable, hcopies⟩ := ih (by simpa using hm)
        (fun j x hij hx => hlast (j + 1) x (by omega) (by simpa using hx)) (seq + 1) s'
      by_cases hkey : m0.key = m.key
      · rw [hkey] at hentry
        rw [hentry] at hqueued hdurable hcopies
        refine ⟨e, he, hstate, by omega, hlen, ?_, ?_, ?_⟩
        · rw [hqueued, List.countP_cons_of_pos (by simpa using hkey)]
          exact (congrArg (· + _) (takenEntry_queued ..)).trans (Nat.succ_add_eq_add_succ _ _)
        · rw [hdurable]
          exact takenEntry_durable ..
        · rw [hcopies]
          exact (takenEntry_spec (s.entry m.key) m.key m0.kind seq m0.value.length).2.2.2
      · have hother : s'.entry m.key = s.entry m.key := by
          rw [← hs']
          exact s.dirTake_entry_other (Ne.symm hkey) _ _ _
        rw [hother] at hqueued hdurable hcopies
        refine ⟨e, he, hstate, by omega, hlen, ?_, hdurable, hcopies⟩
        rw [hqueued, List.countP_cons_of_neg (by simpa using hkey)]

/-- What a run leaves outside the Directory's entries (R14, R45, R70, R157). -/
theorem State.admitMembers_eq (gid : Nat) (tag : Byte) (ms : List Member) (seq : Nat) (s : State) :
    s.admitMembers gid tag ms seq = { s with
      dir := { s.dir with
        entries := (s.admitMembers gid tag ms seq).dir.entries
        reserved := s.dir.reserved.filter (fun r => !ms.any (fun m => m.key == r.key)) }
      wq := { s.wq with entries := s.wq.entries ++ ms.mapIdx (runEntry gid tag ms.length seq) }
      sup := { s.sup with holdTimer := s.sup.holdTimer || (!ms.isEmpty && decide (s.sup.condition = .hold)) } } := by
  induction ms generalizing seq s with
  | nil =>
    have hall : s.dir.reserved.filter (fun _ => true) = s.dir.reserved := List.filter_eq_self.2 fun _ _ => rfl
    simp only [State.admitMembers, List.any_nil, Bool.not_false, hall, List.mapIdx_nil, List.append_nil, List.isEmpty_nil,
      Bool.not_true, Bool.false_and, Bool.or_false]
  | cons m rest ih =>
    rw [State.admitMembers_cons]
    generalize hs' : s.joinMember gid tag (rest.length + 1) seq m = s'
    rw [State.joinMember_eq] at hs'
    have hrun : rest.mapIdx (runEntry gid tag rest.length (seq + 1))
        = rest.mapIdx (fun i => runEntry gid tag (m :: rest).length seq (i + 1)) := by
      refine List.ext_getElem (by simp) fun i _ _ => ?_
      simp [runEntry, Nat.add_assoc, Nat.add_comm 1 i]
    rw [ih, hrun]
    subst hs'
    simp [State.dirTake_eq, List.mapIdx_cons, List.append_assoc, List.filter_filter]
    refine ⟨List.filter_congr fun r _ => ?_, fun _ h => .inr h⟩
    rw [Bool.and_comm, bne_comm]
    rfl

/-- A group has been admitted, and its COMMIT does not wait yet (R70). -/
def State.withRun (s : State) (tag : Byte) (g : OpenGroup) (seq : Nat) : State :=
  (({ s with grp := { s.grp with group := none } } : State).takeSeqs g.members.length).admitMembers g.id tag g.members seq

theorem State.admitGroup_run {s : State} {g : OpenGroup} {seq : Nat} (hne : g.members ≠ []) (hseq : s.wq.seqCounter = some seq)
    (tag : Byte) : s.admitGroup tag g = (s.withRun tag g seq).waitFor tag .durable := by
  have hnext : s.nextSeq = seq := by rw [State.nextSeq, hseq]; rfl
  simp only [State.admitGroup, if_neg hne, hnext]
  rfl

theorem State.withRun_eq {s : State} {g : OpenGroup} {seq : Nat} (hne : g.members ≠ []) (hseq : s.wq.seqCounter = some seq)
    (tag : Byte) : s.withRun tag g seq = { s with
      dir := { s.dir with
        entries := (s.withRun tag g seq).dir.entries
        reserved := s.dir.reserved.filter (fun r => !g.members.any (fun m => m.key == r.key)) }
      wq := { s.wq with
        entries := s.wq.entries ++ g.members.mapIdx (runEntry g.id tag g.members.length seq)
        seqCounter := some (seq + g.members.length) }
      grp := { s.grp with group := none }
      sup := { s.sup with holdTimer := s.sup.holdTimer || decide (s.sup.condition = .hold) } } := by
  have hnext : ({ s with grp := { s.grp with group := none } } : State).nextSeq = seq := by
    show s.wq.seqCounter.getD 1 = seq
    rw [hseq]
    rfl
  have hsome : (!g.members.isEmpty) = true := by simp [hne]
  rw [State.withRun, State.admitMembers_eq, State.takeSeqs, hnext, hsome, Bool.true_and]
  rfl

/-- The admission of a run (R14, R23, R24, R70). -/
theorem State.admitsRun_withRun {s : State} {g : OpenGroup} {seq : Nat} (hne : g.members ≠ [])
    (hseq : s.wq.seqCounter = some seq) (tag : Byte) : s.admitsRun tag g seq (s.withRun tag g seq) := by
  have hrun := State.withRun_eq hne hseq tag
  refine ⟨(congrArg State.wq hrun).trans rfl, (congrArg State.grp hrun).trans rfl,
    (congrArg (fun t : State => t.dir.admitted) hrun).trans rfl, (congrArg (fun t : State => t.dir.limit) hrun).trans rfl,
    (congrArg (fun t : State => t.dir.reserved) hrun).trans rfl, (congrArg State.sup hrun).trans rfl,
    fun k hk => State.admitMembers_entry_other hk _ _, fun i m hm hlast => State.admitMembers_entry hm hlast _ _, ?_⟩
  exact (congrArg (fun t : State => { t with link := s.link, req := s.req, wq := s.wq, grp := s.grp, dir := s.dir, sup := s.sup })
    hrun).trans rfl

/-- What a run's admission changes does not depend on the link and the Request Table. -/
theorem State.admitsRun.congr {s u v : State} {tag : Byte} {g : OpenGroup} {seq : Nat} (h : s.admitsRun tag g seq u)
    (huv : { v with link := u.link, req := u.req } = u) : s.admitsRun tag g seq v := by
  obtain ⟨hwq, hgrp, hadmitted, hlimit, hreserved, hsup, hother, hentry, hrest⟩ := h
  have hdir : v.dir = u.dir := (congrArg State.dir huv).trans rfl
  have heq : ∀ k, v.entry k = u.entry k := fun k => by rw [State.entry, hdir]; rfl
  refine ⟨(congrArg State.wq huv).trans hwq, (congrArg State.grp huv).trans hgrp, hdir ▸ hadmitted, hdir ▸ hlimit,
    hdir ▸ hreserved, (congrArg State.sup huv).trans hsup, fun k hk => (heq k).trans (hother k hk), fun i m hm hlast => ?_, ?_⟩
  · obtain ⟨e, he, hspec⟩ := hentry i m hm hlast
    exact ⟨e, (heq _).trans he, hspec⟩
  · exact (congrArg (fun t : State => { t with link := s.link, req := s.req, wq := s.wq, grp := s.grp, dir := s.dir, sup := s.sup })
      huv).trans hrest

/-- A request just taken waits, in a state whose Request Table is still the one of the taking. -/
theorem State.waitFor_of_taken {s t : State} {f : Frame} {k : ReqKind} {r : Request} (h : s.slot f.tag = none)
    (ht : t.req = (s.taken k f r).req) (why : WaitReason) : (t.waitFor f.tag why).req = { s.req with
      slots := s.req.slots ++ [{ s.takenSlot k f r with state := .waiting, wait := some why }]
      cache := s.req.cache.filter (fun e => e.tag != f.tag) } := by
  have hsame : (t.waitFor f.tag why).req = ((s.taken k f r).waitFor f.tag why).req := by
    simp only [State.waitFor, State.modSlot, ht]
  exact hsame.trans (congrArg State.req (State.taken_waits h k r why))

/-- A COMMIT that has just been taken admits its group, up to the end of the event (R70). -/
theorem State.taken_admitGroup {s : State} {f : Frame} {g : OpenGroup} {seq : Nat} (h : s.slot f.tag = none)
    (hg : s.grp.group = some g) (hne : g.members ≠ []) (hseq : s.wq.seqCounter = some seq) :
    let u := (s.taken .commit f .commit).admitGroup f.tag g
    s.admitsRun f.tag g seq u
      ∧ s.waits f { waitingSlot .commit f .commit (some g.id) .durable with pendingSent := false } u
      ∧ u.link.notices = s.link.notices := by
  intro u
  have hu : u = ((s.taken .commit f .commit).withRun f.tag g seq).waitFor f.tag .durable :=
    State.admitGroup_run (s := s.taken .commit f .commit) hne hseq f.tag
  have hrun := State.withRun_eq (s := s.taken .commit f .commit) hne hseq f.tag
  have hlink : u.link = s.link := by
    rw [hu]
    exact (congrArg State.link hrun).trans rfl
  have hreq := State.waitFor_of_taken h (t := (s.taken .commit f .commit).withRun f.tag g seq)
    ((congrArg State.req hrun).trans rfl) .durable
  refine ⟨?_, ⟨by rw [hlink], ?_⟩, by rw [hlink]⟩
  · rw [hu]
    obtain ⟨hwq, hgrp, hadmitted, hlimit, hreserved, hsup, hother, hentry, hrest⟩ :=
      (State.admitsRun_withRun (s := s.taken .commit f .commit) hne hseq f.tag).congr
        (v := ((s.taken .commit f .commit).withRun f.tag g seq).waitFor f.tag .durable) rfl
    exact ⟨hwq, hgrp, hadmitted, hlimit, hreserved, hsup, hother, hentry,
      (congrArg (fun t : State => { t with req := s.req }) hrest).trans rfl⟩
  · rw [hu, hreq, State.takenSlot, hg]
    rfl

/-- Settles O29: the run's admission, `withRun`, with the COMMIT that waits for it. -/
theorem commitAdmitted : Obligations.CommitAdmitted := by
  intro s tag flags payload g seq f htakes hopen hmedia hg hne hcheck hplaces hroom hseq _
  have hslot := State.takes_slot htakes
  have hhead := State.considerHead_commit (f := f) (State.takes_gate htakes) hmedia hg
  have hbound : (s.atHead .commit f .commit).boundGroup (some g.id) = some g := State.boundGroup_eq_some.2 ⟨hg, rfl⟩
  have hchecks := State.commitCheck_congr (s := s) (t := s.atHead .commit f .commit) rfl g.members [] 1
  have hleft := hhead.trans (State.considerCommit_admitted hbound (hchecks.trans hcheck) hplaces (by
    show g.members.length ≤ 24 - s.wq.entries.length
    omega))
  obtain ⟨hadmits, hwaits, hnotices⟩ := State.taken_admitGroup (f := f) hslot hg hne hseq
  refine ⟨_, ?_, State.tells_settleFor _ _, hadmits, hwaits, hnotices⟩
  rw [exec_commit_taken htakes]
  refine congrArg Host.Outcome.next (State.joinList_settles (f := f) (act := State.admitGroup tag g) hslot hopen hleft ?_)
  rw [show (State.admitGroup tag g (s.taken .commit f .commit)).wq.entries.length = _ from
    congrArg (fun q : WriteQueue => q.entries.length) hadmits.1]
  simpa using hne

end Sys2Proof.Machine
end

section
/-! PROOFS. The request at the head of the Admission List considered again (R40 to R43, R59, R63 to R66, R68 to R70, R74). -/

namespace Sys2Proof.Machine

/-! ## Replies of one event (R165, R172, R180) -/

/-- A final reply, as `replyTo` has it. -/
theorem State.answer_replyTo (s : State) (tag : Byte) (st : Status) (fields : List Byte) :
    ((s.answer tag st fields).req, (s.answer tag st fields).link.txq)
      = replyTo (s.req, s.link.txq) (tag, le 1 st.code ++ fields) := by
  rw [State.answer]
  cases hslot : s.slot tag with
  | none =>
    have hfind : s.req.slots.find? (fun sl => sl.tag == tag) = none := hslot
    simp only [State.finish, hslot, replyTo, hfind]
  | some sl =>
    have hfind : s.req.slots.find? (fun sl => sl.tag == tag) = some sl := hslot
    cases hc : sl.session with
    | current =>
      rw [State.finish_current hslot hc]
      simp only [replyTo, hfind, hc, State.txAfter]
    | ended =>
      rw [State.finish_ended hslot hc]
      simp only [replyTo, hfind, hc]

theorem State.answer_link (s : State) (tag : Byte) (st : Status) (fields : List Byte) :
    { (s.answer tag st fields).link with txq := s.link.txq } = s.link := by
  rw [State.answer]
  cases hslot : s.slot tag with
  | none => simp [State.finish, hslot]
  | some sl =>
    cases hc : sl.session with
    | current => rw [State.finish_current hslot hc]
    | ended => rw [State.finish_ended hslot hc]

/-- One reply of an event, decided in a state whose Request Table and Transmit Queue are still those of `s`. -/
theorem State.repliedAll_answer {s t : State} (hreq : t.req = s.req) (hlink : { t.link with notices := s.link.notices } = s.link)
    (tag : Byte) (st : Status) (fields : List Byte) :
    s.repliedAll [(tag, le 1 st.code ++ fields)] (t.answer tag st fields) := by
  have htxq : t.link.txq = s.link.txq := by rw [← hlink]
  have hanswer := t.answer_replyTo tag st fields
  rw [hreq, htxq] at hanswer
  refine ⟨hanswer, ?_⟩
  have hl := congrArg (fun l : Link => { l with notices := s.link.notices }) (t.answer_link tag st fields)
  rw [← htxq]
  exact hl.trans hlink

/-! ## The list's head (R40, R59, R74) -/

section Head
variable {s : State} {tag : Byte} {rest : List Byte} {sl : Slot}

theorem State.considerAdmissions_head (hfrozen : s.wq.frozen = false) (hlist : s.wq.admission = tag :: rest)
    (hslot : s.slot tag = some sl) : s.considerAdmissions = (match s.considerHead sl with
      | .left v => v.considerUpTo rest.length
      | .kept v => v) := by
  simp only [State.considerAdmissions, hfrozen, hlist, List.length_cons, State.considerUpTo, hslot]
  rfl

/-- The head leaves the list, and the next one is considered in the same event. -/
theorem State.considerAdmissions_left (hfrozen : s.wq.frozen = false) (hlist : s.wq.admission = tag :: rest)
    (hslot : s.slot tag = some sl) {v : State} (hc : s.considerHead sl = .left v) (hv : v.wq.admission = rest)
    (hvf : v.wq.frozen = false) : s.considerAdmissions = v.considerAdmissions := by
  rw [State.considerAdmissions_head hfrozen hlist hslot, hc, State.considerAdmissions, hvf, hv]
  rfl

/-- The head is kept, and the list goes no further. -/
theorem State.considerAdmissions_kept (hfrozen : s.wq.frozen = false) (hlist : s.wq.admission = tag :: rest)
    (hslot : s.slot tag = some sl) {v : State} (hc : s.considerHead sl = .kept v) : s.considerAdmissions = v := by
  rw [State.considerAdmissions_head hfrozen hlist hslot, hc]

/-- A list that a RESET has frozen, or that is empty, is left alone (R40, R59). -/
theorem State.considerAdmissions_idle (h : s.wq.frozen = true ∨ s.wq.admission = []) : s.considerAdmissions = s := by
  rcases h with h | h
  · rw [State.considerAdmissions, if_pos h]
  · rw [State.considerAdmissions, h]
    exact ite_self s

end Head

/-- The list without its head. -/
def State.behead (s : State) (rest : List Byte) : State := { s with wq := { s.wq with admission := rest } }

theorem State.leaveList_head {s : State} {tag : Byte} {rest : List Byte} (hlist : s.wq.admission = tag :: rest)
    (hnot : tag ∉ rest) : s.leaveList tag = s.behead rest := by
  have hfilter : (tag :: rest).filter (fun t => t != tag) = rest := by
    rw [List.filter_cons_of_neg (by simp), List.filter_eq_self]
    intro x hx
    simpa using fun heq : x = tag => hnot (heq ▸ hx)
  rw [State.leaveList, State.modQueue, hlist, hfilter]
  rfl

/-! ## What the device state and the latch refuse (R41) -/

theorem State.headGate_acting {s : State} (h : s.dev.state = .online ∨ s.dev.state = .draining) (hm : s.wq.mediaFault = false) :
    s.headGate = none := by
  rcases h with h | h <;> simp [State.headGate, h, hm]

theorem State.headGate_readOnly {s : State} (h : s.dev.state = .readOnly) : s.headGate = some .readOnly := by
  simp [State.headGate, h]

theorem State.headGate_mediaFault {s : State} (h : s.dev.state = .online ∨ s.dev.state = .draining) (hm : s.wq.mediaFault = true) :
    s.headGate = some .mediaFault := by
  rcases h with h | h <;> simp [State.headGate, h, hm]

/-- A status that R41 gives, with its code. -/
theorem State.headGate_stopped {s : State} {st : Byte} (h : (s.dev.state = .readOnly ∧ st = 10)
      ∨ ((s.dev.state = .online ∨ s.dev.state = .draining) ∧ s.wq.mediaFault = true ∧ st = 16)) :
    ∃ status, s.headGate = some status ∧ [st] = le 1 status.code ++ [] := by
  rcases h with ⟨h, rfl⟩ | ⟨h, hm, rfl⟩
  · exact ⟨_, State.headGate_readOnly h, rfl⟩
  · exact ⟨_, State.headGate_mediaFault h hm, rfl⟩

section Requests
variable {s : State} {sl : Slot}

theorem State.considerHead_writeRequest {deletes : Bool} {w : WriteFields} (h : sl.request = some (writeRequest deletes w)) :
    s.considerHead sl = (match s.headGate with
      | some st => s.refuse sl.tag st []
      | none => if w.group then s.considerMember sl.tag deletes w sl.bound else s.considerLone sl.tag deletes w) := by
  cases deletes <;> simp only [State.considerHead, h] <;> rfl

theorem State.considerHead_commitRequest (h : sl.request = some .commit) :
    s.considerHead sl = (match s.headGate with
      | some st => s.refuseCommitGate sl.tag st sl.bound
      | none => s.considerCommit sl.tag sl.bound) := by
  cases hgate : s.headGate <;> simp only [State.considerHead, h, hgate]

theorem State.considerHead_fenceRequest (h : sl.request = some .fence) :
    s.considerHead sl = .left ((s.leaveList sl.tag).admitFence sl.tag) := by
  simp only [State.considerHead, h]

end Requests

/-! ## The head leaves, or is kept -/

section Outcome
variable {s : State} {tag : Byte} {rest : List Byte} {sl : Slot}

/-- The head leaves with a reply, decided in the state `t`. -/
theorem State.head_answered (hfrozen : s.wq.frozen = false) (hlist : s.wq.admission = tag :: rest) (hslot : s.slot tag = some sl)
    {t : State} {st : Status} {fields : List Byte} (hc : s.considerHead sl = .left (t.answer tag st fields))
    (hreq : t.req = s.req) (hlink : { t.link with notices := s.link.notices } = s.link) (hadmission : t.wq.admission = rest)
    (hf : t.wq.frozen = s.wq.frozen) :
    s.considerAdmissions = (t.answer tag st fields).considerAdmissions
      ∧ (s.behead rest).repliedAll [(tag, le 1 st.code ++ fields)] (t.answer tag st fields)
      ∧ (t.answer tag st fields).link.notices = t.link.notices
      ∧ { (t.answer tag st fields) with link := t.link, req := t.req } = t := by
  obtain ⟨hnotices, hframe⟩ := State.answer_tableOnly t tag st fields
  have hwq := (congrArg State.wq hframe).trans rfl
  refine ⟨State.considerAdmissions_left hfrozen hlist hslot hc ?_ ?_,
    State.repliedAll_answer (s := s.behead rest) hreq hlink tag st fields, hnotices, hframe⟩
  · exact (congrArg (fun q : WriteQueue => q.admission) hwq).trans hadmission
  · exact (congrArg (fun q : WriteQueue => q.frozen) hwq).trans (hf.trans hfrozen)

/-- The head is refused (R40). -/
theorem State.head_refused (hfrozen : s.wq.frozen = false) (hlist : s.wq.admission = tag :: rest) (hnot : tag ∉ rest)
    (hslot : s.slot tag = some sl) {st : Status} {fields : List Byte} (hc : s.considerHead sl = s.refuse tag st fields) :
    ∃ v, s.considerAdmissions = v.considerAdmissions ∧ (s.behead rest).repliedAll [(tag, le 1 st.code ++ fields)] v
      ∧ v.link.notices = s.link.notices ∧ { v with link := s.link, req := s.req } = s.behead rest := by
  rw [State.refuse, State.leaveList_head hlist hnot] at hc
  exact ⟨_, State.head_answered hfrozen hlist hslot (t := s.behead rest) hc rfl rfl rfl rfl⟩

/-- The COMMIT at the head is refused, and its group discarded (R68, R73). -/
theorem State.head_refusedCommit (hfrozen : s.wq.frozen = false) (hlist : s.wq.admission = tag :: rest) (hnot : tag ∉ rest)
    (hslot : s.slot tag = some sl) {g : OpenGroup} (hg : s.grp.group = some g) {st : Status} {fields : List Byte}
    (hc : s.considerHead sl = s.refuseCommit tag st fields) :
    ∃ v, s.considerAdmissions = v.considerAdmissions ∧ (s.behead rest).repliedAll [(tag, le 1 st.code ++ fields)] v
      ∧ v.link.notices = s.link.notices
      ∧ v.grp = { s.grp with group := none } ∧ v.dir = { s.dir with admitted := s.dir.admitted - g.bytes }
      ∧ v.wq = { (s.behead rest).wq with charged := s.wq.charged - g.bytes }
      ∧ { v with link := s.link, req := s.req, grp := s.grp, dir := s.dir, wq := (s.behead rest).wq } = s.behead rest := by
  have hdiscard := State.discardGroup_some (s := s.behead rest) hg
  rw [State.refuseCommit, State.leaveList_head hlist hnot, State.discardGroup_answer, hdiscard] at hc
  obtain ⟨hleaves, hreplied, hnotices, hframe⟩ := State.head_answered hfrozen hlist hslot hc rfl rfl rfl rfl
  exact ⟨_, hleaves, hreplied, hnotices, congrArg State.grp hframe, congrArg State.dir hframe, congrArg State.wq hframe,
    congrArg (fun t : State => { t with link := s.link, req := s.req, grp := s.grp, dir := s.dir, wq := (s.behead rest).wq })
      hframe⟩

end Outcome

theorem State.boundGroup_eq_none {s : State} {bound : Option Nat} (h : ∀ g, ¬ (s.grp.group = some g ∧ bound = some g.id)) :
    s.boundGroup bound = none := by
  cases hb : s.boundGroup bound with
  | none => rfl
  | some g => exact absurd (State.boundGroup_eq_some.1 hb) (h g)

section Cases
variable {s : State} {tag : Byte} {rest : List Byte} {sl : Slot}

/-- The COMMIT at the head that R41 refuses: with its group discarded if that is open still (R68). -/
theorem State.refuseCommitGate_some {bound : Option Nat} {g : OpenGroup} (h : s.boundGroup bound = some g) (st : Status) :
    s.refuseCommitGate tag st bound = s.refuseCommit tag st [] := by
  simp [State.refuseCommitGate, h]

theorem State.refuseCommitGate_none {bound : Option Nat} (h : s.boundGroup bound = none) (st : Status) :
    s.refuseCommitGate tag st bound = s.refuse tag st [] := by
  simp [State.refuseCommitGate, h]

end Cases

/-- Settles O31: the head's consideration case by case, and the list behind it. -/
theorem waitingHeadConsidered : Obligations.WaitingHeadConsidered := by
  refine ⟨fun s h => State.considerAdmissions_idle h, fun s tag rest sl hfrozen hlist hnot hslot => ?_⟩
  have htag : sl.tag = tag := by simpa using List.find?_some hslot
  intro s1 leavesAs waitsFor keptFor waitsAs refusedWith discardedWith bound acting stopped
  have hrefused : ∀ {st : Status} {fields : List Byte}, s.considerHead sl = s.refuse tag st fields →
      refusedWith (le 1 st.code ++ fields) := State.head_refused hfrozen hlist hnot hslot
  have hdiscarded : ∀ {g : OpenGroup}, bound g → ∀ {st : Status} {fields : List Byte},
      s.considerHead sl = s.refuseCommit tag st fields → discardedWith g (le 1 st.code ++ fields) :=
    fun hb => State.head_refusedCommit hfrozen hlist hnot hslot hb.1
  have hkept : ∀ {why : WaitReason}, s.considerHead sl = .kept (s.waitFor tag why) → keptFor why :=
    State.considerAdmissions_kept hfrozen hlist hslot
  have hleave : s.leaveList tag = s1 := State.leaveList_head hlist hnot
  refine ⟨fun deletes w hrequest => ?_, fun hrequest => ?_, fun hrequest => ?_⟩
  · have hhead := State.considerHead_writeRequest (s := s) hrequest
    rw [htag] at hhead
    refine ⟨fun st hstopped => ?_, fun hacting hlone => ?_, fun hacting hmember => ?_⟩
    · obtain ⟨status, hgate, hcode⟩ := State.headGate_stopped hstopped
      rw [hgate] at hhead
      rw [hcode]
      exact hrefused hhead
    · rw [State.headGate_acting hacting.1 hacting.2] at hhead
      simp only [hlone] at hhead
      refine ⟨fun hsize => ?_, fun hsize hdel => ?_, fun hsize hdel hcond => ?_, fun hsize hdel hcond hplace => ?_,
        fun hsize hdel hcond hplace hspace => ?_, fun hpasses hroom => ?_, fun seq hpasses hroom hseq => ?_⟩
      · exact hrefused (hhead.trans (State.considerLone_tooLarge hsize))
      · exact hrefused (hhead.trans (State.considerLone_notFound hsize hdel))
      · exact hrefused (hhead.trans (State.considerLone_conflict hsize hdel hcond))
      · exact hrefused (hhead.trans (State.considerLone_noEntry hsize hdel hcond hplace))
      · exact hrefused (hhead.trans (State.considerLone_noSpace hsize hdel hcond hplace hspace))
      · exact hkept (hhead.trans (State.considerLone_kept hpasses hroom))
      · have hleft := hhead.trans (State.considerLone_admitted hpasses hroom)
        rw [hleave, State.admitLone_eq (s := s1) hseq] at hleft
        have hadmits := s1.admitsLone_withLone tag deletes w seq
        by_cases hdurable : w.durable = true
        · rw [if_pos hdurable] at hleft
          refine ⟨_, State.considerAdmissions_left hfrozen hlist hslot hleft rfl hfrozen,
            hadmits.congr (State.waitFor_tableOnly _ _ _), ?_⟩
          rw [if_pos hdurable]
          exact ⟨rfl, rfl⟩
        · rw [if_neg hdurable] at hleft
          obtain ⟨hleaves, hreplied, hnotices, hframe⟩ := State.head_answered hfrozen hlist hslot hleft rfl rfl rfl rfl
          refine ⟨_, hleaves, hadmits.congr ⟨hnotices, hframe⟩, ?_⟩
          rw [if_neg hdurable]
          exact hreplied
    · rw [State.headGate_acting hacting.1 hacting.2] at hhead
      simp only [hmember] at hhead
      refine ⟨fun hnone => hrefused (hhead.trans (State.considerMember_none (State.boundGroup_eq_none hnone))), fun g hg => ?_⟩
      have hbound := State.boundGroup_eq_some.2 hg
      refine ⟨fun hsize => ?_, fun hsize hfull => ?_, fun hsize hcount hbytes hspace => ?_,
        fun hsize hcount hbytes hspace hroom => ?_, fun hsize hcount hbytes hspace hroom => ?_⟩
      · exact hrefused (hhead.trans (State.considerMember_tooLarge hbound hsize))
      · exact hrefused (hhead.trans (State.considerMember_groupFull hbound hsize hfull))
      · exact hrefused (hhead.trans (State.considerMember_noSpace hbound hsize hcount hbytes hspace))
      · exact hkept (hhead.trans (State.considerMember_kept hbound hsize hcount hbytes hspace hroom))
      · have hleft := hhead.trans (State.considerMember_staged hbound hsize hcount hbytes hspace hroom)
        rw [hleave, State.stageMember_eq] at hleft
        obtain ⟨hleaves, hreplied, hnotices, hframe⟩ := State.head_answered hfrozen hlist hslot hleft rfl rfl rfl rfl
        exact ⟨_, hleaves, (s1.stages_withMember deletes w g).congr hframe, hnotices, hreplied⟩
  · have hhead := State.considerHead_commitRequest (s := s) hrequest
    rw [htag] at hhead
    refine ⟨fun st hstopped => ?_, fun hacting => ?_⟩
    · obtain ⟨status, hgate, hcode⟩ := State.headGate_stopped hstopped
      rw [hgate] at hhead
      rw [hcode]
      exact ⟨fun hnone => hrefused (hhead.trans (State.refuseCommitGate_none (State.boundGroup_eq_none hnone) _)),
        fun g hg => hdiscarded hg (hhead.trans (State.refuseCommitGate_some (State.boundGroup_eq_some.2 hg) _))⟩
    · rw [State.headGate_acting hacting.1 hacting.2] at hhead
      refine ⟨fun hnone => hrefused (hhead.trans (State.considerCommit_none (State.boundGroup_eq_none hnone))), fun g hg => ?_⟩
      have hbound := State.boundGroup_eq_some.2 hg
      refine ⟨fun i q hc => ?_, fun i q hc => ?_, fun hc => ⟨fun hplaces => ?_, fun hplaces hroom => ?_, fun hempty => ?_,
        fun seq hne hplaces hroom hseq _ => ?_⟩⟩
      · exact hdiscarded hg (hhead.trans (State.considerCommit_notFound hbound hc))
      · exact hdiscarded hg (hhead.trans (State.considerCommit_conflict hbound hc))
      · exact hdiscarded hg (hhead.trans (State.considerCommit_noEntry hbound hc hplaces))
      · exact hkept (hhead.trans (State.considerCommit_kept hbound hc hplaces hroom))
      · have hleft := hhead.trans (State.considerCommit_admitted hbound hc (by rw [hempty, State.newPlaces_nil]; omega)
          (by rw [hempty]; exact Nat.zero_le _))
        rw [hleave, State.admitGroup_empty hempty] at hleft
        obtain ⟨hleaves, hreplied, hnotices, hframe⟩ := State.head_answered hfrozen hlist hslot hleft rfl rfl rfl rfl
        exact ⟨_, hleaves, hreplied, hnotices, congrArg State.grp hframe,
          congrArg (fun t : State => { t with link := s.link, req := s.req, grp := s.grp }) hframe⟩
      · have hleft := hhead.trans (State.considerCommit_admitted hbound hc hplaces (by omega))
        rw [hleave, State.admitGroup_run (s := s1) hne hseq] at hleft
        have hrun := State.withRun_eq (s := s1) hne hseq tag
        have hlink : (s1.withRun tag g seq).link = s.link := (congrArg State.link hrun).trans rfl
        have hreq : (s1.withRun tag g seq).req = s.req := (congrArg State.req hrun).trans rfl
        refine ⟨_, State.considerAdmissions_left hfrozen hlist hslot hleft
            ((congrArg (fun t : State => t.wq.admission) hrun).trans rfl)
            ((congrArg (fun t : State => t.wq.frozen) hrun).trans hfrozen),
          (State.admitsRun_withRun (s := s1) hne hseq tag).congr rfl, ⟨?_, ?_⟩, ?_⟩
        · exact congrArg (fun l : Link => { l with notices := s.link.notices }) hlink
        · simp only [State.waitFor, State.modSlot, hreq]
          rfl
        · exact congrArg (fun l : Link => l.notices) hlink
  · have hhead := State.considerHead_fenceRequest (s := s) hrequest
    rw [htag, hleave] at hhead
    refine ⟨fun hempty => ?_, fun before e hqueued => ?_⟩
    · rw [State.admitFence_empty (s := s1) hempty] at hhead
      obtain ⟨hleaves, hreplied, hnotices, hframe⟩ := State.head_answered hfrozen hlist hslot hhead rfl rfl rfl rfl
      rw [fenceReply_eq] at hreplied
      exact ⟨_, hleaves, hreplied, hnotices, congrArg State.wq hframe,
        congrArg (fun t : State => { t with link := s.link, req := s.req, wq := s1.wq }) hframe⟩
    · rw [State.admitFence_queued (s := s1) hqueued] at hhead
      exact State.considerAdmissions_left hfrozen hlist hslot hhead rfl hfrozen

end Sys2Proof.Machine
end

section
/-! PROOFS. SPACE, SECTORS and TIDY (R132 to R135). -/

namespace Sys2Proof.Machine

/-! ## SPACE and SECTORS (R132, R133) -/

theorem spaceReply_eq (s : State) : le 1 Status.ok.code ++ spaceFields s = [0]
    ++ [BitVec.ofNat 8 (s.count .erased), BitVec.ofNat 8 (s.count .opened), BitVec.ofNat 8 (s.count .full),
        BitVec.ofNat 8 (s.count .reclaiming), BitVec.ofNat 8 (s.count .stale), BitVec.ofNat 8 (s.count .erasing),
        BitVec.ofNat 8 (s.count .retired)]
    ++ le 4 s.dir.admitted ++ le 4 s.dir.limit
    ++ le 4 ((s.sm.table.map (fun e => e.live)).sum) ++ le 4 ((s.sm.table.map (fun e => e.dead)).sum)
    ++ [BitVec.ofNat 8 (s.count .erased - 2), if s.sm.hostStall then 1 else 0, BitVec.ofNat 8 s.sm.engine.code]
    ++ le 3 (lowestCount (fun e => e.state != .retired) s.sm.table)
    ++ le 3 (highestCount (fun e => e.state != .retired) s.sm.table) := by
  simp only [spaceFields, List.append_assoc]
  rfl

theorem sectorRow_eq (n : Nat) (e : SectorEntry) : sectorRow n e
    = [BitVec.ofNat 8 n, BitVec.ofNat 8 e.state.code] ++ le 3 e.eraseCount ++ le 4 (e.openGen.getD 0)
      ++ le 2 e.live ++ le 2 e.dead ++ le 2 (e.appendOffset.getD 0) ++ [BitVec.ofNat 8 e.readers] ++ le 2 e.corrected
      ++ [BitVec.ofNat 8 ((if e.fault then 1 else 0) + (if e.dirty then 2 else 0) + (if e.openGen.isSome then 4 else 0)
            + (if e.appendOffset.isSome then 8 else 0))] := by
  have hzero : ∀ o : Option Nat, orZero o = o.getD 0 := fun o => by cases o <;> rfl
  simp only [sectorRow, hzero]
  rfl

/-- The fields that a SECTORS may carry (R185). -/
theorem sectors_inRange {s : State} {f : Frame} {first count : Nat} (h : s.takes .sectors f (.sectors first count) = true) :
    first < 128 ∧ 1 ≤ count := by
  obtain ⟨_, hwf, _⟩ := decodeRequest_iff.1 (State.takes_decodes h)
  have hrange : first < Config.sectors ∧ 1 ≤ count ∧ count ≤ 32 := of_decide_eq_true hwf
  exact ⟨hrange.1, hrange.2.1⟩

theorem sectorsReply_eq (s : State) (first count : Nat) : le 1 Status.ok.code ++ sectorsFields s first count
    = [0] ++ le 1 (min count (128 - first)) ++ (List.range (min count (128 - first))).flatMap (fun i =>
        let e := s.sector (first + i)
        [BitVec.ofNat 8 (first + i), BitVec.ofNat 8 e.state.code] ++ le 3 e.eraseCount ++ le 4 (e.openGen.getD 0)
          ++ le 2 e.live ++ le 2 e.dead ++ le 2 (e.appendOffset.getD 0) ++ [BitVec.ofNat 8 e.readers] ++ le 2 e.corrected
          ++ [BitVec.ofNat 8 ((if e.fault then 1 else 0) + (if e.dirty then 2 else 0) + (if e.openGen.isSome then 4 else 0)
                + (if e.appendOffset.isSome then 8 else 0))]) := by
  simp only [sectorsFields, sectorRow_eq]
  rfl

/-- Settles O32: the two replies, byte for byte. -/
theorem spaceAndSectorsAnswered : Obligations.SpaceAndSectorsAnswered := by
  refine ⟨fun s tag flags payload htakes => ?_, fun s tag flags payload first count htakes => ?_⟩
  · have hanswered := State.taken_answered (State.takes_slot htakes) .space .space .ok
      (spaceFields (s.taken .space (requestFrame .space tag flags payload) .space))
    rw [spaceReply_eq] at hanswered
    exact ⟨_, exec_space_taken htakes, hanswered⟩
  · obtain ⟨hfirst, hcount⟩ := sectors_inRange htakes
    have hanswered := State.taken_answered (State.takes_slot htakes) .sectors (.sectors first count) .ok
      (sectorsFields s first count)
    rw [sectorsReply_eq] at hanswered
    exact ⟨_, min count (128 - first), exec_sectors_taken htakes, by omega, by omega, by omega, by omega, hanswered⟩

/-! ## TIDY (R134, R135) -/

theorem mem_sectorsWhere {p : SectorEntry → Bool} {table : List SectorEntry} {n : Nat} :
    n ∈ sectorsWhere p table ↔ n < table.length ∧ p (table.getD n SectorEntry.initial) = true := by
  rw [sectorsWhere, List.mem_filter, List.mem_range]

theorem sectorsWhere_nodup (p : SectorEntry → Bool) (table : List SectorEntry) : (sectorsWhere p table).Nodup :=
  List.nodup_range.sublist List.filter_sublist

theorem mem_tidyList {threshold : Nat} {s : State} {n : Nat} : n ∈ tidyList threshold s.sm.table
    ↔ n < s.sm.table.length ∧ (s.sector n).state = .full ∧ threshold * 32752 ≤ (s.sector n).dead * 100 := by
  rw [tidyList, mem_sectorsWhere, Bool.and_eq_true, decide_eq_true_iff, SectorEntry.isFull, beq_iff_eq]
  rfl

section Tidy
variable {s : State}

theorem State.actTidy_active (h : s.sm.tidy.isSome) (tag : Byte) (threshold : Nat) :
    s.actTidy tag threshold = (s.answer tag .alreadyActive []).consult := by
  rw [State.actTidy, if_pos h]

theorem State.actTidy_empty (h : s.sm.tidy = none) (tag : Byte) {threshold : Nat} (hlist : tidyList threshold s.sm.table = []) :
    s.actTidy tag threshold = (s.answer tag .ok (le 1 0)).consult := by
  simp only [State.actTidy, h, hlist, Option.isSome_none, Bool.false_eq_true, if_false, if_true]

theorem State.actTidy_waits (h : s.sm.tidy = none) (tag : Byte) {threshold : Nat} (hlist : tidyList threshold s.sm.table ≠ []) :
    s.actTidy tag threshold
      = ((({ s with sm := { s.sm with tidy := some (Tidy.mk tag (tidyList threshold s.sm.table) 0) } } : State).waitFor tag
          .tidy).settleFor tag) := by
  simp only [State.actTidy, h, hlist, Option.isSome_none, Bool.false_eq_true, if_false]
  rfl

theorem State.finishTidy_none (h : s.sm.tidy = none) : s.finishTidy = s := by
  simp only [State.finishTidy, h]

theorem State.finishTidy_goesOn {t : Tidy} (h : s.sm.tidy = some t)
    (hon : t.list ≠ [] ∨ s.sm.walk.any (fun w => w.forTidy) = true) : s.finishTidy = s := by
  simp only [State.finishTidy, h]
  exact if_neg (fun hend => hon.elim (fun hne => hne hend.1) hend.2)

theorem State.finishTidy_ends {t : Tidy} (h : s.sm.tidy = some t) (hlist : t.list = [])
    (hwalk : ¬ s.sm.walk.any (fun w => w.forTidy) = true) :
    s.finishTidy = ({ s with sm := { s.sm with tidy := none } } : State).answer t.tag .ok (le 1 t.drained) := by
  simp only [State.finishTidy, h]
  exact if_pos ⟨hlist, hwalk⟩

end Tidy

/-- Settles O33: the three outcomes of the request, and the three of the end of an event. -/
theorem tidyDecided : Obligations.TidyDecided := by
  refine ⟨fun s tag flags payload threshold htakes => ⟨fun hactive => ?_, fun hnone hempty => ?_, fun hnone hsome => ?_⟩,
    fun s => ⟨State.finishTidy_none, fun t ht => ⟨fun hon => ?_, fun hlist hwalk => ?_⟩⟩⟩
  · refine ⟨_, exec_tidy_taken htakes, ?_⟩
    rw [State.actTidy_active (s := s.taken _ _ _) hactive]
    exact State.taken_answered (State.takes_slot htakes) .tidy (.tidy threshold) .alreadyActive []
  · have hlist : tidyList threshold s.sm.table = [] :=
      List.eq_nil_iff_forall_not_mem.2 (fun n hn => hempty n (mem_tidyList.1 hn))
    refine ⟨_, exec_tidy_taken htakes, ?_⟩
    rw [State.actTidy_empty (s := s.taken _ _ _) hnone tag hlist]
    exact State.taken_answered (State.takes_slot htakes) .tidy (.tidy threshold) .ok (le 1 0)
  · obtain ⟨n, hn⟩ := hsome
    have hlist : tidyList threshold s.sm.table ≠ [] := List.ne_nil_of_mem (mem_tidyList.2 hn)
    have hexec := exec_tidy_taken htakes
    rw [State.actTidy_waits (s := s.taken _ _ _) hnone tag hlist] at hexec
    refine ⟨_, tidyList threshold s.sm.table, hexec, State.tells_settleFor _ _, fun n => mem_tidyList,
      sectorsWhere_nodup _ _, ⟨rfl, ?_⟩, rfl, rfl, rfl⟩
    exact State.waitFor_of_taken (f := requestFrame .tidy tag flags payload) (k := .tidy) (r := .tidy threshold)
      (State.takes_slot htakes) rfl .tidy
  · refine State.finishTidy_goesOn ht (hon.imp_right fun ⟨w, hw, hfor⟩ => ?_)
    rw [hw]
    exact hfor
  · have hnot : ¬ s.sm.walk.any (fun w => w.forTidy) = true := by
      rw [Option.any_eq_true]
      exact hwalk
    rw [State.finishTidy_ends ht hlist hnot]
    obtain ⟨hnotices, hframe⟩ := State.answer_tableOnly { s with sm := { s.sm with tidy := none } } t.tag .ok (le 1 t.drained)
    exact ⟨State.repliedAll_answer rfl rfl t.tag .ok (le 1 t.drained), hnotices, congrArg State.sm hframe,
      congrArg (fun t : State => { t with link := s.link, req := s.req, sm := s.sm }) hframe⟩

end Sys2Proof.Machine
end

section
/-! PROOFS. FORMAT takes effect (R146). -/

namespace Sys2Proof.Machine

/-! ## Its parts -/

/-- The device state changes from another one, and STATE is marked (R137). -/
theorem State.setDevice_ne {s : State} {d : DeviceState} (h : s.dev.state ≠ d) : s.setDevice d
    = { s with dev := { s.dev with state := d }, link := { s.link with notices := joinNotice .state s.link.notices } } := by
  rw [State.setDevice, if_neg h]
  rfl

/-- The array operation under way when a FORMAT takes effect: its outcome will be discarded (R146). -/
def opAtFormat : Option ArrayOp → Option ArrayOp
  | some (.word w) => some (.word { w with discard := true })
  | some (.read r) => some (.read (if r.who = .reclaim then { r with discard := true } else r))
  | none => none

/-- The append point is FREE once a word under way has ended (R146, log 15). -/
def pointAtFormat (p : AppendPoint) : Option ArrayOp → AppendPoint
  | some (.word _) => p
  | some (.read _) | none => .free

/-- A sector whose entry a FORMAT leaves: ERASED, RETIRED, or ERASING with its erase under way (R146). -/
def State.keptAtFormat (s : State) (n : Nat) : Prop :=
  (s.sector n).state = .erased ∨ (s.sector n).state = .retired
    ∨ ((s.sector n).state = .erasing ∧ ∃ r, s.arr.erase = some r ∧ r.req.sector = n)

/-- The Sector Table when a FORMAT takes effect (R146). -/
def State.tableAtFormat (s : State) : List SectorEntry :=
  s.sm.table.mapIdx (fun n e => e.atFormat (s.arr.erase.any (fun r => r.req.sector == n)))

theorem SectorEntry.atFormat_kept {running : Bool} {e : SectorEntry}
    (h : e.state = .erased ∨ e.state = .retired ∨ (e.state = .erasing ∧ running = true)) : e.atFormat running = e := by
  rcases h with h | h | ⟨h, rfl⟩ <;> simp [SectorEntry.atFormat, h]

theorem SectorEntry.atFormat_stale {running : Bool} {e : SectorEntry}
    (h : ¬ (e.state = .erased ∨ e.state = .retired ∨ (e.state = .erasing ∧ running = true))) :
    e.atFormat running = { e with state := .stale, openGen := none, appendOffset := none, live := 0, dead := 0 } := by
  cases hstate : e.state <;> simp_all [SectorEntry.atFormat]

theorem State.tableAtFormat_getD {s : State} {n : Nat} (h : n < s.sm.table.length) :
    s.tableAtFormat.getD n SectorEntry.initial = (s.sector n).atFormat (s.arr.erase.any (fun r => r.req.sector == n)) := by
  simp [State.tableAtFormat, State.sector, h]

theorem State.keptAtFormat_iff (s : State) (n : Nat) : s.keptAtFormat n ↔ (s.sector n).state = .erased
    ∨ (s.sector n).state = .retired
    ∨ ((s.sector n).state = .erasing ∧ s.arr.erase.any (fun r => r.req.sector == n) = true) := by
  rw [State.keptAtFormat, Option.any_eq_true]
  simp

/-- The array operation with the Log Writer's word given up (R91, R106). -/
def wordDropped : Option ArrayOp → Option ArrayOp
  | some (.word w) => some (.word { w with discard := true })
  | some (.read r) => some (.read r)
  | none => none

theorem ArrayCtl.atFormat_dropped (a : ArrayCtl) : ({ a with word := none, op := wordDropped a.op } : ArrayCtl).atFormat
    = { a with
      eraseReq := none
      word := none
      walks := a.walks.filter (fun r => r.who != .reclaim)
      op := opAtFormat a.op } := by
  rw [ArrayCtl.atFormat]
  rcases a.op with _ | ⟨_ | _⟩ <;> rfl

/-- What the Log Writer gives up (R91, R146). -/
theorem State.formatWriter_eq (s : State) : s.formatWriter = { s with
    lw := {
      openAt := none, hostLane := none, relocLane := none, hostFailures := 0, relocFailures := 0, placement := []
      cur := none, genCounter := some 1, point := pointAtFormat s.lw.point s.arr.op }
    arr := { s.arr with word := none, op := wordDropped s.arr.op } } := by
  rw [State.formatWriter, State.dropWord]
  rcases hop : s.arr.op with _ | ⟨_ | _⟩ <;>
    simp [State.modWriter, State.modArray, hop, wordDropped, pointAtFormat]

/-- What a FORMAT changes before its own wait (R17, R22, R61, R118, R146). -/
theorem State.formatEffect_eq {s : State} (h : s.dev.state ≠ .formatting) (tag : Byte) : s.formatEffect tag = { s with
    link := { s.link with notices := joinNotice .state s.link.notices }
    dev := { s.dev with state := .formatting }
    dir := { s.dir with entries := [], reserved := [], admitted := 0 }
    wq := { s.wq with failureNote := false, fenceBoundary := 0, mediaFault := false, seqCounter := some 1 }
    grp := { s.grp with counter := 1 }
    lw := {
      openAt := none, hostLane := none, relocLane := none, hostFailures := 0, relocFailures := 0, placement := []
      cur := none, genCounter := some 1, point := pointAtFormat s.lw.point s.arr.op }
    arr := { s.arr with
      eraseReq := none
      word := none
      walks := s.arr.walks.filter (fun r => r.who != .reclaim)
      op := opAtFormat s.arr.op }
    sm := { s.sm with
      table := s.tableAtFormat, epoch := s.sm.epoch + 1, engine := .idle, walk := none, lowSpace := false
      latchFor := (s.count .erased, s.count .stale, s.count .erasing), hostStall := false
      relocStall := false, tidy := none, batch := { running := false, members := [], window := false }, staleOrder := []
      format := some { tag := tag, list := List.range 128 } } } := by
  rw [State.formatEffect, State.setDevice_ne h]
  simp only [State.formatWriter_eq]
  simp only [State.modArray, ArrayCtl.atFormat_dropped]
  rfl

/-- Settles O35: `formatEffect` in one equation, and its table entry by entry. -/
theorem formatTakesEffect : Obligations.FormatTakesEffect := by
  intro s tag flags payload f htakes hslots hentries hgroup stays
  have hslot := State.takes_slot htakes
  have hstate : s.dev.state ≠ .formatting := by
    intro hformatting
    have hgate := State.takes_gate htakes
    simp only [State.gate, hformatting] at hgate
    split at hgate <;> cases hgate
  have hidle : (s.taken .format f .format).notIdle tag = false := by
    rw [← Bool.not_eq_true, show tag = f.tag from rfl, State.taken_notIdle hslot]
    simp [hslots, hentries, hgroup]
  have heffect := State.formatEffect_eq (s := s.taken .format f .format) hstate tag
  have hact : (s.taken .format f .format).actFormat tag
      = (((s.taken .format f .format).formatEffect tag).waitFor tag .format).settleFor tag := by
    rw [State.actFormat, hidle]
    exact if_neg (by simp)
  refine ⟨_, (exec_format_taken htakes).trans (congrArg Host.Outcome.next hact), State.tells_settleFor _ _, ?_⟩
  rw [heffect]
  refine ⟨⟨rfl, ?_⟩, rfl, rfl, rfl, rfl, rfl, ?_, ?_, rfl, ?_, fun n hn => ⟨fun hkept => ?_, fun hkept => ?_⟩, rfl⟩
  · exact State.waitFor_of_taken (f := f) (k := .format) (r := .format) hslot rfl .format
  · rcases hop : s.arr.op with _ | ⟨_ | _⟩
    all_goals
      show LogWriter.mk _ (pointAtFormat s.lw.point s.arr.op) _ _ _ _ _ _ _ = _
      rw [hop]
      rfl
  · rcases hop : s.arr.op with _ | ⟨_ | _⟩
    all_goals
      show ArrayCtl.mk (opAtFormat s.arr.op) _ _ _ _ _ = _
      rw [hop]
      rfl
  · exact List.length_mapIdx
  · exact (State.tableAtFormat_getD hn).trans (SectorEntry.atFormat_kept ((s.keptAtFormat_iff n).1 hkept))
  · exact (State.tableAtFormat_getD hn).trans (SectorEntry.atFormat_stale (mt (s.keptAtFormat_iff n).2 hkept))

end Sys2Proof.Machine
end

section
/-! PROOFS. RESET, its drain report, and the restart (R58, R59, R149 to R151, R153). -/

namespace Sys2Proof.Machine

/-! ## The restart (R136, R153) -/

/-- A word under way is cut short in the array, if it is blank (R100, R107). -/
def cutTargetIn (sector index : Nat) (data : Word) (role : WordRole) (p : Flash × Nat) : Flash × Nat :=
  if (p.1.word sector index).isBlank then (p.1.put sector index (.cut p.2 data role), p.2 + 1) else p

/-- The word program under way is cut short (R107). -/
def cutOpIn (op : Option ArrayOp) (p : Flash × Nat) : Flash × Nat :=
  match op with
  | some (.word w) => cutTargetIn w.sector w.index w.data w.role p
  | some (.read _) | none => p

/-- The erase word under way is cut short (R107, R110). -/
def cutEraseIn (erase : Option EraseRun) (p : Flash × Nat) : Flash × Nat :=
  match erase with
  | some r => if r.phase = .header then cutTargetIn r.req.sector 0 (eraseWord r.req.epoch r.req.count) .eraseWord p else p
  | none => p

/-- The array and the next free value as an Array Controller that stops leaves them (R107, R110, R136). -/
def cutArrayIn (a : ArrayCtl) (p : Flash × Nat) : Flash × Nat := cutEraseIn a.erase (cutOpIn a.op p)

/-- The state with another array and next free value. -/
def State.withArray (s : State) (p : Flash × Nat) : State := { s with flash := p.1, seeds := p.2 }

theorem State.cutTarget_eq (s : State) (sector index : Nat) (data : Word) (role : WordRole) :
    s.cutTarget sector index data role = s.withArray (cutTargetIn sector index data role (s.flash, s.seeds)) := by
  by_cases hblank : (s.flash.word sector index).isBlank = true
  · rw [State.cutTarget, cutTargetIn, if_pos hblank, if_pos hblank]
    rfl
  · rw [State.cutTarget, cutTargetIn, if_neg hblank, if_neg hblank]
    rfl

theorem State.cutOp_eq (s : State) : (match s.arr.op with
    | some (.word w) => s.cutTarget w.sector w.index w.data w.role
    | some (.read _) | none => s) = s.withArray (cutOpIn s.arr.op (s.flash, s.seeds)) := by
  rcases s.arr.op with _ | ⟨_ | w⟩
  · rfl
  · rfl
  · exact s.cutTarget_eq w.sector w.index w.data w.role

theorem State.cutErase_eq (s : State) (erase : Option EraseRun) : (match erase with
    | some r => if r.phase = .header then s.cutTarget r.req.sector 0 (eraseWord r.req.epoch r.req.count) .eraseWord else s
    | none => s) = s.withArray (cutEraseIn erase (s.flash, s.seeds)) := by
  cases erase with
  | none => rfl
  | some r =>
    by_cases hphase : r.phase = .header
    · simp only [cutEraseIn, if_pos hphase]
      exact s.cutTarget_eq _ _ _ _
    · simp only [cutEraseIn, if_neg hphase]
      rfl

/-- A restart's array: nothing else of the state changes (R107, R136). -/
theorem State.cutArray_eq (s : State) :
    s.cutArray = { s.withArray (cutArrayIn s.arr (s.flash, s.seeds)) with arr := { s.arr with op := none, erase := none } } := by
  have hop := s.cutOp_eq
  have herase := (s.withArray (cutOpIn s.arr.op (s.flash, s.seeds))).cutErase_eq s.arr.erase
  have hcut : s.cutArray = (s.withArray (cutArrayIn s.arr (s.flash, s.seeds))).modArray
      (fun a => { a with op := none, erase := none }) := by
    refine (congrArg (fun u : State => State.modArray (fun a => { a with op := none, erase := none }) (match s.arr.erase with
      | some r => if r.phase = .header then u.cutTarget r.req.sector 0 (eraseWord r.req.epoch r.req.count) .eraseWord else u
      | none => u)) hop).trans ?_
    exact congrArg (State.modArray (fun a => { a with op := none, erase := none })) herase
  exact hcut

/-- A restart is what `restartsTo` says (R136, R137, R153). -/
theorem State.restart_restartsTo (s : State) : s.restartsTo s.restart := by
  have hsup : s.cutArray.sup = s.sup := (congrArg State.sup s.cutArray_eq).trans rfl
  have hpending : s.cutArray.pending = s.pending := (congrArg State.pending s.cutArray_eq).trans rfl
  rw [State.restartsTo, State.restart]
  by_cases hhold : s.sup.condition = .hold
  · have hcond : s.cutArray.sup.restarted.condition = .hold := by rw [hsup]; exact hhold
    simp only [hsup, hpending] at hcond ⊢
    rw [if_pos hhold, if_pos hcond, State.consult_cons (k := .supply) (rest := []) rfl (by simp [State.reset, State.mark]),
      State.consult_nil rfl, State.sendNotice, State.noticeEntry, noticePayload]
    simp only [State.mark, hcond]
    rfl
  · have hcond : ¬ s.cutArray.sup.restarted.condition = .hold := by rw [hsup]; exact hhold
    simp only [hsup, hpending] at hcond ⊢
    rw [if_neg hhold, if_neg hcond]
    rfl

/-- A restart of a state with the same array, supply and queue of commands is a restart of `s`. -/
theorem State.restartsTo.congr {s u t : State} (h : u.restartsTo t) (harr : u.arr = s.arr) (hflash : u.flash = s.flash)
    (hseeds : u.seeds = s.seeds) (hsup : u.sup = s.sup) (hpending : u.pending = s.pending) : s.restartsTo t := by
  have hcut : ∀ v : State, v.cutArray.flash = (cutArrayIn v.arr (v.flash, v.seeds)).1
      ∧ v.cutArray.seeds = (cutArrayIn v.arr (v.flash, v.seeds)).2 := fun v => by
    rw [State.cutArray_eq]
    exact ⟨rfl, rfl⟩
  rw [State.restartsTo, (hcut s).1, (hcut s).2, ← harr, ← hflash, ← hseeds, ← hsup, ← hpending, ← (hcut u).1, ← (hcut u).2]
  exact h

/-! ## The RESET reply (R149 to R151, R180) -/

section ResetReply
variable {s t : State} {f : Frame} {k : ReqKind} {r : Request}

/-- The Request Table after the final reply of the RESET just taken. -/
def State.reqReset (s : State) (f : Frame) : RequestTable :=
  { s.req with cache := cacheAfter s.req.cache (CacheEntry.mk f.tag f.digest (replyFrame f.tag [0])) }

theorem State.finish_reset (h : s.slot f.tag = none) (ht : t.req = (s.taken k f r).req) :
    t.finish f.tag (le 1 Status.ok.code) true
      = { t.sendReply (TxFrame.mk (replyFrame f.tag [0]) none true) with req := s.reqReset f } := by
  have hslot : t.slot f.tag = some (s.takenSlot k f r) := by
    rw [State.slot, ht]
    exact State.taken_slot h k r
  have hanswered : (t.answer f.tag .ok []).req = s.reqReset f := congrArg State.req (State.answer_of_taken h ht .ok [])
  have hsend : ∀ e : TxFrame, (t.sendReply e).req = t.req := fun e => by simp
  rw [State.answer, State.finish_current hslot rfl] at hanswered
  simp only [State.finish, hslot]
  rw [← hanswered]
  simp only [State.takenSlot, newSlot, State.cacheReply, State.freeSlot, hsend]
  rfl

/-- The RESET reply of a request just taken, while there is room for it. -/
theorem State.resetReply_room (h : s.slot f.tag = none) (ht : t.req = (s.taken k f r).req) (hroom : t.link.txq.length < 32)
    (hdue : t.dev.restartDue = false) : t.resetReply f.tag = ({ t with
      link := { t.link with txq := t.link.txq ++ [TxFrame.mk (replyFrame f.tag [0]) none true] }
      req := s.reqReset f
      dev := { t.dev with restartLatch := true } } : State).consult := by
  have hsend : t.sendReply (TxFrame.mk (replyFrame f.tag [0]) none true)
      = { t with link := { t.link with txq := t.link.txq ++ [TxFrame.mk (replyFrame f.tag [0]) none true] } } :=
    (State.sendReply_restarts rfl t).trans (if_pos hroom)
  rw [State.resetReply, State.finish_reset h ht, hsend]
  simp only [State.setLatch]
  exact if_neg (by rw [hdue]; simp)

/-- One that finds the Transmit Queue full brings the restart (R151, R180). -/
theorem State.resetReply_full (h : s.slot f.tag = none) (ht : t.req = (s.taken k f r).req) (hfull : 32 ≤ t.link.txq.length) :
    t.restartsTo (t.resetReply f.tag) := by
  have hsend : t.sendReply (TxFrame.mk (replyFrame f.tag [0]) none true) = t.dueRestart :=
    (State.sendReply_restarts rfl t).trans (if_neg (Nat.not_lt.2 hfull))
  rw [State.resetReply, State.finish_reset h ht, hsend]
  simp only [State.setLatch, State.dueRestart, if_true]
  exact (State.restart_restartsTo _).congr rfl rfl rfl rfl rfl

end ResetReply

/-! ## RESET (R58, R59, R149, R150) -/

theorem State.draining_iff (s : State) : s.draining = true ↔ ∃ sl ∈ s.req.slots, sl.wait = some .drain := by
  simp [State.draining, List.any_eq_true]

/-- A request just taken is no RESET that drains. -/
theorem State.taken_draining {s : State} {f : Frame} (h : s.slot f.tag = none) (k : ReqKind) (r : Request) :
    (s.taken k f r).draining = s.draining := by
  rw [State.taken_eq h]
  simp [State.draining, State.takenSlot, newSlot]

/-- The drain of a RESET begins: ONLINE becomes DRAINING (R58). -/
def State.drainBegun (s : State) : State := if s.dev.state = .online then s.setDevice .draining else s

theorem State.drainBegun_eq (s : State) : s.drainBegun = { s with
    link := s.drainBegun.link
    dev := { s.dev with state := if s.dev.state = .online then .draining else s.dev.state } }
    ∧ { s.drainBegun.link with notices := s.link.notices } = s.link := by
  by_cases honline : s.dev.state = .online
  · have hne : s.dev.state ≠ .draining := by rw [honline]; simp
    rw [State.drainBegun, if_pos honline, if_pos honline, State.setDevice_ne hne]
    exact ⟨rfl, rfl⟩
  · rw [State.drainBegun, if_neg honline, if_neg honline]
    exact ⟨rfl, rfl⟩

theorem State.actReset_active {s : State} (h : s.draining = true) (tag : Byte) (mode : ResetMode) :
    s.actReset tag mode = (s.answer tag .alreadyActive []).consult := by
  simp only [State.actReset, h, if_true]

theorem State.actReset_discard {s : State} (h : ¬ s.draining = true) (tag : Byte) :
    s.actReset tag .discard = (s.modQueue (fun q => { q with frozen := true })).resetReply tag := by
  rw [State.actReset, if_neg h]
  rfl

theorem State.drainBegun_queue (s : State) : s.drainBegun.wq = s.wq := (congrArg State.wq s.drainBegun_eq.1).trans rfl

theorem State.actReset_drain {s : State} (h : ¬ s.draining = true) (tag : Byte) : s.actReset tag .drain
    = if s.wq.entries = [] ∧ s.wq.admission = [] then s.drainBegun.resetReply tag
      else (s.drainBegun.waitFor tag .drain).consultFor tag := by
  rw [State.actReset, if_neg h, ← s.drainBegun_queue]
  rfl

/-- A request just taken waits in a state whose Request Table is still the one of the taking, with its PENDING and the
notices behind it. -/
theorem State.parked_of_taken {s t : State} {f : Frame} {k : ReqKind} {r : Request} (h : s.slot f.tag = none)
    (ht : t.req = (s.taken k f r).req) (hlink : { t.link with notices := s.link.notices } = s.link) (hr : r.binds = false)
    {why : WaitReason} (hw : why ≠ .flashRead) :
    s.parked f (waitingSlot k f r none why) ((t.waitFor f.tag why).consultFor f.tag)
      ∧ { ((t.waitFor f.tag why).consultFor f.tag) with link := t.link, req := t.req } = t := by
  have htxq : t.link.txq = s.link.txq := by rw [← hlink]
  have hreq := State.waitFor_of_taken h ht why
  have hslot : (t.waitFor f.tag why).slot f.tag = some { s.takenSlot k f r with state := .waiting, wait := some why } := by
    rw [State.slot, hreq]
    exact (congrArg (fun u : State => u.slot f.tag) (State.taken_waits h k r why)).symm.trans (State.taken_waits_slot h k r why)
  have howed : ({ s.takenSlot k f r with state := .waiting, wait := some why } : Slot).owedPending = true := by
    simp [Slot.owedPending, State.takenSlot, newSlot, hw]
  have hothers := find_tag_none h
  rw [State.consultFor, State.tellPending_owed hslot howed]
  obtain ⟨notes, rest, hnotes, _, hconsult⟩ := State.consult_eq _
  rw [hconsult, hreq]
  refine ⟨⟨⟨⟨notes, hnotes, ?_⟩, ?_⟩, ?_⟩, rfl⟩
  · show t.txAfter _ ++ notes = _
    rw [State.txAfter, htxq]
    rfl
  · exact congrArg (fun l : Link => { l with txq := s.link.txq, notices := s.link.notices }) hlink
  · simp [map_other _ hothers, State.takenSlot, newSlot, hr, waitingSlot]

/-- A RESET that is answered at once: the state in which its reply is decided (R59, R149, R150). -/
theorem State.actReset_replies {s : State} (h : ¬ s.draining = true) (tag : Byte) {mode : ResetMode}
    (hcase : mode = .discard ∨ (s.wq.entries = [] ∧ s.wq.admission = [])) :
    ∃ t : State, s.actReset tag mode = t.resetReply tag ∧ t.req = s.req ∧ { t.link with notices := s.link.notices } = s.link
      ∧ t.wq = { s.wq with frozen := s.wq.frozen || decide (mode = .discard) }
      ∧ t.dev = { s.dev with state := if mode = .drain ∧ s.dev.state = .online then .draining else s.dev.state }
      ∧ { t with link := s.link, req := s.req, wq := s.wq, dev := s.dev } = s := by
  cases mode with
  | discard =>
    refine ⟨_, s.actReset_discard h tag, rfl, rfl, ?_, ?_, rfl⟩
    · simp [State.modQueue]
    · simp [State.modQueue]
  | drain =>
    have hempty : s.wq.entries = [] ∧ s.wq.admission = [] := hcase.resolve_left (by simp)
    obtain ⟨hbegun, hlink⟩ := s.drainBegun_eq
    refine ⟨s.drainBegun, (State.actReset_drain h tag).trans (if_pos hempty), (congrArg State.req hbegun).trans rfl, hlink,
      ?_, ?_, ?_⟩
    · rw [s.drainBegun_queue]
      simp
    · rw [congrArg State.dev hbegun]
      simp
    · rw [hbegun]

/-! ## The drain report (R58, R150) -/

/-- The report finds the first RESET that waits for the drain. -/
theorem State.drainReport_found {s : State} {before after : List Slot} {sl : Slot} (h : s.req.slots = before ++ sl :: after)
    (hbefore : ∀ x ∈ before, x.wait ≠ some .drain ∧ x.tag ≠ sl.tag) (hsl : sl.wait = some .drain) :
    s.req.slots.find? (fun sl => sl.wait == some .drain) = some sl ∧ s.slot sl.tag = some sl := by
  constructor
  · rw [List.find?_eq_some_iff_append]
    exact ⟨by simp [hsl], before, after, h, fun x hx => by simpa using (hbefore x hx).1⟩
  · rw [State.slot, List.find?_eq_some_iff_append]
    exact ⟨by simp, before, after, h, fun x hx => by simpa using (hbefore x hx).2⟩

theorem State.drainReport_idle {s : State} (h : (∀ sl ∈ s.req.slots, sl.wait ≠ some .drain) ∨ s.wq.entries ≠ []
    ∨ s.wq.admission ≠ []) : s.drainReport = s := by
  rw [State.drainReport]
  cases hfind : s.req.slots.find? (fun sl => sl.wait == some .drain) with
  | none => rfl
  | some sl =>
    rcases h with h | h
    · exact absurd (by simpa using List.find?_some hfind) (h sl (List.mem_of_find?_eq_some hfind))
    · exact if_neg (fun hempty => h.elim (fun h => h hempty.1) (fun h => h hempty.2))

/-- The final reply of a RESET that has waited for the drain. -/
theorem State.finish_drained {s : State} {sl : Slot} (h : s.slot sl.tag = some sl) :
    s.finish sl.tag (le 1 Status.ok.code) true = { s with
      link := { s.link with txq :=
        if sl.session = .current ∧ s.link.txq.length < 32 then s.link.txq ++ [TxFrame.mk (replyFrame sl.tag [0]) none true]
        else s.link.txq }
      req := { s.req with
        slots := s.req.slots.filter (fun x => x.tag != sl.tag)
        cache := if sl.session = .current then (if s.req.cache.length < 8 then s.req.cache else s.req.cache.drop 1)
          ++ [CacheEntry.mk sl.tag sl.digest (replyFrame sl.tag [0])] else s.req.cache }
      dev := { s.dev with restartDue := s.dev.restartDue || decide (sl.session = .ended ∨ 32 ≤ s.link.txq.length) } } := by
  simp only [State.finish, h]
  cases hsession : sl.session with
  | current =>
    rw [State.sendReply_restarts rfl]
    by_cases hroom : s.link.txq.length < 32
    · have hless : ¬ 32 ≤ s.link.txq.length := Nat.not_le.2 hroom
      simp [hroom, hless, State.pushTx, State.cacheReply, State.freeSlot]
      rfl
    · have hfull : 32 ≤ s.link.txq.length := Nat.not_lt.1 hroom
      simp [hroom, hfull, State.dueRestart, State.cacheReply, State.freeSlot]
      rfl
  | ended => simp [State.dueRestart, State.freeSlot]

/-- Settles O37: the request's cases, each on the state in which the RESET has taken its slot, and the report. -/
theorem resetDecided : Obligations.ResetDecided := by
  refine ⟨fun s tag flags payload mode htakes hdue => ?_, fun s => ⟨State.drainReport_idle,
    fun before sl after hslots hbefore hsl hentries hadmission => ?_⟩⟩
  · intro reply draining state'
    have hslot := State.takes_slot htakes
    have hexec := exec_reset_taken htakes
    have hdraining := (State.taken_draining hslot .reset (.reset mode)).trans rfl
    have hnot : ¬ draining → ¬ (s.taken .reset (requestFrame .reset tag flags payload) (.reset mode)).draining = true :=
      fun hidle h => hidle (s.draining_iff.1 (hdraining.symm.trans h))
    refine ⟨fun hactive => ?_, fun hidle hcase hroom => ?_, fun hidle hcase hfull => ?_, fun hidle hmode hqueued => ?_⟩
    · rw [State.actReset_active (hdraining.trans (s.draining_iff.2 hactive))] at hexec
      exact ⟨_, hexec, State.taken_answered hslot .reset (.reset mode) .alreadyActive []⟩
    · obtain ⟨t, hact, hreq, hlink, hwq, hdev, hrest⟩ := State.actReset_replies (s := s.taken _ _ _) (hnot hidle) tag hcase
      have htxq : t.link.txq = s.link.txq := (congrArg (fun l : Link => l.txq) hlink).trans rfl
      have hroom' : t.link.txq.length < 32 := by rw [htxq]; exact hroom
      have hdue' : t.dev.restartDue = false := (congrArg (fun d : Device => d.restartDue) hdev).trans hdue
      have hreply := State.resetReply_room (s := s) (f := requestFrame .reset tag flags payload) hslot hreq hroom' hdue'
      obtain ⟨notes, rest, hnotes, _, hconsult⟩ := State.consult_eq _
      rw [hconsult, htxq] at hreply
      refine ⟨_, hexec.trans (congrArg Host.Outcome.next (hact.trans hreply)), ⟨⟨notes, hnotes, rfl⟩, ?_⟩, rfl, hwq, ?_, ?_⟩
      · exact congrArg (fun l : Link => { l with txq := s.link.txq }) hlink
      · exact congrArg (fun d : Device => { d with restartLatch := true }) hdev
      · exact congrArg (fun t : State => { t with req := s.req }) hrest
    · obtain ⟨t, hact, hreq, hlink, hwq, hdev, hrest⟩ := State.actReset_replies (s := s.taken _ _ _) (hnot hidle) tag hcase
      have htxq : t.link.txq = s.link.txq := (congrArg (fun l : Link => l.txq) hlink).trans rfl
      have hfull' : 32 ≤ t.link.txq.length := by rw [htxq]; exact hfull
      have hrestarts := State.resetReply_full (s := s) (f := requestFrame .reset tag flags payload) hslot hreq hfull'
      refine ⟨_, hexec.trans (congrArg Host.Outcome.next hact), hrestarts.congr ?_ ?_ ?_ ?_ ?_⟩
      · exact (congrArg State.arr hrest).trans rfl
      · exact (congrArg State.flash hrest).trans rfl
      · exact (congrArg State.seeds hrest).trans rfl
      · exact (congrArg State.sup hrest).trans rfl
      · exact (congrArg State.pending hrest).trans rfl
    · subst hmode
      obtain ⟨hbegun, hlink⟩ := (s.taken .reset (requestFrame .reset tag flags payload) (.reset .drain)).drainBegun_eq
      obtain ⟨hparked, hframe⟩ := State.parked_of_taken (s := s) (f := requestFrame .reset tag flags payload) hslot
        ((congrArg State.req hbegun).trans rfl) hlink rfl (why := .drain) (by simp)
      have hact := (State.actReset_drain (s := s.taken _ _ _) (hnot hidle) tag).trans (if_neg hqueued)
      refine ⟨_, hexec.trans (congrArg Host.Outcome.next hact), hparked, ?_, ?_⟩
      · refine (congrArg State.dev hframe).trans ((congrArg State.dev hbegun).trans ?_)
        simp [state']
      · refine (congrArg (fun t : State => { t with link := s.link, req := s.req, dev := s.dev }) hframe).trans ?_
        exact (congrArg (fun t : State => { t with link := s.link, req := s.req, dev := s.dev }) hbegun).trans rfl
  · obtain ⟨hfind, hslot⟩ := State.drainReport_found hslots hbefore hsl
    rw [State.drainReport, hfind]
    exact (if_pos ⟨hentries, hadmission⟩).trans (congrArg (fun t : State => { t with dev := { t.dev with restartLatch := true } })
      (State.finish_drained hslot))

end Sys2Proof.Machine
end

section
/-! PROOFS. The receiver, the end of a frame sent, and the break (R151, R175 to R180). -/

namespace Sys2Proof.Machine

/-! ## Notices that an event marks (R181) -/

/-- A consultation keeps what has been marked, in the Notice Set or among the notices it queues. -/
theorem State.consult_noticed (s : State) {k : NoticeKind} (h : k ∈ s.link.notices) : s.consult.noticed k s.link.txq := by
  obtain ⟨notes, rest, _, hkept, hconsult⟩ := State.consult_eq s
  rw [hconsult]
  refine (hkept k h).imp id fun ⟨e, he, hkind⟩ => ⟨e, ?_, hkind⟩
  show e ∈ (s.link.txq ++ notes).drop s.link.txq.length
  rw [List.drop_left]
  exact he

theorem State.mark_notices (s : State) (k : NoticeKind) : k ∈ (s.mark k).link.notices :=
  (mem_joinNotice k k s.link.notices).2 (.inl rfl)

/-- The notices behind what waits, and the rest of the link as it was. -/
theorem State.consult_queued (s : State) :
    s.queued s.link.txq s.consult ∧ { s.consult with link := s.link } = s := by
  obtain ⟨notes, rest, hnotes, _, hconsult⟩ := State.consult_eq s
  rw [hconsult]
  exact ⟨⟨⟨notes, hnotes, rfl⟩, rfl⟩, rfl⟩

/-! ## The receiver (R175 to R177) -/

theorem State.discardFrame_drops (s : State) : s.dropsFrame s.discardFrame := by
  let u := (s.modLink Link.hunt).mark .frameDropped
  obtain ⟨⟨hnotes, hlink⟩, hframe⟩ := State.consult_queued u
  refine ⟨hnotes, ?_, State.consult_noticed u (State.mark_notices _ _), ?_⟩
  · exact congrArg (fun l : Link => { l with txq := s.link.txq, notices := s.link.notices }) hlink
  · exact congrArg (fun t : State => { t with link := s.link }) hframe

section Receiver
variable {s : State} (h : s.held = false)

include h in
theorem exec_framingError (c : Byte) : exec (.characterReceived c true) s = .next s.framingError := by
  simp only [exec, execCharacterReceived, State.unlessHeld, h]
  rfl

include h in
theorem exec_framingError_frame (hrx : s.link.rx ≠ .hunt) (c : Byte) :
    exec (.characterReceived c true) s = .next s.discardFrame := by
  rw [exec_framingError h, State.framingError]
  cases hstate : s.link.rx with
  | hunt => exact absurd hstate hrx
  | header | payload | check => rfl

include h in
theorem exec_gapTimerExpiry : exec .gapTimerExpiry s = .next (if s.link.gap then s.discardFrame else s) := by
  simp only [exec, execGapTimerExpiry, State.unlessHeld, h]
  rfl

/-- A LENGTH above 2080 drops the frame (R176). -/
theorem State.takeChar_tooLong {c lo : Byte} (hrx : s.link.rx = .header) (hgot : s.link.got = [lo])
    (hlen : 2080 < lo.toNat + 256 * c.toNat) : s.takeChar c = s.discardFrame := by
  have hfield : lengthField [lo, c] = lo.toNat + 256 * c.toNat := by simp [lengthField, fromLe]
  simp only [State.takeChar, hrx, State.headerByte, hgot]
  exact if_pos ⟨rfl, by rw [List.singleton_append, hfield]; exact hlen⟩

/-- A CRC that does not match drops the frame (R176). -/
theorem State.takeChar_badCrc {f : Frame} {x c : Byte} (hrx : s.link.rx = .check) (hkind : f.kind.length = 4)
    (hlen : f.payload.length ≤ 2080) (hgot : s.link.got = f.covered ++ [x]) (hcrc : le 2 f.crc.toNat ≠ [x, c]) :
    s.takeChar c = s.discardFrame := by
  have hall : s.link.got ++ [c] = f.covered ++ [x, c] := by rw [hgot, List.append_assoc]; rfl
  have hfield := Frame.lengthField_covered hlen [x, c]
  have hcheck : crcField (f.covered ++ [x, c]) = fromLe [x, c] := by
    rw [crcField, hfield, List.drop_left' (Frame.length_covered hkind)]
    rfl
  have hbad : f.crc.toNat ≠ fromLe [x, c] := fun heq => hcrc (heq ▸ le_fromLe [x, c])
  simp only [State.takeChar, hrx, State.checkByte, hall, hfield, frameOf_covered hkind hlen, hcheck]
  rw [if_neg (by simp [Frame.length_covered hkind]; omega), if_neg hbad]

end Receiver

/-! ## The transmitter and the break (R178 to R180) -/

section Transmitter
variable {s : State} (h : s.held = false)

include h in
theorem exec_frameSent_head {e : TxFrame} {rest : List TxFrame} (htx : s.link.txq = e :: rest) :
    exec .frameSent s = .next (s.frameLeaves e) := by
  simp only [exec, execFrameSent, State.unlessHeld, h, htx]
  rfl

include h in
theorem exec_frameSent_empty (htx : s.link.txq = []) : exec .frameSent s = .next s := by
  simp only [exec, execFrameSent, State.unlessHeld, h, htx]
  rfl

include h in
theorem exec_breakRecognised : exec .breakRecognised s = .next s.takeBreak := by
  simp only [exec, execBreak, State.unlessHeld, h]
  rfl

/-- A rate change drops a frame in progress (R179). -/
theorem State.changeRate_inFrame (b : Nat) (hrx : s.link.rx ≠ .hunt) : s.changeRate b
    = ({ s with link := { s.link with rate := b, rx := .hunt, got := [], gap := false } } : State).mark .frameDropped := by
  rw [State.changeRate]
  cases hstate : s.link.rx with
  | hunt => exact absurd hstate hrx
  | header | payload | check =>
    simp only [State.modLink, hstate]
    rfl

theorem State.changeRate_hunt (b : Nat) (hrx : s.link.rx = .hunt) :
    s.changeRate b = { s with link := { s.link with rate := b } } := by
  simp only [State.changeRate, State.modLink, hrx]

end Transmitter

/-- Settles O38: the receiver's cases, the frame sent by what it brings, and the break. -/
theorem linkRules : Obligations.LinkRules := by
  refine ⟨fun s h => ⟨fun c hrx hc => ?_, fun c hrx => ?_, fun hrx => ?_, fun c hrx => ?_, fun c lo hrx hgot hlen => ?_,
    fun f x c hrx hkind hlen hgot hcrc => ?_, fun hgap => ?_, fun hgap => ?_⟩, fun s h => ⟨exec_frameSent_empty h,
    fun e rest htx hrestarts hrate => ?_, fun e rest b htx hrestarts hrate => ?_, fun e rest htx hrestarts => ?_, fun hhead => ?_⟩⟩
  · rw [exec_character h, State.takeChar, hrx]
    exact congrArg Host.Outcome.next (if_neg hc)
  · rw [exec_framingError h, State.framingError, hrx]
  · rw [exec_character h, State.takeChar, hrx]
    rfl
  · exact ⟨_, exec_framingError_frame h hrx c, s.discardFrame_drops⟩
  · rw [exec_character h, State.takeChar_tooLong hrx hgot hlen]
    exact ⟨_, rfl, s.discardFrame_drops⟩
  · rw [exec_character h, State.takeChar_badCrc hrx hkind hlen hgot hcrc]
    exact ⟨_, rfl, s.discardFrame_drops⟩
  · rw [exec_gapTimerExpiry h, if_pos hgap]
    exact ⟨_, rfl, s.discardFrame_drops⟩
  · rw [exec_gapTimerExpiry h, hgap]
    rfl
  · have hleaves : s.frameLeaves e = s.popTx.consult := by simp [State.frameLeaves, hrate, hrestarts]
    have hpop : s.popTx.link.txq = rest := by simp [State.popTx, State.modLink, htx]
    obtain ⟨hqueued, hframe⟩ := State.consult_queued s.popTx
    rw [exec_frameSent_head h htx, hleaves]
    rw [hpop] at hqueued
    exact ⟨_, rfl, ⟨hqueued.1, congrArg (fun l : Link => { l with txq := s.link.txq }) hqueued.2⟩,
      congrArg (fun t : State => { t with link := s.link }) hframe⟩
  · have hleaves : s.frameLeaves e = (s.popTx.changeRate b).consult := by simp [State.frameLeaves, hrate, hrestarts]
    have hpop : s.popTx.link.txq = rest := by simp [State.popTx, State.modLink, htx]
    rw [exec_frameSent_head h htx, hleaves]
    obtain ⟨⟨hnotices, hlink⟩, hframe⟩ := State.consult_queued (s.popTx.changeRate b)
    refine ⟨_, rfl, ?_⟩
    by_cases hrx : s.link.rx = .hunt
    · rw [State.changeRate_hunt (s := s.popTx) b hrx] at hnotices hlink hframe ⊢
      rw [hpop] at hnotices
      exact ⟨hnotices, (congrArg (fun l : Link => l.rate) hlink).trans rfl, (congrArg (fun l : Link => l.rx) hlink).trans hrx,
        fun hne => absurd hrx hne, congrArg (fun t : State => { t with link := s.link }) hframe⟩
    · have hnoticed := State.consult_noticed (s.popTx.changeRate b) (k := .frameDropped) (by
        rw [State.changeRate_inFrame (s := s.popTx) b hrx]
        exact State.mark_notices _ _)
      rw [State.changeRate_inFrame (s := s.popTx) b hrx] at hnotices hlink hframe hnoticed ⊢
      have htxq : (State.mark .frameDropped
          { s.popTx with link := { s.popTx.link with rate := b, rx := .hunt, got := [], gap := false } }).link.txq = rest := hpop
      rw [htxq] at hnotices hnoticed
      exact ⟨hnotices, (congrArg (fun l : Link => l.rate) hlink).trans rfl, (congrArg (fun l : Link => l.rx) hlink).trans rfl,
        fun _ => ⟨(congrArg (fun l : Link => l.got) hlink).trans rfl, (congrArg (fun l : Link => l.gap) hlink).trans rfl, hnoticed⟩,
        congrArg (fun t : State => { t with link := s.link }) hframe⟩
  · have hleaves : s.frameLeaves e = s.popTx.restart := by simp [State.frameLeaves, hrestarts]
    have hbreak : s.takeBreak = (s.modLink Link.broken).restart := by simp [State.takeBreak, htx, hrestarts]
    rw [exec_frameSent_head h htx, exec_breakRecognised h, hleaves, hbreak]
    exact ⟨⟨_, rfl, (State.restart_restartsTo _).congr rfl rfl rfl rfl rfl⟩,
      ⟨_, rfl, (State.restart_restartsTo _).congr rfl rfl rfl rfl rfl⟩⟩
  · have hbreak : s.takeBreak = ((s.modLink Link.broken).mark .linkReset).consult := by
      have hnone : s.link.txq.head?.any (fun e => e.restarts) = false := by
        rw [Option.any_eq_false]
        exact fun e he => by simpa using hhead e he
      simp [State.takeBreak, hnone]
    have hnoticed := State.consult_noticed ((s.modLink Link.broken).mark .linkReset) (State.mark_notices _ _)
    obtain ⟨⟨hnotices, hlink⟩, hframe⟩ := State.consult_queued ((s.modLink Link.broken).mark .linkReset)
    have hfields : ∀ {α : Type} (field : Link → α), (∀ l q n, field { l with txq := q, notices := n } = field l) →
        field ((s.modLink Link.broken).mark .linkReset).consult.link = field s.link.broken := fun field hfield =>
      (hfield _ _ _).symm.trans ((congrArg field hlink).trans (hfield s.link.broken _ _))
    rw [exec_breakRecognised h, hbreak]
    refine ⟨_, rfl, hnotices, hfields Link.rx (fun _ _ _ => rfl), hfields Link.got (fun _ _ _ => rfl),
      hfields Link.gap (fun _ _ _ => rfl), hfields Link.rate (fun _ _ _ => rfl), ?_,
      congrArg (fun t : State => { t with link := s.link }) hframe⟩
    rw [State.noticed, ← List.length_map TxFrame.withoutRate]
    exact hnoticed

end Sys2Proof.Machine
end

section
/-! PROOFS. The choices inside the part: the epoch, the limit, a lane, a sector, a victim, and the demands that act on them
(R17, R37, R92, R93, R96, R118, R119, R131). -/

namespace Sys2Proof.Machine

/-! ## The first of a list by an order -/

/-- The first of a list of numbers, by a choice between two. -/
def pickFirst (pick : Nat → Nat → Nat) : List Nat → Option Nat
  | [] => none
  | n :: rest => some (rest.foldl pick n)

/-- `pick` chooses of two numbers, the lower first, the one that stands before the other in a linear order. -/
structure Picks (before : Nat → Nat → Prop) (pick : Nat → Nat → Nat) : Prop where
  refl : ∀ a, before a a
  trans : ∀ {a b c}, before a b → before b c → before a c
  antisymm : ∀ {a b}, before a b → before b a → a = b
  pick : ∀ {a b}, a < b → (pick a b = a ∧ before a b) ∨ (pick a b = b ∧ before b a)

section Pick
variable {before : Nat → Nat → Prop} {pick : Nat → Nat → Nat}

theorem Picks.foldl (h : Picks before pick) (n : Nat) (rest : List Nat) (hrise : (n :: rest).Pairwise (· < ·)) :
    rest.foldl pick n ∈ n :: rest ∧ ∀ m ∈ n :: rest, before (rest.foldl pick n) m := by
  induction rest generalizing n with
  | nil => exact ⟨List.mem_singleton.2 rfl, fun m hm => List.mem_singleton.1 hm ▸ h.refl _⟩
  | cons b rest ih =>
    obtain ⟨hn, hrest⟩ := List.pairwise_cons.1 hrise
    obtain ⟨hb, htail⟩ := List.pairwise_cons.1 hrest
    have hnb : n < b := hn b List.mem_cons_self
    rcases h.pick hnb with ⟨heq, hbefore⟩ | ⟨heq, hbefore⟩
    · obtain ⟨hmem, hall⟩ := ih n (List.pairwise_cons.2 ⟨fun m hm => hn m (List.mem_cons_of_mem _ hm), htail⟩)
      rw [List.foldl_cons, heq]
      refine ⟨?_, fun m hm => ?_⟩
      · rcases List.mem_cons.1 hmem with hm | hm
        · rw [hm]; exact List.mem_cons_self
        · exact List.mem_cons_of_mem _ (List.mem_cons_of_mem _ hm)
      · rcases List.mem_cons.1 hm with rfl | hm
        · exact hall m List.mem_cons_self
        · rcases List.mem_cons.1 hm with rfl | hm
          · exact h.trans (hall n List.mem_cons_self) hbefore
          · exact hall m (List.mem_cons_of_mem _ hm)
    · obtain ⟨hmem, hall⟩ := ih b hrest
      rw [List.foldl_cons, heq]
      refine ⟨List.mem_cons_of_mem _ hmem, fun m hm => ?_⟩
      rcases List.mem_cons.1 hm with rfl | hm
      · exact h.trans (hall b List.mem_cons_self) hbefore
      · exact hall m hm

theorem pickFirst_eq_some (h : Picks before pick) {l : List Nat} (hrise : l.Pairwise (· < ·)) {n : Nat} :
    pickFirst pick l = some n ↔ n ∈ l ∧ ∀ m ∈ l, before n m := by
  cases l with
  | nil => simp [pickFirst]
  | cons a rest =>
    obtain ⟨hmem, hall⟩ := h.foldl a rest hrise
    rw [pickFirst, Option.some.injEq]
    constructor
    · rintro rfl
      exact ⟨hmem, hall⟩
    · rintro ⟨hn, hbefore⟩
      exact h.antisymm (hall n hn) (hbefore _ hmem)

theorem pickFirst_eq_none {l : List Nat} : pickFirst pick l = none ↔ l = [] := by
  cases l <;> simp [pickFirst]

end Pick

/-- The sectors that meet a test stand in rising number. -/
theorem sectorsWhere_rise (p : SectorEntry → Bool) (table : List SectorEntry) : (sectorsWhere p table).Pairwise (· < ·) :=
  List.Pairwise.filter _ List.pairwise_lt_range

/-! ## The epoch and the limit (R17, R37) -/

theorem highestEpoch_foldl (a : BitVec 16) (es : List (BitVec 16)) :
    let r := es.foldl (fun a b => if a.toNat < b.toNat then b else a) a
    (r = a ∨ r ∈ es) ∧ a.toNat ≤ r.toNat ∧ ∀ f ∈ es, f.toNat ≤ r.toNat := by
  induction es generalizing a with
  | nil => exact ⟨.inl rfl, Nat.le_refl _, by simp⟩
  | cons b rest ih =>
    obtain ⟨hmem, hle, hall⟩ := ih (if a.toNat < b.toNat then b else a)
    rw [List.foldl_cons]
    by_cases hab : a.toNat < b.toNat
    · simp only [if_pos hab] at hmem hle hall ⊢
      refine ⟨.inr ?_, by omega, fun f hf => ?_⟩
      · rcases hmem with hmem | hmem
        · rw [hmem]; exact List.mem_cons_self
        · exact List.mem_cons_of_mem _ hmem
      · rcases List.mem_cons.1 hf with rfl | hf
        · exact hle
        · exact hall f hf
    · simp only [if_neg hab] at hmem hle hall ⊢
      refine ⟨hmem.imp_right (List.mem_cons_of_mem _), hle, fun f hf => ?_⟩
      rcases List.mem_cons.1 hf with rfl | hf
      · omega
      · exact hall f hf

/-- The highest epoch is one of those present, when one is present at all. -/
theorem highestEpoch_spec {es : List (BitVec 16)} (h : es ≠ []) :
    highestEpoch es ∈ es ∧ ∀ f ∈ es, f.toNat ≤ (highestEpoch es).toNat := by
  obtain ⟨hmem, _, hall⟩ := highestEpoch_foldl 0 es
  refine ⟨?_, hall⟩
  rcases hmem with hzero | hmem
  · obtain ⟨f, hf⟩ := List.exists_mem_of_ne_nil es h
    have hle := hall f hf
    rw [hzero] at hle
    have hsame : f = highestEpoch es := BitVec.eq_of_toNat_eq (by rw [highestEpoch, hzero]; exact Nat.eq_zero_of_le_zero hle)
    exact hsame ▸ hf
  · exact hmem

/-- An epoch that is present and that no other is newer than (R17). -/
def newestIn (es : List (BitVec 16)) (e : BitVec 16) : Prop :=
  e ∈ es ∧ ∀ f ∈ es, ¬ (1 ≤ (f - e).toNat ∧ (f - e).toNat ≤ 32767)

theorem mem_newest {es : List (BitVec 16)} {e : BitVec 16} :
    e ∈ es.filter (fun e => !es.any (fun f => newerEpoch f e)) ↔ newestIn es e := by
  simp [newestIn, newerEpoch]

theorem currentEpoch_unique {es : List (BitVec 16)} {e : BitVec 16} (h : newestIn es e) (hu : ∀ f, newestIn es f → f = e) :
    currentEpoch es = e := by
  rw [currentEpoch]
  have hmem := mem_newest.2 h
  have hall : ∀ f ∈ es.filter (fun e => !es.any (fun f => newerEpoch f e)), f = e := fun f hf => hu f (mem_newest.1 hf)
  generalize es.filter (fun e => !es.any (fun f => newerEpoch f e)) = l at hmem hall ⊢
  cases l with
  | nil => cases hmem
  | cons a rest =>
    have ha := hall a List.mem_cons_self
    subst ha
    exact if_pos (List.all_eq_true.2 fun f hf => by simpa using hall f (List.mem_cons_of_mem _ hf))

theorem currentEpoch_highest {es : List (BitVec 16)} (h : ¬ ∃ e, newestIn es e ∧ ∀ f, newestIn es f → f = e) :
    currentEpoch es = highestEpoch es := by
  rw [currentEpoch]
  have hnewest : ∀ f, f ∈ es.filter (fun e => !es.any (fun f => newerEpoch f e)) ↔ newestIn es f := fun f => mem_newest
  generalize es.filter (fun e => !es.any (fun f => newerEpoch f e)) = l at hnewest ⊢
  cases l with
  | nil => rfl
  | cons a rest =>
    refine if_neg fun hall => h ⟨a, (hnewest a).1 List.mem_cons_self, fun f hf => ?_⟩
    rcases List.mem_cons.1 ((hnewest f).2 hf) with rfl | hf
    · rfl
    · simpa using List.all_eq_true.1 hall f hf

/-- Settles O60: the filter of R17 against its fallback, and the formula of R37. -/
theorem epochAndLimit : Obligations.EpochAndLimit := by
  refine ⟨fun es => ⟨fun h => by rw [h]; rfl, fun e => currentEpoch_unique, fun hne hnone => ?_⟩, fun u _ => rfl, fun u hu => ?_, rfl⟩
  · rw [currentEpoch_highest hnone]
    exact highestEpoch_spec hne
  · rw [admissionLimit, Nat.sub_eq_zero_of_le hu, Nat.zero_mul]

/-! ## The append arbiter (R59, R92, R93, R96) -/

section Arbiter
variable {s : State}

/-- Bytes fit in the open sector (R93). -/
theorem State.fits_iff {b : Nat} : s.fits b = true ↔ ∃ o, s.lw.openAt = some o ∧ o.offset + b ≤ 32768 := by
  rw [State.fits]
  cases s.lw.openAt with
  | none => simp
  | some o => simp [Config.sectorBytes]

theorem State.hostHeldBack_iff :
    s.hostHeldBack = true ↔ s.wq.frozen = true ∧ ∃ e rest, s.wq.entries = e :: rest ∧ e.state = .waiting := by
  rw [State.hostHeldBack]
  cases s.wq.entries with
  | nil => simp
  | cons e rest => simp

theorem State.canPlace_host : s.canPlace .host = true
    ↔ ¬ (s.wq.frozen = true ∧ ∃ e rest, s.wq.entries = e :: rest ∧ e.state = .waiting)
      ∧ ∃ h, s.lw.hostLane = some h
          ∧ ((∃ o, s.lw.openAt = some o ∧ o.offset + h.total ≤ 32768) ∨ 2 < s.count .erased) := by
  rw [← State.hostHeldBack_iff, State.canPlace, State.laneNeeds]
  simp only [← State.fits_iff]
  cases s.lw.hostLane with
  | none => simp
  | some h => simp [State.mayOpen, and_comm]

theorem State.canPlace_relocation : s.canPlace .relocation = true
    ↔ ∃ r, s.lw.relocLane = some r
      ∧ ((∃ o, s.lw.openAt = some o ∧ o.offset + r.record.bytes ≤ 32768) ∨ 1 ≤ s.count .erased) := by
  rw [State.canPlace, State.laneNeeds]
  simp only [← State.fits_iff]
  cases s.lw.relocLane with
  | none => simp
  | some r => simp [State.mayOpen]

/-- The grant by what can be placed (R96). -/
theorem State.granted_cases (s : State) :
    (s.granted = some .host ↔ s.canPlace .host = true ∧ (¬ s.canPlace .relocation = true ∨ 2 < s.count .erased))
    ∧ (s.granted = some .relocation ↔ s.canPlace .relocation = true ∧ (¬ s.canPlace .host = true ∨ s.count .erased ≤ 2))
    ∧ (s.granted = none ↔ ¬ s.canPlace .host = true ∧ ¬ s.canPlace .relocation = true) := by
  rw [State.granted]
  cases s.canPlace .host <;> cases s.canPlace .relocation
  · simp
  · simp
  · simp
  · by_cases hfew : s.count .erased ≤ 2
    · simp [hfew]
    · simp [hfew, Nat.not_le.1 hfew]

end Arbiter

/-! ## The sector opened (R92) -/

/-- A sector stands before another: the lower erase count, then the lower number. -/
def wornBefore (table : List SectorEntry) (a b : Nat) : Prop :=
  (table.getD a SectorEntry.initial).eraseCount < (table.getD b SectorEntry.initial).eraseCount
    ∨ ((table.getD a SectorEntry.initial).eraseCount = (table.getD b SectorEntry.initial).eraseCount ∧ a ≤ b)

/-- The choice of the less worn of two sectors. -/
def lessWorn (table : List SectorEntry) (a b : Nat) : Nat :=
  if (table.getD b SectorEntry.initial).eraseCount < (table.getD a SectorEntry.initial).eraseCount then b else a

theorem picks_lessWorn (table : List SectorEntry) : Picks (wornBefore table) (lessWorn table) where
  refl a := .inr ⟨rfl, Nat.le_refl _⟩
  trans hab hbc := by
    simp only [wornBefore] at *
    omega
  antisymm hab hba := by
    simp only [wornBefore] at *
    omega
  pick {a b} hab := by
    simp only [wornBefore, lessWorn]
    split
    · exact .inr ⟨rfl, .inl ‹_›⟩
    · exact .inl ⟨rfl, by omega⟩

theorem lowestErased_eq (table : List SectorEntry) :
    lowestErased table = pickFirst (lessWorn table) (sectorsWhere (fun e => e.state == .erased) table) := by
  rw [lowestErased]
  cases sectorsWhere (fun e => e.state == .erased) table <;> rfl

theorem leastWornFull_eq (table : List SectorEntry) :
    leastWornFull table = pickFirst (lessWorn table) (sectorsWhere SectorEntry.isFull table) := by
  rw [leastWornFull]
  cases sectorsWhere SectorEntry.isFull table <;> rfl

/-! ## The victim (R119) -/

/-- A candidate stands before another: more dead bytes, then the lower erase count, then the lower number. -/
def victimBefore (table : List SectorEntry) (a b : Nat) : Prop :=
  (table.getD b SectorEntry.initial).dead < (table.getD a SectorEntry.initial).dead
    ∨ ((table.getD a SectorEntry.initial).dead = (table.getD b SectorEntry.initial).dead ∧ wornBefore table a b)

theorem picks_betterVictim (table : List SectorEntry) : Picks (victimBefore table) (betterVictim table) where
  refl a := .inr ⟨rfl, .inr ⟨rfl, Nat.le_refl _⟩⟩
  trans hab hbc := by
    simp only [victimBefore, wornBefore] at *
    omega
  antisymm hab hba := by
    simp only [victimBefore, wornBefore] at *
    omega
  pick {a b} hab := by
    simp only [victimBefore, wornBefore, betterVictim]
    split
    · exact .inl ⟨rfl, .inl ‹_›⟩
    split
    · exact .inr ⟨rfl, .inl ‹_›⟩
    split
    · exact .inr ⟨rfl, by omega⟩
    · exact .inl ⟨rfl, by omega⟩

theorem bestVictim_eq (table : List SectorEntry) (l : List Nat) : bestVictim table l = pickFirst (betterVictim table) l := by
  cases l <;> rfl

section Victim
variable {s : State}

theorem State.candidates_rise : s.candidates.Pairwise (· < ·) := by
  rw [State.candidates]
  split
  · exact sectorsWhere_rise _ _
  · cases s.sm.tidy with
    | none => exact List.Pairwise.nil
    | some t => exact List.Pairwise.filter _ (sectorsWhere_rise _ _)

theorem State.mem_candidates {n : Nat} : n ∈ s.candidates ↔ n < s.sm.table.length ∧ (s.sector n).state = .full
    ∧ (s.sm.lowSpace = true ∨ s.sm.hostStall = true ∨ ∃ t, s.sm.tidy = some t ∧ n ∈ t.list) := by
  have hfull : n ∈ sectorsWhere SectorEntry.isFull s.sm.table ↔ n < s.sm.table.length ∧ (s.sector n).state = .full := by
    rw [mem_sectorsWhere, SectorEntry.isFull, beq_iff_eq]
    rfl
  rw [State.candidates]
  by_cases hall : (s.sm.lowSpace || s.sm.hostStall) = true
  · rw [if_pos hall, hfull]
    rw [Bool.or_eq_true] at hall
    exact ⟨fun h => ⟨h.1, h.2, hall.elim .inl (fun h => .inr (.inl h))⟩, fun h => ⟨h.1, h.2.1⟩⟩
  · rw [if_neg hall]
    rw [Bool.or_eq_true, not_or] at hall
    cases s.sm.tidy with
    | none => simp [hall]
    | some t =>
      rw [List.mem_filter, hfull, List.contains_iff_mem]
      simp [hall, and_assoc]

theorem State.mem_scrubbed {n : Nat} : n ∈ s.candidates.filter (fun n => (s.sector n).scrub)
    ↔ n ∈ s.candidates ∧ 4 ≤ (s.sector n).corrected := by
  rw [List.mem_filter, SectorEntry.scrub, decide_eq_true_iff]

theorem State.mem_worth {n : Nat} : n ∈ s.candidates.filter (fun n => (s.sector n).worthDraining)
    ↔ n ∈ s.candidates ∧ (0 < (s.sector n).dead ∨ (s.sector n).live = 0) := by
  rw [List.mem_filter, SectorEntry.worthDraining, decide_eq_true_iff]

/-- The victim is the first of the sectors to be scrubbed, or else of those worth draining. -/
theorem State.victim_eq : s.victim?
    = (pickFirst (betterVictim s.sm.table) (s.candidates.filter (fun n => (s.sector n).scrub))).or
        (pickFirst (betterVictim s.sm.table) (s.candidates.filter (fun n => (s.sector n).worthDraining))) := by
  rw [State.victim?, bestVictim_eq, bestVictim_eq]
  cases pickFirst (betterVictim s.sm.table) (s.candidates.filter (fun n => (s.sector n).scrub)) <;> rfl

end Victim

/-- Settles O57: the grant by what can be placed, and each choice as the first of its list. -/
theorem laneAndVictimChosen : Obligations.LaneAndVictimChosen := by
  refine ⟨⟨fun s => ?_, fun table => ⟨fun n => ?_, ?_⟩⟩, fun s => ⟨fun n => ?_, ?_⟩⟩
  · have hgranted := s.granted_cases
    rw [State.canPlace_host, State.canPlace_relocation] at hgranted
    exact hgranted
  · rw [lowestErased_eq, pickFirst_eq_some (picks_lessWorn table) (sectorsWhere_rise _ _)]
    simp only [mem_sectorsWhere, beq_iff_eq]
    rfl
  · rw [lowestErased_eq, pickFirst_eq_none, List.eq_nil_iff_forall_not_mem]
    simp only [mem_sectorsWhere, beq_iff_eq]
  · rw [State.victim_eq, Option.or_eq_some_iff,
      pickFirst_eq_some (picks_betterVictim _) (List.Pairwise.filter _ State.candidates_rise),
      pickFirst_eq_some (picks_betterVictim _) (List.Pairwise.filter _ State.candidates_rise), pickFirst_eq_none,
      List.eq_nil_iff_forall_not_mem]
    simp only [State.mem_scrubbed, State.mem_worth, State.mem_candidates]
    rfl
  · rw [State.victim_eq, Option.or_eq_none_iff, pickFirst_eq_none, pickFirst_eq_none, List.eq_nil_iff_forall_not_mem,
      List.eq_nil_iff_forall_not_mem, ← forall_and]
    simp only [State.mem_scrubbed, State.mem_worth, State.mem_candidates]

/-! ## The demands (R118, R131) -/

section Demands
variable {s : State}

theorem State.storeActive_iff :
    s.storeActive = true ↔ s.dev.state = .online ∨ s.dev.state = .readOnly ∨ s.dev.state = .draining := by
  rw [State.storeActive]
  cases s.dev.state <;> simp

theorem State.tidyLeft_iff : s.tidyLeft = true ↔ ∃ t, s.sm.tidy = some t ∧ t.list ≠ [] := by
  rw [State.tidyLeft, Option.any_eq_true]
  simp

/-- A walk begins as `walkBegins` has it. -/
theorem State.startWalk_begins (s : State) (n : Nat) : s.walkBegins n (s.startWalk n) := by
  rw [State.walkBegins, State.startWalk]
  rfl

theorem State.chooseVictim_acts (hactive : s.storeActive = true) (hidle : s.sm.engine = .idle)
    (hdemand : s.sm.lowSpace = true ∨ s.sm.hostStall = true ∨ ∃ t, s.sm.tidy = some t ∧ t.list ≠ []) {n : Nat}
    (hvictim : s.victim? = some n) : s.chooseVictim = s.startWalk n := by
  rw [← State.tidyLeft_iff] at hdemand
  rw [State.chooseVictim, if_pos ⟨hactive, hidle, hdemand⟩, hvictim]

theorem State.chooseVictim_rests (h : ¬ (s.storeActive = true ∧ s.sm.engine = .idle
      ∧ (s.sm.lowSpace = true ∨ s.sm.hostStall = true ∨ ∃ t, s.sm.tidy = some t ∧ t.list ≠ [])) ∨ s.victim? = none) :
    s.chooseVictim = s := by
  rw [← State.tidyLeft_iff] at h
  rw [State.chooseVictim]
  rcases h with h | h
  · exact if_neg h
  · rw [h]
    exact ite_self s

/-- The least worn FULL sector, and the one whose lag behind the most worn usable sector calls for a wear move. -/
theorem State.mem_full {n : Nat} :
    n ∈ sectorsWhere SectorEntry.isFull s.sm.table ↔ n < s.sm.table.length ∧ (s.sector n).state = .full := by
  rw [mem_sectorsWhere, SectorEntry.isFull, beq_iff_eq]
  rfl

theorem foldl_max_lt (l : List Nat) (a x : Nat) : x < l.foldl max a ↔ x < a ∨ ∃ y ∈ l, x < y := by
  induction l generalizing a with
  | nil => simp
  | cons b rest ih =>
    have hmax : x < max a b ↔ x < a ∨ x < b := by omega
    rw [List.foldl_cons, ih, hmax, or_assoc]
    simp only [List.mem_cons, exists_eq_or_imp]

/-- A bound below the highest count is below the count of a sector that meets the test. -/
theorem State.lt_highestCount {p : SectorEntry → Bool} {x : Nat} : x < highestCount p s.sm.table
    ↔ ∃ k, k < s.sm.table.length ∧ p (s.sector k) = true ∧ x < (s.sector k).eraseCount := by
  rw [highestCount, foldl_max_lt]
  simp only [Nat.not_lt_zero, false_or, List.mem_map, List.mem_filter]
  constructor
  · rintro ⟨_, ⟨e, ⟨he, hp⟩, rfl⟩, hlt⟩
    obtain ⟨k, hk, rfl⟩ := List.mem_iff_getElem.1 he
    have hsector : s.sector k = s.sm.table[k] := by simp [State.sector, hk]
    exact ⟨k, hk, hsector ▸ hp, hsector ▸ hlt⟩
  · rintro ⟨k, hk, hp, hlt⟩
    have hsector : s.sector k = s.sm.table[k] := by simp [State.sector, hk]
    rw [hsector] at hp hlt
    exact ⟨_, ⟨_, ⟨List.getElem_mem hk, hp⟩, rfl⟩, hlt⟩

/-- The wear check is no more due. -/
def State.wearCleared (s : State) : State := { s with sm := { s.sm with wearDue := false } }

/-- The least worn FULL sector lags so far behind that it is moved (R131). -/
def State.wearMoves (s : State) (n : Nat) : Prop :=
  s.sm.wearDue = true ∧ s.sm.engine = .idle ∧ leastWornFull s.sm.table = some n
    ∧ Config.wearSpread < highestCount SectorEntry.usable s.sm.table - (s.sector n).eraseCount

theorem State.wearCheck_moves {n : Nat} (h : s.wearMoves n) : s.wearCheck = (s.wearCleared.startWalk n).mark .wear := by
  obtain ⟨hdue, hidle, hleast, hspread⟩ := h
  have hleast' : leastWornFull s.wearCleared.sm.table = some n := hleast
  have hmove : s.wearCleared.sm.engine = .idle
      ∧ Config.wearSpread < highestCount SectorEntry.usable s.wearCleared.sm.table - (s.wearCleared.sector n).eraseCount :=
    ⟨hidle, hspread⟩
  rw [State.wearCheck, if_pos hdue]
  show (match leastWornFull s.wearCleared.sm.table with | some n => _ | none => _) = _
  rw [hleast']
  exact if_pos hmove

theorem State.wearCheck_rests (h : ∀ n, ¬ s.wearMoves n) : s.wearCheck = s.wearCleared := by
  rw [State.wearCheck]
  by_cases hdue : s.sm.wearDue = true
  · rw [if_pos hdue]
    show (match leastWornFull s.sm.table with | some n => _ | none => _) = _
    cases hleast : leastWornFull s.sm.table with
    | none => rfl
    | some n => exact if_neg fun hmove => h n ⟨hdue, hmove.1, hleast, hmove.2⟩
  · rw [if_neg hdue, State.wearCleared, ← Bool.eq_false_iff.2 hdue]

theorem State.wearMoves_iff {n : Nat} : s.wearMoves n ↔ s.sm.wearDue = true ∧ s.sm.engine = .idle
    ∧ (n < s.sm.table.length ∧ (s.sector n).state = .full)
    ∧ (∀ k, k < s.sm.table.length ∧ (s.sector k).state = .full → wornBefore s.sm.table n k)
    ∧ ∃ k, (k < s.sm.table.length ∧ (s.sector k).state ≠ .retired) ∧ (s.sector n).eraseCount + 2000 < (s.sector k).eraseCount := by
  have hspread : Config.wearSpread < highestCount SectorEntry.usable s.sm.table - (s.sector n).eraseCount
      ↔ ∃ k, (k < s.sm.table.length ∧ (s.sector k).state ≠ .retired)
          ∧ (s.sector n).eraseCount + 2000 < (s.sector k).eraseCount := by
    rw [show Config.wearSpread < highestCount SectorEntry.usable s.sm.table - (s.sector n).eraseCount
        ↔ (s.sector n).eraseCount + 2000 < highestCount SectorEntry.usable s.sm.table by
      simp only [Config.wearSpread]; omega, State.lt_highestCount]
    simp [SectorEntry.usable, and_assoc]
  rw [State.wearMoves, hspread, leastWornFull_eq, pickFirst_eq_some (picks_lessWorn _) (sectorsWhere_rise _ _)]
  simp only [State.mem_full, and_assoc]

end Demands

/-- Settles O58: the latch, the victim's walk and the wear check, each by its condition. -/
theorem demandsAct : Obligations.DemandsAct := by
  intro s active free demand count full usable cleared moves numbers
  refine ⟨fun hstate hchanged => ?_, fun h => ?_, fun n hactive hidle hdemand hvictim => ?_, fun h => ?_, fun n hmoves => ?_,
    fun hnone => ?_⟩
  · have hactive : s.storeActive = true ∨ s.dev.state = .formatting := hstate.imp_left State.storeActive_iff.2
    rw [State.evalLatch, State.judgeLatch]
    exact (if_neg hchanged).trans (if_pos hactive)
  · rcases h with ⟨hinactive, hnot⟩ | hsame
    · have hrests : ¬ (s.storeActive = true ∨ s.dev.state = .formatting) := by
        rw [State.storeActive_iff]
        exact not_or.2 ⟨hinactive, hnot⟩
      rw [State.evalLatch, State.judgeLatch, if_neg hrests, ite_self]
    · exact if_pos hsame
  · rw [State.chooseVictim_acts (State.storeActive_iff.2 hactive) hidle hdemand hvictim]
    exact s.startWalk_begins n
  · refine State.chooseVictim_rests (h.imp_left fun hnot => ?_)
    rw [State.storeActive_iff]
    exact hnot
  · rw [State.wearCheck_moves (State.wearMoves_iff.2 hmoves)]
    exact ⟨_, cleared.startWalk_begins n, rfl⟩
  · exact State.wearCheck_rests fun n hmoves => hnone n (State.wearMoves_iff.1 hmoves)

end Sys2Proof.Machine
end

section
/-! PROOFS. The Erase Batch gathers, closes, and requests its erases (R110, R116, R127, R128). -/

namespace Sys2Proof.Machine

variable {s : State}

/-- The state after these sectors have left the head of the stale order for the batch (R127). -/
def State.withJoined (s : State) (joining rest : List Nat) : State :=
  { s with sm := { s.sm with
    table := joining.foldl (fun x n => x.modify n (fun e => { e with state := .erasing })) s.sm.table
    batch := { s.sm.batch with
      members := s.sm.batch.members ++ joining
      window := s.sm.batch.window || !joining.isEmpty }
    staleOrder := rest } }

theorem State.withJoined_nil (s : State) : s.withJoined [] s.sm.staleOrder = s := by
  simp [State.withJoined]

/-- What a batch that is not running takes from the stale order, its size known to be at most 4 or not (R127). -/
theorem State.joinUpTo_eq (n : Nat) : ∀ {s : State}, s.sm.batch.running = false →
    s.joinUpTo n = s.withJoined (s.sm.staleOrder.take (min n (4 - s.sm.batch.members.length)))
      (s.sm.staleOrder.drop (min n (4 - s.sm.batch.members.length))) := by
  induction n with
  | zero =>
    intro s _
    rw [Nat.zero_min]
    exact s.withJoined_nil.symm
  | succ n ih =>
    intro s hrun
    rw [State.joinUpTo]
    cases horder : s.sm.staleOrder with
    | nil =>
      have hsame := s.withJoined_nil
      rw [horder] at hsame
      simp only [List.take_nil, List.drop_nil, hsame]
    | cons m rest =>
      by_cases hfull : 4 ≤ s.sm.batch.members.length
      · have hsame := s.withJoined_nil
        rw [horder] at hsame
        have hnone : min (n + 1) (4 - s.sm.batch.members.length) = 0 := by omega
        simp only [hnone, List.take_zero, List.drop_zero, hsame]
        exact if_pos (.inr hfull)
      · have hone : min (n + 1) (4 - s.sm.batch.members.length) = min n (4 - (s.sm.batch.members.length + 1)) + 1 := by omega
        have hgoes : ¬ (s.sm.batch.running = true ∨ Config.maxBatch ≤ s.sm.batch.members.length) := by
          rw [hrun]
          exact fun h => h.elim Bool.false_ne_true hfull
        simp only [if_neg hgoes]
        rw [ih (by exact hrun)]
        simp only [hone, List.take_succ_cons, List.drop_succ_cons, State.withJoined, State.modManager, State.modSector,
          List.length_append, List.length_singleton, List.foldl_cons, List.append_assoc, List.singleton_append,
          List.isEmpty_cons, Bool.true_or, Bool.not_false, Bool.or_true]

theorem State.joinBatch_joins (hactive : s.storeActive = true) (hrun : s.sm.batch.running = false) :
    s.joinBatch = s.withJoined (s.sm.staleOrder.take (4 - s.sm.batch.members.length))
      (s.sm.staleOrder.drop (4 - s.sm.batch.members.length)) := by
  have hmin : min 4 (4 - s.sm.batch.members.length) = 4 - s.sm.batch.members.length := by omega
  rw [State.joinBatch, if_pos hactive, State.joinUpTo_eq _ hrun, Config.maxBatch, hmin]

/-- A batch that runs takes no sector (R127). -/
theorem State.joinUpTo_running (hrun : s.sm.batch.running = true) (n : Nat) : s.joinUpTo n = s := by
  cases n with
  | zero => rfl
  | succ n =>
    rw [State.joinUpTo]
    cases s.sm.staleOrder with
    | nil => rfl
    | cons m rest => exact if_pos (.inl hrun)

theorem State.joinBatch_rests (h : ¬ s.storeActive = true ∨ s.sm.batch.running = true
    ∨ s.sm.staleOrder.take (4 - s.sm.batch.members.length) = []) : s.joinBatch = s := by
  by_cases hactive : s.storeActive = true
  · cases hrun : s.sm.batch.running with
    | true => rw [State.joinBatch, if_pos hactive, State.joinUpTo_running hrun]
    | false =>
      have hnone : s.sm.staleOrder.take (4 - s.sm.batch.members.length) = [] :=
        h.elim (fun hnot => absurd hactive hnot) fun h => h.elim (fun ht => absurd (hrun.symm.trans ht) Bool.false_ne_true) id
      have hrest : s.sm.staleOrder.drop (4 - s.sm.batch.members.length) = s.sm.staleOrder := by
        have happend := List.take_append_drop (4 - s.sm.batch.members.length) s.sm.staleOrder
        rw [hnone, List.nil_append] at happend
        exact happend
      rw [State.joinBatch_joins hactive hrun, hnone, hrest, State.withJoined_nil]
  · rw [State.joinBatch, if_neg hactive]

/-! ## The request -/

/-- Without a FORMAT, and with a batch's first member known, its erase is requested exactly when it is due (R128). -/
theorem State.requestErase_eq {n : Nat} {rest : List Nat} (hreq : s.arr.eraseReq = none) (hformat : s.sm.format = none)
    (hmembers : s.sm.batch.members = n :: rest) : s.requestErase
      = if s.storeActive = true ∧ s.sm.batch.running = true ∧ s.arr.erase = none ∧ (s.sector n).readers = 0
        then s.askErase n false else s := by
  have hcurrent : s.batchCurrent
      = if s.storeActive = true ∧ s.sm.batch.running = true ∧ s.arr.erase = none ∧ (s.sector n).readers = 0
        then some n else none := by
    rw [State.batchCurrent, hmembers]
    by_cases hdue : s.sm.batch.running = true ∧ s.storeActive = true ∧ s.arr.erase = none
    · obtain ⟨hrun, hactive, herase⟩ := hdue
      rw [if_pos ⟨hrun, hactive, herase⟩]
      by_cases hreaders : (s.sector n).readers = 0
      · exact (if_pos hreaders).trans (if_pos ⟨hactive, hrun, herase, hreaders⟩).symm
      · exact (if_neg hreaders).trans (if_neg fun h => hreaders h.2.2.2).symm
    · rw [if_neg hdue]
      exact (if_neg fun h => hdue ⟨h.2.1, h.1, h.2.2.1⟩).symm
  rw [State.requestErase, hreq, State.formatCurrent, hformat, hcurrent]
  by_cases hdue : s.storeActive = true ∧ s.sm.batch.running = true ∧ s.arr.erase = none ∧ (s.sector n).readers = 0
  · rw [if_pos hdue, if_pos hdue]
    rfl
  · rw [if_neg hdue, if_neg hdue]
    rfl

/-- Settles O53: at most four sectors leave the head of the stale order one by one, which is a prefix taken at once. -/
theorem eraseBatchGathers : Obligations.EraseBatchGathers := by
  intro s
  simp only [← State.storeActive_iff]
  refine ⟨fun hactive hrun hjoin => ?_, State.joinBatch_rests, fun hcloses => ?_, fun hnot => ?_,
    fun n rest hreq hformat hmembers => ⟨fun hdue => ?_, fun hnot => ?_⟩⟩
  · have hwindow : (s.sm.batch.window || !(s.sm.staleOrder.take (4 - s.sm.batch.members.length)).isEmpty) = true := by
      simp only [List.isEmpty_eq_false_iff.2 hjoin, Bool.not_false, Bool.or_true]
    rw [State.joinBatch_joins hactive hrun, State.withJoined, hwindow]
  · obtain ⟨hactive, hrun, hsome, hlast⟩ := hcloses
    exact if_pos ⟨hactive, by rw [hrun]; exact Bool.false_ne_true, hsome, hlast⟩
  · refine if_neg fun h => hnot ?_
    obtain ⟨hactive, hrun, hsome, hlast⟩ := h
    exact ⟨hactive, eq_false_of_ne_true hrun, hsome, hlast⟩
  · rw [State.requestErase_eq hreq hformat hmembers, if_pos hdue]
    rfl
  · rw [State.requestErase_eq hreq hformat hmembers, if_neg hnot]

end Sys2Proof.Machine
end

section
/-! PROOFS. Power-on reset and nRESET (R107, R136, R153). -/

namespace Sys2Proof.Machine

variable {s : State}

/-! ## The array operation under way stops where it stands -/

/-- A word cut short changes no other word (R107). -/
theorem cutTargetIn_other {sector index n i : Nat} (hi : i < Config.sectorWords) (h : n ≠ sector ∨ i ≠ index) (data : Word)
    (role : WordRole) (p : Flash × Nat) : (cutTargetIn sector index data role p).1.word n i = p.1.word n i := by
  rw [cutTargetIn]
  split
  · exact Flash.word_put_other hi h _
  · rfl

theorem cutOpIn_other {op : Option ArrayOp} {n i : Nat} (hi : i < Config.sectorWords)
    (h : ∀ w, op = some (.word w) → ¬ (w.sector = n ∧ w.index = i)) (p : Flash × Nat) :
    (cutOpIn op p).1.word n i = p.1.word n i := by
  rcases op with _ | ⟨_ | w⟩
  · rfl
  · rfl
  · refine cutTargetIn_other hi ?_ w.data w.role p
    have hne := h w rfl
    omega

theorem cutEraseIn_other {erase : Option EraseRun} {n i : Nat} (hi : i < Config.sectorWords)
    (h : ∀ r, erase = some r → r.phase = .header → ¬ (r.req.sector = n ∧ i = 0)) (p : Flash × Nat) :
    (cutEraseIn erase p).1.word n i = p.1.word n i := by
  cases erase with
  | none => rfl
  | some r =>
    rw [cutEraseIn]
    split
    · rename_i hphase
      have hne := h r rfl hphase
      exact cutTargetIn_other hi (by omega) _ _ p
    · rfl

theorem State.cutArray_other {sector i : Nat} (hi : i < Config.sectorWords) (h : ¬ s.underWay sector i) :
    s.cutArray.flash.word sector i = s.flash.word sector i := by
  rw [s.cutArray_eq]
  rw [State.underWay, not_or] at h
  obtain ⟨hword, herase⟩ := h
  refine (cutEraseIn_other hi ?_ _).trans (cutOpIn_other hi ?_ (s.flash, s.seeds))
  · exact fun r hr hphase hsame => herase ⟨r, hr, hphase, hsame⟩
  · exact fun w hw hsame => hword ⟨w, hw, hsame⟩

/-- The array once its operation has stopped, with another supply. -/
theorem State.cutArray_modSupply (f : Supply → Supply) (s : State) : s.cutArray.modSupply f = { s with
    flash := s.cutArray.flash, seeds := s.cutArray.seeds, arr := { s.arr with op := none, erase := none }, sup := f s.sup } := by
  rw [s.cutArray_eq]
  rfl

/-! ## A held controller -/

/-- The commands that a held controller takes: the supply's conditions and the two pins (log 18). -/
theorem exec_held (h : s.held = true) {c : Instr}
    (hsupply : c ∉ [.supplyBelowHold, .supplyAboveNormal, .supplyFallInQualification, .qualificationTimerExpiry,
      .powerOnResetAsserted, .supplyAbovePowerOnThreshold, .nresetLow, .nresetHigh])
    (hrelease : ∀ above, c ≠ .powerOnRelease above) : exec c s = .next s := by
  have hdeaf : ∀ f : State → State, (.next (s.unlessHeld f) : Host.Outcome State Fault Refusal) = .next s :=
    fun f => congrArg Host.Outcome.next (if_pos h)
  cases c
  case hello | get | stat | list | put | delete | fence | beginGroup | commit | abort | space | sectors | tidy | format
      | reset | unknownKindFrame | characterReceived | gapTimerExpiry | breakRecognised | frameSent | listStep
      | eraseSuspend | eraseTimeout | blankCheckComplete | eraseWindowExpiry | holdTimerExpiry => exact hdeaf _
  case getReadComplete | reclaimReadComplete | mountReadComplete | wordProgramComplete | wordProgramTimeout
      | erasePulseComplete | eraseWordProgramComplete => exact if_pos h
  case powerOnRelease above => exact absurd rfl (hrelease above)
  case supplyBelowHold | supplyAboveNormal | supplyFallInQualification | qualificationTimerExpiry | powerOnResetAsserted
      | supplyAbovePowerOnThreshold | nresetLow | nresetHigh => simp at hsupply

/-! ## The events -/

/-- Settles O56: the array's change is `cutArray_other`, the restart is `restart_restartsTo`, a held controller's
deafness is `exec_held`. -/
theorem restartEvents : Obligations.RestartEvents := by
  intro s
  refine ⟨fun sector i _ hi hnot => State.cutArray_other hi hnot,
    congrArg Host.Outcome.next (State.cutArray_modSupply _ s), congrArg Host.Outcome.next (State.cutArray_modSupply _ s),
    fun hpor => congrArg Host.Outcome.next (if_pos hpor),
    fun hpor => congrArg Host.Outcome.next (if_neg (by rw [hpor]; exact Bool.false_ne_true)),
    fun above hpor hreleasing => ⟨fun hlow => ⟨_, ?_, State.restart_restartsTo _⟩, fun hlow => ?_⟩,
    fun above hnot => congrArg Host.Outcome.next (if_neg ?_),
    fun hlow hpor => ⟨_, ?_, State.restart_restartsTo _⟩, fun hlow hpor => ?_,
    fun hlow => congrArg Host.Outcome.next (if_neg (by rw [hlow]; exact Bool.false_ne_true)),
    fun c hheld hsupply hrelease => exec_held hheld hsupply hrelease⟩
  · refine congrArg Host.Outcome.next ((if_pos ⟨hpor, hreleasing⟩).trans (if_neg ?_))
    exact fun h : s.sup.nresetLow = true => Bool.false_ne_true (hlow.symm.trans h)
  · exact congrArg Host.Outcome.next ((if_pos ⟨hpor, hreleasing⟩).trans (if_pos hlow))
  · rintro ⟨hpor, hreleasing⟩
    rcases hnot with hnot | hnot
    · exact Bool.false_ne_true (hnot.symm.trans hpor)
    · exact Bool.false_ne_true (hnot.symm.trans hreleasing)
  · refine congrArg Host.Outcome.next ((if_pos hlow).trans (if_neg ?_))
    exact fun h : s.sup.powerOnReset = true => Bool.false_ne_true (hpor.symm.trans h)
  · exact congrArg Host.Outcome.next ((if_pos hlow).trans (if_pos hpor))

end Sys2Proof.Machine
end

section
/-! PROOFS. How an erase ends: DONE, failed, or abandoned, for the batch and for a FORMAT (R37, R38, R110, R129, R130,
R147). -/

namespace Sys2Proof.Machine

variable {s : State}

/-! ## The word an erase programs (R100, R110) -/

/-- The array and the next free value as the end of a word program leaves them (R100). -/
def programIn (sector index : Nat) (data : Word) (role : WordRole) (verified : Bool) (p : Flash × Nat) : Flash × Nat :=
  if (p.1.word sector index).isBlank then
    if verified then (p.1.put sector index (.stored { data := data, ecc := .clean }), p.2)
    else (p.1.put sector index (.failed p.2 data role), p.2 + 1)
  else p

section Program
variable {sector index : Nat} {data : Word} {role : WordRole} {verified : Bool} {p : Flash × Nat}

theorem State.programWord_eq (sector index : Nat) (data : Word) (role : WordRole) (verified : Bool) (s : State) :
    s.programWord sector index data role verified
      = s.withArray (programIn sector index data role verified (s.flash, s.seeds)) := by
  rw [State.programWord, programIn]
  by_cases hblank : (s.flash.word sector index).isBlank = true
  · rw [if_pos hblank, if_pos hblank]
    cases verified <;> rfl
  · rw [if_neg hblank, if_neg hblank]
    rfl

theorem programIn_other {n i : Nat} (hi : i < Config.sectorWords) (h : n ≠ sector ∨ i ≠ index) :
    (programIn sector index data role verified p).1.word n i = p.1.word n i := by
  rw [programIn]
  split
  · cases verified <;> exact Flash.word_put_other hi h _
  · rfl

theorem programIn_written (h : (p.1.word sector index).isBlank = false) :
    programIn sector index data role verified p = p := by
  rw [programIn, h]
  exact if_neg Bool.false_ne_true

theorem programIn_verified (hexists : wordExists sector index = true) (h : (p.1.word sector index).isBlank = true) :
    (programIn sector index data role true p).1.word sector index = { data := data, ecc := .clean } := by
  rw [programIn, if_pos h]
  exact Flash.word_put hexists _

/-- A failed program of an erase word leaves no valid erase word (R110). -/
theorem programIn_failed (hexists : wordExists sector index = true) (h : (p.1.word sector index).erase? = none) :
    ((programIn sector index data .eraseWord false p).1.word sector index).erase? = none := by
  rw [programIn]
  split
  · have hview := Cell.view_failed p.2 data .eraseWord index
    rw [← Flash.word_put hexists (f := p.1), WordRole.notFailed, Bool.or_eq_false_iff] at hview
    exact Option.isSome_eq_false_iff.1 hview.2 |> Option.isNone_iff_eq_none.1
  · exact h

end Program

/-! ## The admission limit (R37, R38) -/

/-- The notices marked when the limit of a Directory becomes `limit` in a device state: SPACE_LOW when that crosses nine
tenths upward, STATE when it ends ONLINE or DRAINING (R37, R38, R137). -/
def limitNotices (d : Directory) (st : DeviceState) (limit : Nat) (told : List NoticeKind) : List NoticeKind :=
  let spaced := if d.admitted * 10 ≤ d.limit * 9 ∧ limit * 9 < d.admitted * 10 then joinNotice .spaceLow told else told
  if limit < d.admitted ∧ (st = .online ∨ st = .draining) then joinNotice .state spaced else spaced

/-- The device state when the limit of a Directory becomes `limit` (R37). -/
def limitDevice (d : Directory) (st : DeviceState) (limit : Nat) : DeviceState :=
  if limit < d.admitted ∧ (st = .online ∨ st = .draining) then .readOnly else st

theorem State.toReadOnly_eq (s : State) : s.toReadOnly
    = if s.dev.state = .online ∨ s.dev.state = .draining then
        { s with
          link := { s.link with notices := joinNotice .state s.link.notices }
          dev := { s.dev with state := .readOnly } }
      else s := by
  rw [State.toReadOnly]
  cases hstate : s.dev.state <;> simp [State.setDevice, hstate, State.mark]

theorem State.crossMark_eq (s : State) (a l l' : Nat) : s.crossMark (aboveMark a l) (aboveMark a l')
    = { s with link := { s.link with notices :=
        if a * 10 ≤ l * 9 ∧ l' * 9 < a * 10 then joinNotice .spaceLow s.link.notices else s.link.notices } } := by
  have hcross : (!aboveMark a l && aboveMark a l') = true ↔ a * 10 ≤ l * 9 ∧ l' * 9 < a * 10 := by
    rw [aboveMark, aboveMark, Bool.and_eq_true, Bool.not_eq_true', decide_eq_false_iff_not, decide_eq_true_iff, Nat.not_lt]
  rw [State.crossMark]
  by_cases h : a * 10 ≤ l * 9 ∧ l' * 9 < a * 10
  · rw [if_pos (hcross.2 h), if_pos h]
    rfl
  · rw [if_neg (mt hcross.1 h), if_neg h]

/-- The limit that a Sector Table gives (R37). -/
def limitOf (table : List SectorEntry) : Nat := (128 - table.countP (fun e => e.state == .retired) - 4) * 28672

theorem State.admissionLimit_usable (s : State) : admissionLimit s.usable = limitOf s.sm.table := rfl

theorem State.evalLimit_eq (s : State) : s.evalLimit = { s with
    dir := { s.dir with limit := limitOf s.sm.table }
    link := { s.link with notices := limitNotices s.dir s.dev.state (limitOf s.sm.table) s.link.notices }
    dev := { s.dev with state := limitDevice s.dir s.dev.state (limitOf s.sm.table) } } := by
  rw [State.evalLimit, limitNotices, limitDevice]
  simp only [State.crossMark_eq, State.toReadOnly_eq, State.admissionLimit_usable]
  by_cases hover : limitOf s.sm.table < s.dir.admitted
  · by_cases hstate : s.dev.state = .online ∨ s.dev.state = .draining
    · simp only [hover, hstate, and_self, if_true]
    · simp only [hover, hstate, and_false, if_true, if_false]
  · simp only [hover, false_and, if_false]

/-! ## The outcomes (R129, R130) -/

/-- The batch without a sector, finished when that was its last (R128 to R130). -/
def EraseBatch.without (b : EraseBatch) (sector : Nat) : EraseBatch :=
  { b with
    members := b.members.filter (fun n => n != sector)
    running := b.running && !(b.members.filter (fun n => n != sector)).isEmpty }

/-- The Sector Table with a sector RETIRED (R130). -/
def retiredTable (table : List SectorEntry) (sector : Nat) : List SectorEntry :=
  table.modify sector (fun e => { e with state := .retired, live := 0, dead := 0 })

/-- The state after a failed erase has ended: this Sector Table, Directory, notices and device state (R37, R130). -/
def State.withRetirement (s : State) (table : List SectorEntry) (d : Directory) (notices : List NoticeKind)
    (st : DeviceState) : State :=
  { s with
    arr := { s.arr with erase := none }
    sm := { s.sm with table := table, wearDue := true }
    dir := d
    link := { s.link with notices := notices }
    dev := { s.dev with state := st } }

/-- The notices that a failed erase of a sector brings (R37, R38, R130). -/
def State.retiredNotices (s : State) (sector : Nat) : List NoticeKind :=
  limitNotices s.dir s.dev.state (limitOf (retiredTable s.sm.table sector)) (joinNotice .sectorRetired s.link.notices)

/-- The state after a failed erase has retired its sector, its batch or FORMAT not yet told (R37, R130). -/
def State.withRetired (s : State) (sector : Nat) : State :=
  s.withRetirement (retiredTable s.sm.table sector) { s.dir with limit := limitOf (retiredTable s.sm.table sector) }
    (s.retiredNotices sector) (limitDevice s.dir s.dev.state (limitOf (retiredTable s.sm.table sector)))

/-- The state in which a failed erase has retired its sector, the limit not yet evaluated (R130). -/
def State.markedRetired (s : State) (sector : Nat) : State :=
  { s with
    arr := { s.arr with erase := none }
    sm := { s.sm with table := retiredTable s.sm.table sector }
    link := { s.link with notices := joinNotice .sectorRetired s.link.notices } }

theorem State.retireSector_eq (r : EraseReq) :
    (s.modArray (fun a => { a with erase := none })).retireSector r = s.withRetired r.sector := by
  have hlimit := congrArg State.dueWear (s.markedRetired r.sector).evalLimit_eq
  exact hlimit.trans rfl

theorem State.leaveBatch_withRetirement (s : State) (table : List SectorEntry) (d : Directory) (notices : List NoticeKind)
    (st : DeviceState) (sector : Nat) : (s.withRetirement table d notices st).leaveBatch sector
      = State.withRetirement { s with sm := { s.sm with batch := s.sm.batch.without sector } } table d notices st := rfl

/-- A batch's erase that failed (R130). -/
theorem State.eraseEnds_failed {r : EraseReq} (h : r.forFormat = false) :
    s.eraseEnds r .failed = State.withRetirement { s with sm := { s.sm with batch := s.sm.batch.without r.sector } }
      (retiredTable s.sm.table r.sector) { s.dir with limit := limitOf (retiredTable s.sm.table r.sector) }
      (s.retiredNotices r.sector) (limitDevice s.dir s.dev.state (limitOf (retiredTable s.sm.table r.sector))) := by
  have hleaves : s.eraseEnds r .failed
      = ((s.modArray (fun a => { a with erase := none })).retireSector r).leaveBatch r.sector := by
    rw [State.eraseEnds, h]
    exact if_neg Bool.false_ne_true
  rw [hleaves, State.retireSector_eq, State.withRetired, State.leaveBatch_withRetirement]

/-- A batch's erase that ended DONE (R129). -/
theorem State.eraseEnds_done {r : EraseReq} (h : r.forFormat = false) : s.eraseEnds r .done = { s with
    arr := { s.arr with erase := none }
    sm := { s.sm with
      table := s.sm.table.modify r.sector (fun e => e.afterErase r.count)
      wearDue := true
      batch := s.sm.batch.without r.sector } } := by
  simp only [State.eraseEnds, h, Bool.false_eq_true, if_false]
  rfl

/-! ## The commands that fail an erase -/

/-- The five ways an erase fails (R100, R110). -/
def State.failsErase (s : State) (c : Instr) (r : EraseRun) : Prop :=
  (c = .eraseTimeout ∧ r.phase = .pulse)
    ∨ (c = .blankCheckComplete ∧ r.phase = .blankCheck
        ∧ ∃ i, i < 4096 ∧ s.flash.word r.req.sector i ≠ { data := BitVec.allOnes 64, ecc := .clean })
    ∨ (c = .eraseWordProgramComplete false ∧ r.phase = .header)
    ∨ (c = .eraseWordProgramComplete true ∧ r.phase = .header ∧ (s.flash.word r.req.sector 0).isBlank = false)
    ∨ (c = .wordProgramTimeout ∧ r.phase = .header ∧ s.arr.op = none)

section Fails
variable {r : EraseRun} {c : Instr}

theorem State.eraseIn_some {p : ErasePhase} (herase : s.arr.erase = some r) (hphase : r.phase = p) :
    s.eraseIn p = some r.req := by
  simp only [State.eraseIn, herase]
  exact if_pos hphase

theorem RawWord.isBlank_iff {w : RawWord} : w.isBlank = true ↔ w = { data := BitVec.allOnes 64, ecc := .clean } :=
  beq_iff_eq

theorem Flash.allBlank_iff {f : Flash} {sector : Nat} : f.allBlank sector = true
    ↔ ∀ i, i < 4096 → f.word sector i = { data := BitVec.allOnes 64, ecc := .clean } := by
  rw [Flash.allBlank, List.all_eq_true]
  simp only [List.mem_range, Config.sectorWords, RawWord.isBlank_iff]

/-- The erase word's program, verified or not, as the end of its erase (R110). -/
theorem State.endHeader_eq (req : EraseReq) (verified : Bool) (s : State) : s.endHeader req verified
    = (s.withArray (programIn req.sector 0 (eraseWord req.epoch req.count) .eraseWord verified (s.flash, s.seeds))).eraseEnds
        req (if (verified && (s.flash.word req.sector 0).isBlank) = true then .done else .failed) := by
  rw [State.endHeader, State.programWord_eq]

/-- What an unverified or refused erase word leaves of the array (R100, R110). -/
theorem State.eraseFails_header {verified : Bool} (hsector : r.req.sector < 128)
    (hends : verified = true → (s.flash.word r.req.sector 0).isBlank = false)
    (hpulse : c ≠ .eraseTimeout) (hcheck : c ≠ .blankCheckComplete) :
    s.eraseFails c r.req.sector
      (s.withArray (programIn r.req.sector 0 (eraseWord r.req.epoch r.req.count) .eraseWord verified (s.flash, s.seeds))) := by
  have hexists : wordExists r.req.sector 0 = true := decide_eq_true ⟨hsector, by decide⟩
  refine ⟨fun h => (h.elim hpulse hcheck).elim, fun n i _ hi hne => programIn_other hi hne, fun hwritten => ?_, fun hnone => ?_⟩
  · exact congrArg (fun p : Flash × Nat => p.1.word r.req.sector 0) (programIn_written (p := (s.flash, s.seeds)) hwritten)
  · cases verified with
    | false => exact programIn_failed hexists hnone
    | true =>
      refine (congrArg (fun p : Flash × Nat => (p.1.word r.req.sector 0).erase?)
        (programIn_written (p := (s.flash, s.seeds)) (hends rfl))).trans hnone

/-- An erase that fails: the array first, then the outcome. -/
theorem exec_failsErase (hheld : s.held = false) (herase : s.arr.erase = some r) (hsector : r.req.sector < 128)
    (h : s.failsErase c r) : ∃ p, exec c s = .next ((s.withArray p).eraseEnds r.req .failed).settle
      ∧ s.eraseFails c r.req.sector (s.withArray p) := by
  have hnot : ¬ s.held = true := by rw [hheld]; exact Bool.false_ne_true
  have hsame : s.eraseFails c r.req.sector (s.withArray (s.flash, s.seeds)) :=
    ⟨fun _ => ⟨rfl, rfl⟩, fun _ _ _ _ _ => rfl, fun _ => rfl, id⟩
  have hheader : ∀ verified, (verified && (s.flash.word r.req.sector 0).isBlank) = false → s.endHeader r.req verified
      = (s.withArray (programIn r.req.sector 0 (eraseWord r.req.epoch r.req.count) .eraseWord verified
          (s.flash, s.seeds))).eraseEnds r.req .failed := fun verified hfails => by
    rw [State.endHeader_eq, hfails]
    rfl
  rcases h with ⟨rfl, hphase⟩ | ⟨rfl, hphase, i, hi, hword⟩ | ⟨rfl, hphase⟩ | ⟨rfl, hphase, hword⟩ | ⟨rfl, hphase, hop⟩
  · refine ⟨_, congrArg Host.Outcome.next ((if_neg hnot).trans ?_), hsame⟩
    simp only [State.eraseIn_some herase hphase]
    rfl
  · refine ⟨_, congrArg Host.Outcome.next ((if_neg hnot).trans ?_), hsame⟩
    simp only [State.eraseIn_some herase hphase]
    exact if_neg fun hblank => hword (Flash.allBlank_iff.1 hblank i hi)
  · refine ⟨_, (if_neg hnot).trans ?_, State.eraseFails_header hsector (fun h => absurd h Bool.false_ne_true) (by simp) (by simp)⟩
    simp only [State.eraseIn_some herase hphase]
    rw [← hheader false rfl]
    exact if_pos hsector
  · refine ⟨_, (if_neg hnot).trans ?_, State.eraseFails_header (verified := true) hsector (fun _ => hword) (by simp) (by simp)⟩
    simp only [State.eraseIn_some herase hphase]
    rw [← hheader true hword]
    exact if_pos hsector
  · refine ⟨_, (if_neg hnot).trans ?_, State.eraseFails_header hsector (fun h => absurd h Bool.false_ne_true) (by simp) (by simp)⟩
    simp only [State.eraseIn_some herase hphase, hop]
    rw [← hheader false rfl]
    exact if_pos hsector

end Fails

/-- What a failed erase of the batch leaves of each block (R130). -/
theorem State.withRetirement_effect {c : Instr} {p : Flash × Nat} {sector : Nat} {table : List SectorEntry} {d : Directory}
    {notices : List NoticeKind} {st : DeviceState}
    (hexec : exec c s = .next (State.withRetirement { s.withArray p with sm := { s.sm with batch := s.sm.batch.without sector } }
      table d notices st).settle) (hfails : s.eraseFails c sector (s.withArray p)) :
    ∃ u : State, exec c s = .next u.settle
      ∧ u.arr = { s.arr with erase := none } ∧ s.eraseFails c sector u
      ∧ u.sm = { s.sm with table := table, wearDue := true, batch := s.sm.batch.without sector }
      ∧ u.link = { s.link with notices := notices } ∧ u.dir = d ∧ u.dev = { s.dev with state := st }
      ∧ { u with link := s.link, dir := s.dir, arr := s.arr, sm := s.sm, dev := s.dev, flash := s.flash, seeds := s.seeds } = s :=
  ⟨_, hexec, rfl, hfails, rfl, rfl, rfl, rfl, rfl⟩

/-- Settles O51: the five ways to fail end in one retirement, whose limit `evalLimit_eq` says. -/
theorem eraseRetires : Obligations.EraseRetires := by
  intro s c r hheld herase hsector hbatch h
  obtain ⟨p, hexec, hfails⟩ := exec_failsErase hheld herase hsector h
  rw [State.eraseEnds_failed hbatch] at hexec
  exact State.withRetirement_effect hexec hfails

/-- The command that ends an erase DONE (R110, R129). -/
theorem exec_eraseDone {r : EraseRun} (hheld : s.held = false) (herase : s.arr.erase = some r) (hphase : r.phase = .header)
    (hsector : r.req.sector < 128) (hcount : r.req.count ≤ 16777215) (hblank : (s.flash.word r.req.sector 0).isBlank = true) :
    ∃ p : Flash × Nat, exec (.eraseWordProgramComplete true) s = .next ((s.withArray p).eraseEnds r.req .done).settle
      ∧ (p.1.word r.req.sector 0).erase? = some (r.req.epoch, r.req.count)
      ∧ (∀ sector i, sector < 128 → i < 4096 → (sector ≠ r.req.sector ∨ i ≠ 0) →
          p.1.word sector i = s.flash.word sector i)
      ∧ p.2 = s.seeds := by
  have hnot : ¬ s.held = true := by rw [hheld]; exact Bool.false_ne_true
  have hexists : wordExists r.req.sector 0 = true := decide_eq_true ⟨hsector, by decide⟩
  refine ⟨programIn r.req.sector 0 (eraseWord r.req.epoch r.req.count) .eraseWord true (s.flash, s.seeds),
    (if_neg hnot).trans ?_, ?_, fun sector i _ hi hne => programIn_other hi hne, ?_⟩
  · simp only [State.eraseIn_some herase hphase]
    refine (if_pos hsector).trans ?_
    rw [State.endHeader_eq, hblank]
    rfl
  · rw [programIn_verified hexists hblank]
    exact decodeEraseWord_eq_some.2 ⟨hcount, rfl⟩
  · rw [programIn, if_pos hblank]
    rfl

/-- Settles O52: the erase word is the only word that changed, and `eraseEnds_done` is the rest. -/
theorem eraseDone : Obligations.EraseDone := by
  intro s r hheld herase hphase hsector hbatch hcount hblank
  obtain ⟨p, hexec, hword, hother, hseeds⟩ := exec_eraseDone hheld herase hphase hsector hcount hblank
  refine ⟨_, hexec, ?_⟩
  rw [State.eraseEnds_done hbatch]
  refine ⟨hword, hother, rfl, rfl, ?_⟩
  simp only [State.withArray, hseeds]

end Sys2Proof.Machine
end

section
/-! PROOFS. The supply condition, and the erases of a FORMAT (R112, R130, R146, R147, R152, R154, R156, R157). -/

namespace Sys2Proof.Machine

variable {s : State}

/-! ## An erase is abandoned (R112, R130, R154) -/

section Abandons
variable {r : EraseReq}

/-- A batch's erase that was abandoned (R130). -/
theorem State.eraseEnds_abandoned (h : r.forFormat = false) : s.eraseEnds r .abandoned = { s with
    arr := { s.arr with erase := none }
    sm := { s.sm with
      table := s.sm.table.modify r.sector (fun e => { e with state := .stale, live := 0, dead := 0, dirty := true })
      staleOrder := if s.storeActive then s.sm.staleOrder ++ [r.sector] else s.sm.staleOrder
      batch := s.sm.batch.without r.sector } } := by
  simp only [State.eraseEnds, State.eraseAbandoned, h, Bool.false_eq_true, if_false]
  by_cases hactive : s.storeActive = true
  · rw [if_pos hactive]
    exact congrArg (State.leaveBatch r.sector) (if_pos hactive)
  · rw [if_neg hactive]
    exact congrArg (State.leaveBatch r.sector) (if_neg hactive)

/-- A FORMAT's erase that was abandoned: its sector stays first in the format list (R130, R147). -/
theorem State.eraseEnds_abandoned_format (h : r.forFormat = true) : s.eraseEnds r .abandoned = { s with
    arr := { s.arr with erase := none }
    sm := { s.sm with table := s.sm.table.modify r.sector (fun e => { e with dirty := true }) } } := by
  simp only [State.eraseEnds, State.eraseAbandoned, h, if_true]
  rfl

end Abandons

theorem State.abandonErase_ends {r : EraseRun} (herase : s.arr.erase = some r) (hphase : r.phase ≠ .header) :
    s.abandonErase = (s.wreckSector r.req.sector).eraseEnds r.req .abandoned := by
  simp only [State.abandonErase, herase]
  cases h : r.phase with
  | header => exact absurd h hphase
  | pulse | suspended | blankCheck | checked => rfl

theorem State.abandonErase_rests (h : ∀ r, s.arr.erase = some r → r.phase = .header) : s.abandonErase = s := by
  rw [State.abandonErase]
  cases herase : s.arr.erase with
  | none => rfl
  | some r => simp only [h r herase]

/-! ## HOLD is entered (R154, R157) -/

/-- The state that has just found HOLD, its erase and its hold timer still to come (R154). -/
def State.inHold (s : State) : State :=
  { s with
    sup := { s.sup with condition := .hold, qualifying := false }
    link := { s.link with notices := joinNotice .supply s.link.notices } }

/-- The hold timer starts in HOLD exactly when something is queued (R157). -/
theorem State.startHoldTimer_hold (h : s.sup.condition = .hold) : s.startHoldTimer
    = { s with sup := { s.sup with holdTimer := s.sup.holdTimer || !s.wq.entries.isEmpty } } := by
  have hdecide : decide (s.sup.condition = .hold ∧ s.wq.entries ≠ []) = !s.wq.entries.isEmpty := by
    rw [Bool.eq_iff_iff]
    simp [h]
  rw [State.startHoldTimer_eq, hdecide]

theorem State.enterHold_eq (s : State) : s.enterHold = s.inHold.abandonErase.startHoldTimer := rfl

theorem exec_supplyBelowHold (hheld : s.held = false) (hnormal : s.sup.condition = .normal) :
    exec .supplyBelowHold s = .next s.enterHold.settle := by
  refine congrArg Host.Outcome.next ((if_neg (by rw [hheld]; exact Bool.false_ne_true)).trans ?_)
  rw [hnormal]

theorem exec_supplyBelowHold_hold (hheld : s.held = false) (hhold : s.sup.condition = .hold) :
    exec .supplyBelowHold s = .next { s with sup := { s.sup with qualifying := false } } := by
  refine congrArg Host.Outcome.next ((if_neg (by rw [hheld]; exact Bool.false_ne_true)).trans ?_)
  rw [hhold]
  rfl

theorem State.enterHold_rests (h : ∀ r, s.arr.erase = some r → r.phase = .header) : s.enterHold = { s with
    sup := { s.sup with condition := .hold, qualifying := false, holdTimer := s.sup.holdTimer || !s.wq.entries.isEmpty }
    link := { s.link with notices := joinNotice .supply s.link.notices } } := by
  rw [State.enterHold_eq, State.abandonErase_rests (s := s.inHold) h, State.startHoldTimer_hold rfl]
  rfl

section Entered
variable {r : EraseRun}

theorem State.enterHold_batch (herase : s.arr.erase = some r) (hphase : r.phase ≠ .header) (hbatch : r.req.forFormat = false) :
    s.enterHold = { s with
      sup := { s.sup with condition := .hold, qualifying := false, holdTimer := s.sup.holdTimer || !s.wq.entries.isEmpty }
      link := { s.link with notices := joinNotice .supply s.link.notices }
      arr := { s.arr with erase := none }
      flash := s.flash.wreck r.req.sector s.seeds
      seeds := s.seeds + 1
      sm := { s.sm with
        table := s.sm.table.modify r.req.sector (fun e => { e with state := .stale, live := 0, dead := 0, dirty := true })
        staleOrder := if s.storeActive then s.sm.staleOrder ++ [r.req.sector] else s.sm.staleOrder
        batch := s.sm.batch.without r.req.sector } } := by
  rw [State.enterHold_eq, State.abandonErase_ends (s := s.inHold) herase hphase, State.eraseEnds_abandoned hbatch,
    State.startHoldTimer_hold rfl]
  rfl

theorem State.enterHold_format (herase : s.arr.erase = some r) (hphase : r.phase ≠ .header) (hformat : r.req.forFormat = true) :
    s.enterHold = { s with
      sup := { s.sup with condition := .hold, qualifying := false, holdTimer := s.sup.holdTimer || !s.wq.entries.isEmpty }
      link := { s.link with notices := joinNotice .supply s.link.notices }
      arr := { s.arr with erase := none }
      flash := s.flash.wreck r.req.sector s.seeds
      seeds := s.seeds + 1
      sm := { s.sm with table := s.sm.table.modify r.req.sector (fun e => { e with dirty := true }) } } := by
  rw [State.enterHold_eq, State.abandonErase_ends (s := s.inHold) herase hphase, State.eraseEnds_abandoned_format hformat,
    State.startHoldTimer_hold rfl]
  rfl

end Entered

theorem not_powerOnReset (hheld : s.held = false) : s.sup.powerOnReset = false :=
  (Bool.or_eq_false_iff.1 hheld).1

theorem exec_supplyAboveNormal_rests (h : ¬ (s.sup.condition = .hold ∧ s.sup.powerOnReset = false)) :
    exec .supplyAboveNormal s = .next s := congrArg Host.Outcome.next (if_neg h)

theorem exec_qualificationTimer_rests (h : ¬ (s.sup.qualifying = true ∧ s.sup.condition = .hold)) :
    exec .qualificationTimerExpiry s = .next s := congrArg Host.Outcome.next (if_neg h)

/-- Settles O54: HOLD is entered with or without an erase to abandon; the timers follow the condition. -/
theorem supplyConditions : Obligations.SupplyConditions := by
  refine ⟨fun s hheld => ⟨fun hnormal => ?_, fun hhold => ⟨exec_supplyBelowHold_hold hheld hhold, ?_, rfl⟩, fun hnormal => ?_,
    fun hhold hqualifying => ?_, fun hnot => ?_⟩, fun s hheld => ⟨congrArg Host.Outcome.next (if_pos hheld), rfl, ?_, ?_⟩⟩
  · refine ⟨s.enterHold, exec_supplyBelowHold hheld hnormal, ?_⟩
    by_cases hrests : ∀ r, s.arr.erase = some r → r.phase = .header
    · rw [State.enterHold_rests hrests]
      exact ⟨rfl, rfl, fun _ => rfl, fun r herase hphase => absurd (hrests r herase) hphase⟩
    · simp only [Classical.not_forall] at hrests
      obtain ⟨r, herase, hphase⟩ := hrests
      cases hformat : r.req.forFormat with
      | true =>
        rw [State.enterHold_format herase hphase hformat]
        refine ⟨rfl, rfl, fun hall => absurd (hall r herase) hphase, fun q hq _ hbatch => ?_⟩
        obtain rfl := Option.some.inj (herase.symm.trans hq)
        exact absurd (hbatch.symm.trans hformat) Bool.false_ne_true
      | false =>
        rw [State.enterHold_batch herase hphase hformat]
        refine ⟨rfl, rfl, fun hall => absurd (hall r herase) hphase, fun q hq _ _ => ?_⟩
        obtain rfl := Option.some.inj (herase.symm.trans hq)
        exact ⟨rfl, rfl, rfl, rfl⟩
  · exact congrArg Host.Outcome.next (if_pos ⟨hhold, not_powerOnReset hheld⟩)
  · exact exec_supplyAboveNormal_rests fun h => by rw [hnormal] at h; exact absurd h.1 (by decide)
  · refine congrArg Host.Outcome.next ((if_pos ⟨hqualifying, hhold⟩).trans (if_neg ?_))
    rw [hheld]
    exact Bool.false_ne_true
  · exact exec_qualificationTimer_rests fun h => Bool.false_ne_true (hnot.symm.trans h.1)
  · exact congrArg Host.Outcome.next rfl
  · by_cases h : s.sup.condition = .hold ∧ s.sup.qualifying = true
    · rw [if_pos h]
      exact congrArg Host.Outcome.next ((if_pos h.symm).trans (if_pos hheld))
    · rw [if_neg h]
      exact exec_qualificationTimer_rests fun hswap => h hswap.symm

/-! ## The erases of a FORMAT (R147) -/

section Format
variable {f : FormatRun}

/-- A FORMAT's next erase is requested as soon as none of its own is under way (R147). -/
theorem State.requestErase_format {n : Nat} {rest : List Nat} (hformat : s.sm.format = some f) (hlist : f.list = n :: rest)
    (hreq : s.arr.eraseReq = none) (hnone : ∀ r, s.arr.erase = some r → r.req.forFormat = false) :
    s.requestErase = s.askErase n true := by
  have hany : s.arr.erase.any (fun r => r.req.forFormat) = false := by
    cases herase : s.arr.erase with
    | none => rfl
    | some r => exact hnone r herase
  have hcurrent : s.formatCurrent = some n := by
    simp only [State.formatCurrent, hformat, hany, hlist]
    rfl
  rw [State.requestErase, hreq, hcurrent]
  rfl

/-- While an erase of the FORMAT is under way, no erase is requested: neither its next, nor one of the batch (R147). -/
theorem State.requestErase_formatWaits {r : EraseRun} (hformat : s.sm.format = some f) (hreq : s.arr.eraseReq = none)
    (herase : s.arr.erase = some r) (hfor : r.req.forFormat = true) : s.requestErase = s := by
  have hcurrent : s.formatCurrent = none := by
    simp only [State.formatCurrent, hformat, herase, Option.any_some, hfor, if_true]
  have hbatch : s.batchCurrent = none := if_neg fun h => by
    have hnone := h.2.2
    rw [herase] at hnone
    cases hnone
  rw [State.requestErase, hreq, hcurrent, hbatch]
  rfl

/-- The low-space latch as it is evaluated (R118). -/
def State.latchNow (s : State) : Bool :=
  if 6 ≤ s.count .erased + s.count .stale + s.count .erasing then false
  else if s.count .erased ≤ 4 then true
  else s.sm.lowSpace

/-- The state of a FORMAT that completes, its reply still to come: with this latch, Directory, notices and device state
(R118, R147). -/
def State.formatDone (s : State) (latch : Bool) (numbers : Nat × Nat × Nat) (d : Directory) (notices : List NoticeKind)
    (st : DeviceState) : State :=
  { s with
    sm := { s.sm with format := none, lowSpace := latch, latchFor := numbers }
    dir := d
    link := { s.link with notices := notices }
    dev := { s.dev with state := st } }

/-- The state of a FORMAT that completes, its reply still to come (R37, R118, R147). -/
def State.withFormatted (s : State) : State :=
  s.formatDone s.latchNow s.latchNumbers { s.dir with limit := limitOf s.sm.table }
    (joinNotice .state (limitNotices s.dir .formatting (limitOf s.sm.table) s.link.notices))
    (if 8 ≤ s.usable then .online else .readOnly)

/-- The state after an erase of a FORMAT has ended, its sector still on the list (R129, R130). -/
def State.formatErased (s : State) (p : Flash × Nat) (table : List SectorEntry) (d : Directory) (notices : List NoticeKind) :
    State :=
  { s with
    arr := { s.arr with erase := none }
    flash := p.1
    seeds := p.2
    sm := { s.sm with table := table, wearDue := true }
    dir := d
    link := { s.link with notices := notices } }

theorem limitDevice_formatting (d : Directory) (limit : Nat) : limitDevice d .formatting limit = .formatting := by
  rw [limitDevice]
  exact if_neg fun hfalls => hfalls.2.elim (by decide) (by decide)

theorem limitNotices_formatting (d : Directory) (limit : Nat) (told : List NoticeKind) : limitNotices d .formatting limit told
    = if d.admitted * 10 ≤ d.limit * 9 ∧ limit * 9 < d.admitted * 10 then joinNotice .spaceLow told else told := by
  rw [limitNotices]
  exact if_neg fun hfalls => hfalls.2.elim (by decide) (by decide)

/-- A limit that does not change marks nothing (R38). -/
theorem limitNotices_same (d : Directory) (told : List NoticeKind) : limitNotices d .formatting d.limit told = told := by
  rw [limitNotices_formatting]
  exact if_neg fun hcross => absurd hcross.1 (Nat.not_le.2 hcross.2)

theorem State.formatDone_count (latch : Bool) (numbers : Nat × Nat × Nat) (d : Directory) (notices : List NoticeKind)
    (st : DeviceState) (k : SectorState) : (s.formatDone latch numbers d notices st).count k = s.count k := rfl

theorem State.usable_limited (d : Directory) (notices : List NoticeKind) (st : DeviceState) :
    State.usable { s with dir := d, link := { s.link with notices := notices }, dev := { s.dev with state := st } } = s.usable := rfl

/-- The device state and the latch of a FORMAT that completes (R118, R147). -/
theorem State.judgeLatch_formatDone {d : Directory} {notices : List NoticeKind} {st st' : DeviceState} (hne : st ≠ st')
    (hactive : st' = .online ∨ st' = .readOnly) : (State.setDevice st' { s with
      sm := { s.sm with format := none }
      dir := d
      link := { s.link with notices := notices }
      dev := { s.dev with state := st } }).judgeLatch
    = s.formatDone s.latchNow s.latchNumbers d (joinNotice .state notices) st' := by
  rw [State.setDevice_ne hne, State.judgeLatch, if_pos (.inl (State.storeActive_iff.2 (hactive.imp_right .inl)))]
  rfl

theorem State.formatComplete_eq (h : s.dev.state = .formatting) (tag : Byte) : s.formatComplete tag
    = s.withFormatted.answer tag .ok (le 1 (s.count .erased) ++ le 1 (s.count .retired)) := by
  have husable : (s.modManager (fun m => { m with format := none })).evalLimit.usable = s.usable := by
    rw [State.evalLimit_eq, State.usable_limited]
    rfl
  have hdone : (State.setDevice
      (if Config.formatUsable ≤ (s.modManager (fun m => { m with format := none })).evalLimit.usable then .online else .readOnly)
      (s.modManager (fun m => { m with format := none })).evalLimit).judgeLatch = s.withFormatted := by
    rw [husable]
    have hchosen : (if 8 ≤ s.usable then DeviceState.online else .readOnly) = .online
        ∨ (if 8 ≤ s.usable then DeviceState.online else .readOnly) = .readOnly := by
      split
      · exact .inl rfl
      · exact .inr rfl
    have hne : DeviceState.formatting ≠ if 8 ≤ s.usable then .online else .readOnly := fun heq => by
      rw [← heq] at hchosen
      exact hchosen.elim (by decide) (by decide)
    have heval := State.evalLimit_eq (s.modManager (fun m => { m with format := none }))
    have hdevice : (s.modManager (fun m => { m with format := none })).dev.state = .formatting := h
    rw [hdevice, limitDevice_formatting] at heval
    rw [heval]
    exact State.judgeLatch_formatDone hne hchosen
  have hcounts : ∀ u : State, u = s.withFormatted → u.answer tag .ok (le 1 (u.count .erased) ++ le 1 (u.count .retired))
      = s.withFormatted.answer tag .ok (le 1 (s.count .erased) ++ le 1 (s.count .retired)) := fun u hu => by
    rw [hu, State.withFormatted, State.formatDone_count, State.formatDone_count]
  exact hcounts _ hdone

theorem State.formatNext_goesOn (hformat : s.sm.format = some f) (hrest : f.list.drop 1 ≠ []) :
    s.formatNext = { s with sm := { s.sm with format := some { f with list := f.list.drop 1 } } } := by
  simp only [State.formatNext, hformat]
  cases hlist : f.list.drop 1 with
  | nil => exact absurd hlist hrest
  | cons n rest => rfl

theorem State.formatNext_last (hformat : s.sm.format = some f) (hlast : f.list.drop 1 = []) :
    s.formatNext = s.formatComplete f.tag := by
  simp only [State.formatNext, hformat, hlast]

/-- The completed FORMAT's one reply (R147). -/
theorem State.repliedAll_formatDone {p : Flash × Nat} {table : List SectorEntry} {d d' : Directory} {notices notices' : List NoticeKind}
    {latch : Bool} {numbers : Nat × Nat × Nat} {st : DeviceState} {u v : State} (hu : u = s.formatErased p table d notices)
    (hv : v = u.formatDone latch numbers d' notices' st) (tag : Byte) (fields : List Byte) :
    s.repliedAll [(tag, 0 :: fields)] (v.answer tag .ok fields) :=
  State.repliedAll_answer (by rw [hv, hu]; rfl) (by rw [hv, hu]; rfl) tag .ok fields

theorem State.formatDone_frame {p : Flash × Nat} {table : List SectorEntry} {d d' : Directory} {notices notices' : List NoticeKind}
    {latch : Bool} {numbers : Nat × Nat × Nat} {st : DeviceState} :
    { (s.formatErased p table d notices).formatDone latch numbers d' notices' st with
      sm := s.sm, arr := s.arr, flash := s.flash, seeds := s.seeds, dir := s.dir, dev := s.dev, link := s.link
      req := s.req } = s := by
  cases s
  rfl

/-- What the last erase of a FORMAT leaves of each block (R147). -/
theorem State.formatNext_completes {p : Flash × Nat} {table : List SectorEntry} {d : Directory} {notices : List NoticeKind}
    {u : State} (hformat : s.sm.format = some f) (hlast : f.list.drop 1 = []) (hstate : s.dev.state = .formatting)
    (hu : u = s.formatErased p table d notices) :
    u.formatNext.arr = { s.arr with erase := none } ∧ u.formatNext.flash = p.1 ∧ u.formatNext.seeds = p.2
      ∧ u.formatNext.sm = { s.sm with
          table := table, wearDue := true, format := none, lowSpace := u.latchNow, latchFor := u.latchNumbers }
      ∧ u.formatNext.dir = { d with limit := limitOf table }
      ∧ u.formatNext.dev = { s.dev with state := if 8 ≤ u.usable then .online else .readOnly }
      ∧ u.formatNext.link.notices = joinNotice .state (limitNotices d .formatting (limitOf table) notices)
      ∧ s.repliedAll [(f.tag, [0, BitVec.ofNat 8 (u.count .erased), BitVec.ofNat 8 (u.count .retired)])] u.formatNext
      ∧ { u.formatNext with
          sm := s.sm, arr := s.arr, flash := s.flash, seeds := s.seeds, dir := s.dir, dev := s.dev, link := s.link
          req := s.req } = s := by
  have hcompletes : u.formatNext = u.withFormatted.answer f.tag .ok (le 1 (u.count .erased) ++ le 1 (u.count .retired)) := by
    have hformat' : u.sm.format = some f := by rw [hu]; exact hformat
    have hstate' : u.dev.state = .formatting := by rw [hu]; exact hstate
    rw [State.formatNext_last hformat' hlast, State.formatComplete_eq hstate']
  obtain ⟨hnotices, hframe⟩ := State.answer_tableOnly u.withFormatted f.tag .ok (le 1 (u.count .erased) ++ le 1 (u.count .retired))
  have hdone : u.withFormatted = u.formatDone u.latchNow u.latchNumbers { d with limit := limitOf table }
      (joinNotice .state (limitNotices d .formatting (limitOf table) notices)) (if 8 ≤ u.usable then .online else .readOnly) := by
    rw [hu]
    rfl
  have hreplied : s.repliedAll [(f.tag, [0, BitVec.ofNat 8 (u.count .erased), BitVec.ofNat 8 (u.count .retired)])]
      (u.withFormatted.answer f.tag .ok (le 1 (u.count .erased) ++ le 1 (u.count .retired))) :=
    State.repliedAll_formatDone hu hdone f.tag _
  rw [← hcompletes] at hnotices hframe hreplied
  generalize u.formatNext = v at hnotices hframe hreplied ⊢
  rw [hdone] at hnotices hframe
  generalize hlatch : u.latchNow = latch at hnotices hframe ⊢
  generalize hnumbers : u.latchNumbers = numbers at hnotices hframe ⊢
  generalize { d with limit := limitOf table } = d' at hnotices hframe ⊢
  generalize joinNotice .state (limitNotices d .formatting (limitOf table) notices) = notices' at hnotices hframe ⊢
  generalize (if 8 ≤ u.usable then DeviceState.online else .readOnly) = st' at hnotices hframe ⊢
  refine ⟨(congrArg State.arr hframe).trans ?_, (congrArg State.flash hframe).trans ?_, (congrArg State.seeds hframe).trans ?_,
    (congrArg State.sm hframe).trans ?_, congrArg State.dir hframe, (congrArg State.dev hframe).trans ?_, hnotices, hreplied, ?_⟩
  · rw [hu]; rfl
  · rw [hu]; rfl
  · rw [hu]; rfl
  · rw [hu]; rfl
  · rw [hu]; rfl
  · refine (congrArg (fun w : State => { w with
      sm := s.sm, arr := s.arr, flash := s.flash, seeds := s.seeds, dir := s.dir, dev := s.dev, link := s.link
      req := s.req }) hframe).trans ?_
    rw [hu]
    exact State.formatDone_frame

/-- A FORMAT's erase that ended DONE (R129, R147). -/
theorem State.eraseEnds_done_format {r : EraseReq} (h : r.forFormat = true) : s.eraseEnds r .done
    = State.formatNext { s with
        arr := { s.arr with erase := none }
        sm := { s.sm with table := s.sm.table.modify r.sector (fun e => e.afterErase r.count), wearDue := true } } := by
  simp only [State.eraseEnds, h, if_true]
  rfl

/-- A FORMAT's erase that failed (R130, R147). -/
theorem State.eraseEnds_failed_format {r : EraseReq} (h : r.forFormat = true) :
    s.eraseEnds r .failed = (s.withRetired r.sector).formatNext := by
  simp only [State.eraseEnds, h, if_true, State.retireSector_eq]
  rfl

theorem State.withRetirement_formatErased (p : Flash × Nat) (table : List SectorEntry) (d : Directory) (notices : List NoticeKind) :
    (s.withArray p).withRetirement table d notices s.dev.state = s.formatErased p table d notices := rfl

/-- While FORMATTING, a retirement changes the limit and may mark SPACE_LOW, but keeps the device state (R37, R38, R146). -/
theorem State.withRetired_formatErased (hstate : s.dev.state = .formatting) (p : Flash × Nat) (sector : Nat) :
    (s.withArray p).withRetired sector = s.formatErased p (retiredTable s.sm.table sector)
      { s.dir with limit := limitOf (retiredTable s.sm.table sector) }
      (limitNotices s.dir .formatting (limitOf (retiredTable s.sm.table sector)) (joinNotice .sectorRetired s.link.notices)) := by
  have hnotices : (s.withArray p).retiredNotices sector = limitNotices s.dir s.dev.state
      (limitOf (retiredTable s.sm.table sector)) (joinNotice .sectorRetired s.link.notices) := rfl
  have hdevice : limitDevice (s.withArray p).dir (s.withArray p).dev.state (limitOf (retiredTable (s.withArray p).sm.table sector))
      = s.dev.state := by
    refine Eq.trans ?_ hstate.symm
    exact (congrArg (fun st => limitDevice s.dir st _) hstate).trans (limitDevice_formatting _ _)
  rw [State.withRetired, hnotices, hdevice, hstate, ← State.withRetirement_formatErased, hstate]
  rfl

end Format

/-- Settles O36: an erase of the FORMAT that ends takes its sector off the list, and the last completes the FORMAT. -/
theorem formatErases : Obligations.FormatErases := by
  refine ⟨fun s f n rest hformat hlist hreq => ⟨fun hnone => ?_, fun r herase hfor => ?_⟩,
    fun s r f hheld herase hfor hsector hformat hstate => ⟨fun hphase hcount hblank => ?_, fun c hfails => ?_, fun hnormal hphase => ?_⟩⟩
  · rw [State.requestErase_format hformat hlist hreq hnone]
    rfl
  · exact State.requestErase_formatWaits hformat hreq herase hfor
  · obtain ⟨p, hexec, hword, hother, hseeds⟩ := exec_eraseDone hheld herase hphase hsector hcount hblank
    rw [State.eraseEnds_done_format hfor] at hexec
    refine ⟨_, hexec, ?_⟩
    by_cases hlast : f.list.drop 1 = []
    · obtain ⟨harr, hflash, _, hsm, hdir, hdev, hnotices, hreplied, hframe⟩ := State.formatNext_completes (p := p)
        (table := s.sm.table.modify r.req.sector (fun e => e.afterErase r.req.count)) (d := s.dir) (notices := s.link.notices)
        hformat hlast hstate rfl
      rw [limitNotices_formatting] at hnotices
      refine ⟨harr, ?_, fun n i hn hi hne => ?_, fun hne => absurd hlast hne, fun _ => ⟨hsm, hdir, hdev, hnotices, hreplied, hframe⟩⟩
      · exact (congrArg (fun m : Flash => (m.word r.req.sector 0).erase?) hflash).trans hword
      · exact (congrArg (fun m : Flash => m.word n i) hflash).trans (hother n i hn hi hne)
    · rw [State.formatNext_goesOn (by exact hformat) hlast]
      exact ⟨rfl, hword, hother, fun _ => ⟨rfl, rfl, rfl, rfl⟩, fun hnil => absurd hnil hlast⟩
  · obtain ⟨p, hexec, harray⟩ := exec_failsErase hheld herase hsector hfails
    rw [State.eraseEnds_failed_format hfor, State.withRetired_formatErased hstate, limitNotices_formatting] at hexec
    refine ⟨_, hexec, ?_⟩
    by_cases hlast : f.list.drop 1 = []
    · obtain ⟨harr, hflash, hseeds, hsm, hdir, hdev, hnotices, hreplied, hframe⟩ :=
        State.formatNext_completes (p := p) (table := retiredTable s.sm.table r.req.sector)
          (d := { s.dir with limit := limitOf (retiredTable s.sm.table r.req.sector) })
          (notices := if s.dir.admitted * 10 ≤ s.dir.limit * 9
              ∧ limitOf (retiredTable s.sm.table r.req.sector) * 9 < s.dir.admitted * 10
            then joinNotice .spaceLow (joinNotice .sectorRetired s.link.notices)
            else joinNotice .sectorRetired s.link.notices) hformat hlast hstate rfl
      have hmarked := hnotices.trans (congrArg (joinNotice .state) (limitNotices_same
        { s.dir with limit := limitOf (retiredTable s.sm.table r.req.sector) } _))
      refine ⟨harr, ?_, fun hne => absurd hlast hne, fun _ => ⟨hsm, hdir, hdev, hmarked, hreplied, hframe⟩⟩
      rw [State.eraseFails] at harray ⊢
      rw [hflash, hseeds]
      exact harray
    · rw [State.formatNext_goesOn (by exact hformat) hlast]
      exact ⟨rfl, harray, fun _ => ⟨rfl, rfl, rfl, rfl⟩, fun hnil => absurd hnil hlast⟩
  · rw [exec_supplyBelowHold hheld hnormal, State.enterHold_format herase hphase hfor]

end Sys2Proof.Machine
end

section
/-! PROOFS. The phases of an erase, and what the Array Controller starts next (R2, R99, R108, R110 to R112, R128). -/

namespace Sys2Proof.Machine

variable {s : State}

/-! ## The choice (R108) -/

theorem ArrayCtl.free_iff {a : ArrayCtl} :
    a.free = true ↔ a.op = none ∧ ∀ r, a.erase = some r → r.phase ≠ .pulse ∧ r.phase ≠ .header := by
  rw [ArrayCtl.free, Bool.and_eq_true, Option.isNone_iff_eq_none]
  cases a.erase with
  | none => simp
  | some r => cases hphase : r.phase <;> simp [hphase]

theorem LogWriter.inProgress_iff {w : LogWriter} :
    w.inProgress = true ↔ w.cur.isSome = true ∨ ∃ l, w.point = .opening l false := by
  rw [LogWriter.inProgress, Bool.or_eq_true]
  cases w.point <;> simp

theorem State.schedule_busy (h : ¬ s.arr.free = true) : s.schedule = s := if_neg h

theorem State.schedule_get {g : ReadReq} {rest : List ReadReq} (hfree : s.arr.free = true) (hgets : s.arr.gets = g :: rest) :
    s.schedule = { s with arr := { s.arr with op := some (.read g), gets := rest } } := by
  rw [State.schedule, if_pos hfree, hgets]
  rfl

theorem State.schedule_walk {g : ReadReq} {rest : List ReadReq} (hfree : s.arr.free = true) (hgets : s.arr.gets = [])
    (hwalks : s.arr.walks = g :: rest) :
    s.schedule = { s with arr := { s.arr with op := some (.read g), walks := rest } } := by
  rw [State.schedule, if_pos hfree, hgets, hwalks]
  rfl

section Quiet
variable (hfree : s.arr.free = true) (hgets : s.arr.gets = []) (hwalks : s.arr.walks = [])
include hfree hgets hwalks

theorem State.schedule_quiet : s.schedule = (match s.arr.word with
    | some w => if s.sup.condition = .hold then s.scheduleErase else s.startWord w
    | none => s.scheduleErase) := by
  rw [State.schedule, if_pos hfree, hgets, hwalks]
  cases s.arr.word <;> rfl

theorem State.schedule_word {w : WordReq} (hword : s.arr.word = some w) (hnormal : s.sup.condition = .normal) :
    s.schedule = s.startWord w := by
  rw [State.schedule_quiet hfree hgets hwalks, hword]
  exact if_neg (by rw [hnormal]; decide)

theorem State.schedule_idle (hword : s.arr.word = none) : s.schedule = s.scheduleErase := by
  rw [State.schedule_quiet hfree hgets hwalks, hword]

theorem State.schedule_hold (hhold : s.sup.condition = .hold) : s.schedule = s.scheduleErase := by
  rw [State.schedule_quiet hfree hgets hwalks]
  cases s.arr.word with
  | none => rfl
  | some w => exact if_pos hhold

end Quiet

/-- A word program that starts; a record's word then counts as begun (R99). -/
theorem State.startWord_eq (s : State) (w : WordReq) : s.startWord w = { s with
    arr := { s.arr with op := some (.word w), word := none }
    lw := if w.role = .firstWord ∨ w.role = .innerWord ∨ w.role = .lastWord then
        { s.lw with cur := s.lw.cur.map (fun c => { c with begun := c.begun + 1 }) }
      else s.lw } := by
  rw [State.startWord]
  cases hrole : w.role <;> simp <;> rfl

/-! ## The erase goes on, or starts (R110 to R112) -/

/-- The erase under way in another phase. -/
def State.passed (s : State) (r : EraseRun) (p : ErasePhase) : State :=
  { s with arr := { s.arr with erase := some { r with phase := p } } }

section Erase
variable {r : EraseRun} (herase : s.arr.erase = some r)
include herase

theorem State.erasePhase_eq (p : ErasePhase) : s.erasePhase p = s.passed r p := by
  rw [State.erasePhase, State.modArray, herase]
  rfl

theorem State.scheduleErase_checked (hphase : r.phase = .checked) : s.scheduleErase = s.passed r .header := by
  simp only [State.scheduleErase, herase, hphase, State.erasePhase_eq herase]

theorem State.scheduleErase_resumes (hphase : r.phase = .suspended) (h : ¬ s.lw.inProgress = true) :
    s.scheduleErase = s.passed r .pulse := by
  simp only [State.scheduleErase, herase, hphase, State.erasePhase_eq herase]
  exact if_neg h

theorem State.scheduleErase_waits (hphase : r.phase = .suspended) (h : s.lw.inProgress = true) : s.scheduleErase = s := by
  simp only [State.scheduleErase, herase, hphase]
  exact if_pos h

theorem State.scheduleErase_blankCheck (hphase : r.phase = .blankCheck) : s.scheduleErase = s := by
  simp only [State.scheduleErase, herase, hphase]

end Erase

theorem State.scheduleErase_starts {q : EraseReq} (herase : s.arr.erase = none) (hreq : s.arr.eraseReq = some q)
    (hnormal : s.sup.condition = .normal) : s.scheduleErase = s.startErase q := by
  simp only [State.scheduleErase, herase, hreq, hnormal]
  exact if_neg (by decide)

theorem State.scheduleErase_rests (herase : s.arr.erase = none) (h : s.arr.eraseReq = none ∨ s.sup.condition = .hold) :
    s.scheduleErase = s := by
  rw [State.scheduleErase, herase]
  cases hreq : s.arr.eraseReq with
  | none => rfl
  | some q => exact if_pos (h.resolve_left (by rw [hreq]; exact Option.some_ne_none q))

/-! ## An erase past its pulse, when the array is scheduled -/

section PastPulse
variable {r : EraseRun} (herase : s.arr.erase = some r)
include herase

/-- Whatever is scheduled while an erase is under way, the array, the Directory and the next free value stay (R110). -/
theorem State.schedule_erasing : s.schedule.flash = s.flash ∧ s.schedule.dir = s.dir ∧ s.schedule.seeds = s.seeds := by
  have hscheduled : ∀ u : State, u.arr.erase = some r → u.scheduleErase.flash = u.flash ∧ u.scheduleErase.dir = u.dir
      ∧ u.scheduleErase.seeds = u.seeds := fun u hu => by
    cases hphase : r.phase with
    | checked => rw [State.scheduleErase_checked hu hphase]; exact ⟨rfl, rfl, rfl⟩
    | blankCheck => rw [State.scheduleErase_blankCheck hu hphase]; exact ⟨rfl, rfl, rfl⟩
    | suspended =>
      by_cases h : u.lw.inProgress = true
      · rw [State.scheduleErase_waits hu hphase h]; exact ⟨rfl, rfl, rfl⟩
      · rw [State.scheduleErase_resumes hu hphase h]; exact ⟨rfl, rfl, rfl⟩
    | pulse | header => simp only [State.scheduleErase, hu, hphase, and_self]
  by_cases hfree : s.arr.free = true
  · cases hgets : s.arr.gets with
    | cons g rest => rw [State.schedule_get hfree hgets]; exact ⟨rfl, rfl, rfl⟩
    | nil =>
      cases hwalks : s.arr.walks with
      | cons g rest => rw [State.schedule_walk hfree hgets hwalks]; exact ⟨rfl, rfl, rfl⟩
      | nil =>
        cases hword : s.arr.word with
        | none => rw [State.schedule_idle hfree hgets hwalks hword]; exact hscheduled s herase
        | some w =>
          cases hcond : s.sup.condition with
          | normal => rw [State.schedule_word hfree hgets hwalks hword hcond, State.startWord_eq]; exact ⟨rfl, rfl, rfl⟩
          | hold => rw [State.schedule_hold hfree hgets hwalks hcond]; exact hscheduled s herase
  · rw [State.schedule_busy hfree]
    exact ⟨rfl, rfl, rfl⟩

/-- The erase after the Array Controller's choice: it goes on only when the array is free and nothing waits, and
where a word program waits only in HOLD (R108, R112). -/
theorem State.schedule_erase : s.schedule.arr.erase
    = if s.arr.free = true ∧ s.arr.gets = [] ∧ s.arr.walks = [] ∧ (s.arr.word = none ∨ s.sup.condition = .hold)
      then s.scheduleErase.arr.erase else some r := by
  by_cases hfree : s.arr.free = true
  · cases hgets : s.arr.gets with
    | cons g rest =>
      rw [State.schedule_get hfree hgets, if_neg (fun h => List.cons_ne_nil g rest h.2.1)]
      exact herase
    | nil =>
      cases hwalks : s.arr.walks with
      | cons g rest =>
        rw [State.schedule_walk hfree hgets hwalks, if_neg (fun h => List.cons_ne_nil g rest h.2.2.1)]
        exact herase
      | nil =>
        by_cases hwaits : s.arr.word = none ∨ s.sup.condition = .hold
        · rw [if_pos ⟨hfree, rfl, rfl, hwaits⟩]
          rcases hwaits with hword | hhold
          · rw [State.schedule_idle hfree hgets hwalks hword]
          · rw [State.schedule_hold hfree hgets hwalks hhold]
        · rw [if_neg (fun h => hwaits h.2.2.2)]
          obtain ⟨hword, hcond⟩ := not_or.1 hwaits
          obtain ⟨w, hw⟩ := Option.ne_none_iff_exists'.1 hword
          have hnormal : s.sup.condition = .normal := by
            cases h : s.sup.condition with
            | normal => rfl
            | hold => exact absurd h hcond
          rw [State.schedule_word hfree hgets hwalks hw hnormal, State.startWord_eq]
          exact herase
  · rw [State.schedule_busy hfree, if_neg (fun h => hfree h.1)]
    exact herase

/-- The event in which an erase under way is scheduled changes, besides the array's operation, only the link. -/
theorem State.schedule_consult_erasing : s.schedule.consult.flash = s.flash ∧ s.schedule.consult.arr = s.schedule.arr
    ∧ s.schedule.consult.req = s.req ∧ s.schedule.consult.wq = s.wq ∧ s.schedule.consult.dir = s.dir
    ∧ s.schedule.consult.sm = s.sm ∧ s.schedule.consult.dev = s.dev ∧ s.schedule.consult.sup = s.sup := by
  obtain ⟨hflash, hdir, -⟩ := State.schedule_erasing herase
  simp [hflash, hdir]

/-- A blank check that has passed lets the erase word begin when nothing waits (R112). -/
theorem State.schedule_checked (hphase : r.phase = .checked) (hnormal : s.sup.condition = .normal) : s.schedule.arr.erase
    = some { r with phase :=
        if s.arr.op = none ∧ s.arr.gets = [] ∧ s.arr.walks = [] ∧ s.arr.word = none then .header else .checked } := by
  have hfree : s.arr.free = true ↔ s.arr.op = none := by
    rw [ArrayCtl.free_iff, and_iff_left]
    intro q hq
    obtain rfl := Option.some.inj (herase.symm.trans hq)
    rw [hphase]
    decide
  have hwaits : (s.arr.word = none ∨ s.sup.condition = .hold) ↔ s.arr.word = none := by
    rw [hnormal]
    simp
  have hsame : ({ r with phase := .checked } : EraseRun) = r := by rw [← hphase]
  rw [State.schedule_erase herase, State.scheduleErase_checked herase hphase]
  simp only [hfree, hwaits]
  by_cases h : s.arr.op = none ∧ s.arr.gets = [] ∧ s.arr.walks = [] ∧ s.arr.word = none
  · rw [if_pos h, if_pos h]
    rfl
  · rw [if_neg h, if_neg h, hsame]

end PastPulse

/-- The array after a pulse: the sector's words are blank but for those that stay, and no other sector changes (R2, R110). -/
theorem Flash.word_pulsed (f : Flash) {sector n i : Nat} (hi : i < Config.sectorWords) (stuck : List (Nat × RawWord)) :
    (n ≠ sector → ((f.clear sector).putAll sector stuck).word n i = f.word n i)
    ∧ ((∀ p ∈ stuck, p.1 ≠ i) → ((f.clear sector).putAll sector stuck).word sector i = blankWord) := by
  refine ⟨fun hne => ?_, fun hstuck => ?_⟩
  · rw [Flash.word_putAll_other hi _ _ (.inl hne), Flash.word_clear_other hi hne]
  · rw [Flash.word_putAll_other hi _ _ (.inr hstuck), Flash.word_clear _ _ _ hi]

/-! ## The commands -/

section Commands
variable {r : EraseRun} (hheld : s.held = false)
include hheld

theorem State.unlessHeld_runs (f : State → State) : s.unlessHeld f = f s :=
  if_neg (by rw [hheld]; exact Bool.false_ne_true)

theorem exec_eraseSuspend (herase : s.arr.erase = some r) (hphase : r.phase = .pulse) (hwaits : s.arrayWaits = true) :
    exec .eraseSuspend s = .next (State.schedule (s.passed r .suspended)).consult := by
  refine congrArg Host.Outcome.next ((State.unlessHeld_runs hheld _).trans ?_)
  simp only [State.eraseIn_some herase hphase, State.erasePhase_eq herase]
  exact if_pos hwaits

theorem exec_eraseSuspend_rests (h : s.arrayWaits = false) : exec .eraseSuspend s = .next s := by
  refine congrArg Host.Outcome.next ((State.unlessHeld_runs hheld _).trans ?_)
  cases s.eraseIn .pulse with
  | none => rfl
  | some q => exact if_neg (by rw [h]; exact Bool.false_ne_true)

theorem exec_eraseTimeout_rests (h : ∀ r, s.arr.erase = some r → r.phase ≠ .pulse) : exec .eraseTimeout s = .next s := by
  have hnone : s.eraseIn .pulse = none := by
    rw [State.eraseIn]
    cases herase : s.arr.erase with
    | none => rfl
    | some r => exact if_neg (h r herase)
  refine congrArg Host.Outcome.next ((State.unlessHeld_runs hheld _).trans ?_)
  simp only [hnone]

theorem exec_erasePulseComplete (herase : s.arr.erase = some r) (hphase : r.phase = .pulse) (hsector : r.req.sector < 128)
    (stuck : List (Nat × RawWord)) : exec (.erasePulseComplete stuck) s
      = .next (State.schedule (State.passed { s with
          flash := (s.flash.clear r.req.sector).putAll r.req.sector (stuckWords stuck) } r .blankCheck)).consult := by
  refine (if_neg (by rw [hheld]; exact Bool.false_ne_true)).trans ?_
  simp only [State.eraseIn_some herase hphase]
  refine (if_pos hsector).trans ?_
  rw [State.erasePhase_eq (by exact herase)]

theorem exec_blankCheckComplete (herase : s.arr.erase = some r) (hphase : r.phase = .blankCheck)
    (hblank : s.flash.allBlank r.req.sector = true) :
    exec .blankCheckComplete s = .next (State.schedule (s.passed r .checked)).consult := by
  refine congrArg Host.Outcome.next ((State.unlessHeld_runs hheld _).trans ?_)
  simp only [State.eraseIn_some herase hphase, State.erasePhase_eq herase]
  exact if_pos hblank

end Commands

/-- The words that stay after a pulse are at the indices given for them (R110). -/
theorem mem_stuckWords {stuck : List (Nat × RawWord)} {p : Nat × RawWord} (h : p ∈ stuckWords stuck) :
    ∃ q ∈ stuck, q.1 = p.1 := by
  obtain ⟨q, hq, rfl⟩ := List.mem_map.1 h
  refine ⟨q, hq, ?_⟩
  split <;> rfl

theorem State.arrayWaits_iff : s.arrayWaits = true
    ↔ s.arr.gets ≠ [] ∨ s.arr.walks ≠ [] ∨ (s.arr.word.isSome = true ∧ s.sup.condition = .normal) := by
  rw [State.arrayWaits, Bool.or_eq_true, Bool.or_eq_true, Bool.and_eq_true, beq_iff_eq, or_assoc]
  simp only [Bool.not_eq_true', List.isEmpty_eq_false_iff, ne_eq]

/-- Settles O50: each phase's command passes the erase on and schedules; the choice is cut along its classes. -/
theorem erasePhases : Obligations.ErasePhases := by
  refine ⟨fun s hheld => ⟨fun r g rest herase hphase hop hgets => ?_, fun r herase hphase hwaits => ?_,
    fun hgets hwalks hword => ?_, fun hpast => exec_eraseTimeout_rests hheld hpast, fun r stuck herase hphase hsector => ?_,
    fun r herase hphase hnormal hblank => ?_, fun hwindow hrun hmembers => ?_⟩, fun s => ?_⟩
  · have hfree : (s.passed r .suspended).arr.free = true :=
      ArrayCtl.free_iff.2 ⟨hop, fun q hq => by obtain rfl := Option.some.inj hq; exact ⟨by simp, by simp⟩⟩
    have hexec := exec_eraseSuspend hheld herase hphase
      (State.arrayWaits_iff.2 (.inl (by rw [hgets]; exact List.cons_ne_nil g rest)))
    rw [State.schedule_get hfree (rest := rest) (g := g) hgets] at hexec
    refine ⟨_, hexec, ?_⟩
    let u : State := { s with arr := { s.arr with op := some (.read g), gets := rest, erase := some { r with phase := .suspended } } }
    obtain ⟨hqueued, hframe⟩ := State.consult_queued u
    exact ⟨congrArg State.arr hframe, hqueued, congrArg (fun t : State => { t with arr := s.arr }) hframe⟩
  · exact exec_eraseSuspend hheld herase hphase (State.arrayWaits_iff.2 hwaits)
  · refine exec_eraseSuspend_rests hheld (eq_false_of_ne_true (mt State.arrayWaits_iff.1 ?_))
    rw [hgets, hwalks, hword]
    simp
  · refine ⟨_, exec_erasePulseComplete hheld herase hphase hsector stuck, ?_⟩
    let u : State := State.passed { s with
      flash := (s.flash.clear r.req.sector).putAll r.req.sector (stuckWords stuck) } r .blankCheck
    have hu : u.arr.erase = some { r with phase := .blankCheck } := rfl
    obtain ⟨hflash, harr, hreq, hwq, hdir, hsm, hdev, hsup⟩ := State.schedule_consult_erasing hu
    have herase' : u.schedule.arr.erase = some { r with phase := .blankCheck } := by
      rw [State.schedule_erase hu, State.scheduleErase_blankCheck hu rfl, hu, ite_self]
    refine ⟨fun i hi hstuck => ?_, fun sector i _ hi hne => ?_, (congrArg ArrayCtl.erase harr).trans herase',
      hreq, hwq, hdir, hsm, hdev, hsup⟩
    · refine (congrArg (fun f : Flash => f.word r.req.sector i) hflash).trans
        ((s.flash.word_pulsed (n := 0) hi (stuckWords stuck)).2 fun p hp => ?_)
      obtain ⟨q, hq, heq⟩ := mem_stuckWords hp
      rw [← heq]
      exact hstuck q hq
    · exact (congrArg (fun f : Flash => f.word sector i) hflash).trans ((s.flash.word_pulsed hi (stuckWords stuck)).1 hne)
  · refine ⟨_, exec_blankCheckComplete hheld herase hphase (Flash.allBlank_iff.2 hblank), ?_⟩
    let u : State := s.passed r .checked
    have hu : u.arr.erase = some { r with phase := .checked } := rfl
    obtain ⟨hflash, harr, hreq, hwq, hdir, hsm, hdev, -⟩ := State.schedule_consult_erasing hu
    exact ⟨(congrArg ArrayCtl.erase harr).trans ((State.schedule_checked hu rfl hnormal).trans rfl), hflash, hreq, hwq, hdir, hsm, hdev⟩
  · refine congrArg Host.Outcome.next ((State.unlessHeld_runs hheld _).trans (if_pos ⟨hwindow, ?_, hmembers⟩))
    rw [hrun]
    exact Bool.false_ne_true
  · simp only [← ArrayCtl.free_iff, ← LogWriter.inProgress_iff]
    refine ⟨State.schedule_busy, fun g rest hfree hgets => State.schedule_get hfree hgets,
      fun g rest hfree hgets hwalks => State.schedule_walk hfree hgets hwalks,
      fun w ⟨hfree, hgets, hwalks⟩ hword hnormal => ?_,
      fun r ⟨⟨hfree, hgets, hwalks⟩, hword, hnormal⟩ herase => ?_,
      fun q ⟨⟨hfree, hgets, hwalks⟩, hword, hnormal⟩ herase hreq => ?_,
      fun ⟨⟨hfree, hgets, hwalks⟩, hword, hnormal⟩ herase hreq => ?_, fun ⟨hfree, hgets, hwalks⟩ hhold herase => ?_⟩
    · rw [State.schedule_word hfree hgets hwalks hword hnormal, State.startWord_eq]
    · rw [State.schedule_idle hfree hgets hwalks hword]
      exact ⟨State.scheduleErase_checked herase, State.scheduleErase_resumes herase, State.scheduleErase_waits herase,
        State.scheduleErase_blankCheck herase⟩
    · rw [State.schedule_idle hfree hgets hwalks hword, State.scheduleErase_starts herase hreq hnormal]
      exact ⟨rfl, fun hsector => Flash.erase_wreck _ hsector _, fun sector i _ hi hne => Flash.word_wreck_other hi hne _⟩
    · rw [State.schedule_idle hfree hgets hwalks hword, State.scheduleErase_rests herase (.inl hreq)]
    · rw [State.schedule_hold hfree hgets hwalks hhold, State.scheduleErase_rests herase (.inr hhold)]

end Sys2Proof.Machine
end

section
/-! PROOFS. The Write Queue fails: every entry, its key, and every fence waiter (R28, R53 to R57, R157). -/

namespace Sys2Proof.Machine

/-! ## Replies in their order -/

/-- From `s` to `t` exactly these final replies were decided. -/
def State.onlyReplies (s : State) (replies : List (Byte × List Byte)) (t : State) : Prop :=
  (t.req, t.link.txq) = replies.foldl replyTo (s.req, s.link.txq)
    ∧ { t.link with txq := s.link.txq } = s.link ∧ { t with link := s.link, req := s.req } = s

section Replies
variable {s t u : State} {l l' : List (Byte × List Byte)}

theorem State.onlyReplies_nil (s : State) : s.onlyReplies [] s := ⟨rfl, rfl, rfl⟩

theorem State.onlyReplies.trans (h : s.onlyReplies l t) (h' : t.onlyReplies l' u) : s.onlyReplies (l ++ l') u := by
  obtain ⟨hreq, hlink, hframe⟩ := h
  obtain ⟨hreq', hlink', hframe'⟩ := h'
  refine ⟨?_, ?_, ?_⟩
  · rw [List.foldl_append, ← hreq, hreq']
  · exact (congrArg (fun l : Link => { l with txq := s.link.txq }) hlink').trans hlink
  · exact (congrArg (fun v : State => { v with link := s.link, req := s.req }) hframe').trans hframe

theorem State.answer_onlyReplies (s : State) (tag : Byte) (st : Status) (fields : List Byte) :
    s.onlyReplies [(tag, le 1 st.code ++ fields)] (s.answer tag st fields) :=
  ⟨s.answer_replyTo tag st fields, s.answer_link tag st fields, (s.answer_tableOnly tag st fields).2⟩

theorem State.onlyReplies.notices (h : s.onlyReplies l t) : t.link.notices = s.link.notices :=
  (congrArg Link.notices h.2.1).trans rfl

/-- Replies decided in a state whose Request Table and Transmit Queue are those of `s`. -/
theorem State.onlyReplies.repliedAll {v : State} (h : t.onlyReplies l u) (hreq : t.req = s.req)
    (hlink : { t.link with notices := s.link.notices } = s.link) (hvreq : v.req = u.req)
    (hvlink : { v.link with notices := s.link.notices } = { u.link with notices := s.link.notices }) : s.repliedAll l v := by
  obtain ⟨hreplies, hrest, -⟩ := h
  have htxq : t.link.txq = s.link.txq := (congrArg Link.txq hlink).trans rfl
  have hvtxq : v.link.txq = u.link.txq := (congrArg Link.txq hvlink).trans rfl
  refine ⟨?_, ?_⟩
  · rw [hvreq, hvtxq, hreplies, hreq, htxq]
  · refine (congrArg (fun l : Link => { l with txq := s.link.txq }) hvlink).trans ?_
    rw [← htxq]
    exact (congrArg (fun l : Link => { l with notices := s.link.notices }) hrest).trans hlink

/-- The waiter of an entry is answered, if it has one. -/
theorem State.answerWaiter_onlyReplies (s : State) (waiter : Option Byte) (st : Status) (fields : List Byte) :
    s.onlyReplies (waiter.map (fun tag => (tag, le 1 st.code ++ fields))).toList (match waiter with
      | some tag => s.answer tag st fields
      | none => s) := by
  cases waiter with
  | none => exact s.onlyReplies_nil
  | some tag => exact s.answer_onlyReplies tag st fields

theorem State.answerFences_onlyReplies (st : FenceWaiter → Status) (fences : List FenceWaiter) (s : State) :
    s.onlyReplies (fences.map (fun x => (x.tag, le 1 (st x).code))) (s.answerFences st fences) := by
  induction fences generalizing s with
  | nil => exact s.onlyReplies_nil
  | cons x fences ih =>
    have hfirst := s.answer_onlyReplies x.tag (st x) []
    rw [List.append_nil] at hfirst
    exact hfirst.trans (ih _)

end Replies

/-! ## The keys of the entries that fail (R28) -/

/-- The Directory's entries once an entry of the key has failed, `rest` behind it (R28). -/
def revertIn (k : Key) (rest : List QueueEntry) (es : List Entry) : List Entry :=
  match findEntry k es with
  | none => es
  | some e =>
    match (rest.filter (fun q => q.key == k)).getLast? with
    | some q => putEntry ({ e with queued := e.queued - 1 }.viewFromWrite q.kind q.seq q.value.length) es
    | none =>
      if e.durable.isNone ∧ e.flashCopies = 0 then dropEntry k es
      else putEntry { e with queued := e.queued - 1 }.viewFromDurable es

/-- The Directory's entries once these Write Queue entries have failed, head first. -/
def failedIn : List QueueEntry → List Entry → List Entry
  | [], es => es
  | q :: rest, es => failedIn rest (revertIn q.key rest es)

/-- The entry of a key with `n` queued writes once all of them have failed (R28). -/
def Entry.failed (e : Entry) (n : Nat) : Option Entry :=
  if e.durable.isNone ∧ e.flashCopies = 0 then none else some { e with queued := e.queued - n }.viewFromDurable

section Keys
variable {k : Key} {q : QueueEntry} {rest : List QueueEntry} {es : List Entry} {e : Entry}

theorem Entry.viewFromWrite_key (kind : RecordKind) (seq len : Nat) : (e.viewFromWrite kind seq len).key = e.key := rfl

theorem Entry.viewFromDurable_key : e.viewFromDurable.key = e.key := by
  rw [Entry.viewFromDurable]
  cases e.durable <;> rfl

/-- Only the failed entry's key changes. -/
theorem findEntry_revertIn_other {j : Key} (h : j ≠ k) : findEntry j (revertIn k rest es) = findEntry j es := by
  rw [revertIn]
  cases hfind : findEntry k es with
  | none => rfl
  | some e =>
    have hkey := findEntry_key hfind
    have hput : ∀ x : Entry, x.key = e.key → findEntry j (putEntry x es) = findEntry j es := fun x hx =>
      findEntry_put_other (by rw [hx, hkey]; exact h) es
    simp only
    split
    · exact hput _ rfl
    · split
      · exact findEntry_drop_other h es
      · exact hput _ Entry.viewFromDurable_key

/-- A key with another entry behind takes that entry's view. -/
theorem findEntry_revertIn_queued (hfind : findEntry k es = some e) (hrest : ∃ q ∈ rest, q.key = k) :
    ∃ q : QueueEntry, findEntry k (revertIn k rest es)
      = some ({ e with queued := e.queued - 1 }.viewFromWrite q.kind q.seq q.value.length) := by
  obtain ⟨q, hq, hkey⟩ := hrest
  have hne : rest.filter (fun q => q.key == k) ≠ [] :=
    List.ne_nil_of_mem (List.mem_filter.2 ⟨hq, beq_iff_eq.2 hkey⟩)
  have hx := List.getLast?_eq_some_getLast hne
  generalize (rest.filter (fun q => q.key == k)).getLast hne = x at hx
  refine ⟨x, ?_⟩
  rw [revertIn, hfind]
  simp only [hx]
  have hput := findEntry_put ({ e with queued := e.queued - 1 }.viewFromWrite x.kind x.seq x.value.length) es
  rw [Entry.viewFromWrite_key] at hput
  exact (congrArg (fun j => findEntry j _) (findEntry_key hfind)).symm.trans hput

/-- A key with nothing behind goes back to its durable version, or leaves. -/
theorem findEntry_revertIn_last (hfind : findEntry k es = some e) (hrest : ∀ q ∈ rest, q.key ≠ k) :
    findEntry k (revertIn k rest es) = e.failed 1 := by
  have hnone : rest.filter (fun q => q.key == k) = [] := by
    rw [List.filter_eq_nil_iff]
    exact fun q hq => by rw [beq_iff_eq]; exact hrest q hq
  rw [revertIn, hfind, hnone, Entry.failed]
  simp only [List.getLast?_nil]
  split
  · exact findEntry_drop k es
  · have hput := findEntry_put { e with queued := e.queued - 1 }.viewFromDurable es
    rw [Entry.viewFromDurable_key] at hput
    exact (congrArg (fun j => findEntry j _) (findEntry_key hfind)).symm.trans hput

theorem findEntry_revertIn_none (hfind : findEntry k es = none) : revertIn k rest es = es := by
  rw [revertIn, hfind]

/-- An entry that waits behind keeps having one. -/
theorem isSome_revertIn {x : QueueEntry} (hx : x ∈ rest) :
    (findEntry x.key (revertIn k rest es)).isSome = (findEntry x.key es).isSome := by
  by_cases hkey : x.key = k
  · cases hfind : findEntry k es with
    | none => rw [findEntry_revertIn_none hfind]
    | some e =>
      obtain ⟨q, hq⟩ := findEntry_revertIn_queued hfind ⟨x, hx, hkey⟩
      rw [hkey, hq, hfind]
      rfl
  · rw [findEntry_revertIn_other hkey]

theorem findEntry_failedIn_other (qs : List QueueEntry) (h : ∀ q ∈ qs, q.key ≠ k) :
    ∀ es, findEntry k (failedIn qs es) = findEntry k es := by
  induction qs with
  | nil => exact fun _ => rfl
  | cons q qs ih =>
    intro es
    rw [failedIn, ih (fun x hx => h x (List.mem_cons_of_mem _ hx)),
      findEntry_revertIn_other (h q List.mem_cons_self).symm]

/-- What the durable part gives does not depend on the view before. -/
theorem Entry.failed_viewFromWrite (kind : RecordKind) (seq len n : Nat) :
    ({ e with queued := e.queued - 1 }.viewFromWrite kind seq len).failed n = e.failed (n + 1) := by
  have hqueued : e.queued - 1 - n = e.queued - (n + 1) := by omega
  rw [Entry.failed, Entry.failed]
  simp only [Entry.viewFromWrite, Entry.viewFromDurable, hqueued]

/-- All queued writes of a key have failed. -/
theorem findEntry_failedIn (qs : List QueueEntry) : ∀ {es : List Entry} {e : Entry}, findEntry k es = some e →
    (∃ q ∈ qs, q.key = k) → findEntry k (failedIn qs es) = e.failed (qs.countP (fun x => x.key == k)) := by
  induction qs with
  | nil => exact fun _ h => absurd h (by simp)
  | cons q qs ih =>
    intro es e hfind hmem
    rw [failedIn]
    by_cases hkey : q.key = k
    · rw [List.countP_cons_of_pos (p := fun x : QueueEntry => x.key == k) (beq_iff_eq.2 hkey), hkey]
      by_cases hmore : ∃ x ∈ qs, x.key = k
      · obtain ⟨x, hx⟩ := findEntry_revertIn_queued hfind hmore
        rw [ih hx hmore, Entry.failed_viewFromWrite]
      · have hnone : ∀ x ∈ qs, x.key ≠ k := fun x hx hk => hmore ⟨x, hx, hk⟩
        have hzero : qs.countP (fun x => x.key == k) = 0 :=
          List.countP_eq_zero.2 fun x hx => by rw [beq_iff_eq]; exact hnone x hx
        rw [findEntry_failedIn_other qs hnone, findEntry_revertIn_last hfind hnone, hzero]
    · have hmore : ∃ x ∈ qs, x.key = k := by
        obtain ⟨x, hx, hk⟩ := hmem
        rcases List.mem_cons.1 hx with rfl | hx
        · exact absurd hk hkey
        · exact ⟨x, hx, hk⟩
      have hcount : ¬ (q.key == k) = true := by rw [beq_iff_eq]; exact hkey
      rw [List.countP_cons_of_neg (p := fun x : QueueEntry => x.key == k) hcount]
      exact ih ((findEntry_revertIn_other (Ne.symm hkey)).trans hfind) hmore

end Keys

/-! ## The entries fail (R28, R55, R56) -/

/-- Record bytes of the entries whose key has a Directory entry: what leaves admitted bytes. -/
def failedBytes (qs : List QueueEntry) (es : List Entry) : Nat :=
  ((qs.filter (fun q => (findEntry q.key es).isSome)).map (fun q => q.recLen)).sum

theorem failedBytes_cons (q : QueueEntry) (qs : List QueueEntry) (es : List Entry) : failedBytes (q :: qs) es
    = (if (findEntry q.key es).isSome then q.recLen else 0) + failedBytes qs (revertIn q.key qs es) := by
  have hsame : qs.filter (fun x => (findEntry x.key (revertIn q.key qs es)).isSome)
      = qs.filter (fun x => (findEntry x.key es).isSome) :=
    List.filter_congr fun x hx => isSome_revertIn hx
  rw [failedBytes, failedBytes, hsame, List.filter_cons]
  split
  · rw [List.map_cons, List.sum_cons]
  · rw [Nat.zero_add]

/-- The state after these entries, all of the Write Queue's, have failed, their waiters not answered. -/
def State.withFailed (s : State) (qs : List QueueEntry) : State :=
  { s with
    wq := { s.wq with entries := [], charged := s.wq.charged - (qs.map (fun q => q.recLen)).sum }
    dir := { s.dir with
      entries := failedIn qs s.dir.entries
      admitted := s.dir.admitted - failedBytes qs s.dir.entries } }

/-- An entry's key reverts: the Directory alone changes (R28). -/
theorem State.revertKey_eq (s : State) (q : QueueEntry) (rest : List QueueEntry) : s.revertKey q.key q.recLen rest
    = { s with dir := { s.dir with
        entries := revertIn q.key rest s.dir.entries
        admitted := s.dir.admitted - if (findEntry q.key s.dir.entries).isSome then q.recLen else 0 } } := by
  rw [State.revertKey, State.entry, revertIn]
  cases hfind : findEntry q.key s.dir.entries with
  | none => rfl
  | some e =>
    have hset := State.setAdmitted_eq (s.dir.admitted - q.recLen) s
    rw [State.noticesAfter_le (Nat.sub_le _ _)] at hset
    simp only [hset, Option.isSome_some, if_true]
    cases (rest.filter (fun x => x.key == q.key)).getLast? with
    | some x => rfl
    | none =>
      by_cases hgone : e.durable.isNone = true ∧ e.flashCopies = 0
      · rw [if_pos hgone, if_pos hgone]
        rfl
      · rw [if_neg hgone, if_neg hgone]
        rfl

theorem State.onlyReplies.withFailed {s t : State} {l : List (Byte × List Byte)} (h : s.onlyReplies l t)
    (qs : List QueueEntry) : (s.withFailed qs).onlyReplies l (t.withFailed qs) := by
  obtain ⟨hreq, hlink, hframe⟩ := h
  exact ⟨hreq, hlink, congrArg (State.withFailed · qs) hframe⟩

/-- An entry at the front fails, then the rest. -/
theorem State.withFailed_cons (s : State) (q : QueueEntry) (rest : List QueueEntry) :
    State.withFailed (((s.modQueue (fun x => { x with entries := rest })).revertKey q.key q.recLen rest).release q.recLen) rest
      = s.withFailed (q :: rest) := by
  rw [State.revertKey_eq]
  simp only [State.withFailed, State.release, State.modQueue, failedIn, failedBytes_cons, List.map_cons, List.sum_cons,
    Nat.sub_sub]
  rfl

/-- The replies of a failing queue's entries are those of its waiters, head first. -/
theorem State.failEntries_replies (st : Status) (qs : List QueueEntry) : ∀ s : State, s.wq.entries = qs →
    (s.withFailed qs).onlyReplies (qs.filterMap (fun q => q.waiter.map (fun tag => (tag, le 1 st.code))))
      (s.failEntries st qs) := by
  induction qs with
  | nil =>
    intro s hs
    have hwq : { s.wq with entries := [] } = s.wq := by rw [← hs]
    have hsame : s.withFailed [] = s := congrArg (fun q => { s with wq := q }) hwq
    rw [hsame]
    exact s.onlyReplies_nil
  | cons q rest ih =>
    intro s hs
    let u := ((s.modQueue (fun x => { x with entries := rest })).revertKey q.key q.recLen rest).release q.recLen
    have hu : u.wq.entries = rest := congrArg (fun v : State => (v.release q.recLen).wq.entries) (State.revertKey_eq _ q rest)
    have hanswer := u.answerWaiter_onlyReplies q.waiter st []
    rw [List.append_nil] at hanswer
    have hfirst := hanswer.withFailed rest
    rw [s.withFailed_cons q rest] at hfirst
    have hwq := (congrArg State.wq hanswer.2.2).trans rfl
    have hall := hfirst.trans (ih _ ((congrArg WriteQueue.entries hwq).trans hu))
    have hlist : (q :: rest).filterMap (fun q => q.waiter.map (fun tag => (tag, le 1 st.code)))
        = (q.waiter.map (fun tag => (tag, le 1 st.code))).toList
          ++ rest.filterMap (fun q => q.waiter.map (fun tag => (tag, le 1 st.code))) := by
      rw [List.filterMap_cons]
      cases q.waiter <;> rfl
    rw [hlist]
    exact hall

/-! ## The whole queue (R53 to R57, R157) -/

/-- The state after the whole Write Queue has failed, no reply decided. -/
def State.withQueueFailed (s : State) : State :=
  { s.withFailed s.wq.entries with
    wq := { (s.withFailed s.wq.entries).wq with
      fences := []
      failureNote := s.wq.failureNote || s.wq.entries.any (fun q => decide (s.wq.fenceBoundary < q.seq)) }
    sup := { s.sup with holdTimer := false } }

theorem State.failQueue_replies {st : Status} {status : Byte} (hst : le 1 st.code = [status]) (s : State) :
    s.withQueueFailed.onlyReplies (failureReplies status s.wq.entries s.wq.fences) (s.failQueue st) := by
  have hentries := State.failEntries_replies st s.wq.entries s rfl
  obtain ⟨hreq, hlink, hframe⟩ := hentries
  let f : WriteQueue → WriteQueue := fun q => { q with
    failureNote := q.failureNote || s.wq.entries.any (fun e => decide (s.wq.fenceBoundary < e.seq)), fences := [] }
  have hnoted : ((s.withFailed s.wq.entries).modQueue f).onlyReplies
      (s.wq.entries.filterMap (fun q => q.waiter.map (fun tag => (tag, le 1 st.code))))
      ((s.failEntries st s.wq.entries).modQueue f) := ⟨hreq, hlink, congrArg (State.modQueue f) hframe⟩
  have hfences := hnoted.trans (State.answerFences_onlyReplies (fun _ => .failedBefore) s.wq.fences _)
  obtain ⟨hreq', hlink', hframe'⟩ := hfences
  rw [hst] at hreq'
  rw [State.failQueue, State.stopHoldTimer_eq]
  refine ⟨hreq', hlink', ?_⟩
  have hempty : ∀ u : State, u.wq.entries = [] → u.stopHoldTimer = { u with sup := { u.sup with holdTimer := false } } :=
    fun u hu => if_pos hu
  have hstop := congrArg State.stopHoldTimer hframe'
  rw [State.stopHoldTimer_eq, hempty ((s.withFailed s.wq.entries).modQueue f) rfl] at hstop
  exact hstop

/-- What a key with queued writes that have all failed is left with, as the statement cuts it (R28). -/
theorem Entry.failed_cases (e : Entry) (n : Nat) :
    (∀ d, e.durable = some d → e.failed n = some { e with
      state := d.kind.entryState, newestSeq := d.seq, newestLen := d.valLen, queued := e.queued - n })
    ∧ (e.durable = none → 0 < e.flashCopies → e.failed n = some { e with
      state := .tombstone, newestSeq := 0, newestLen := 0, queued := e.queued - n })
    ∧ (e.durable = none → e.flashCopies = 0 → e.failed n = none) := by
  refine ⟨fun d hd => ?_, fun hd hcopies => ?_, fun hd hcopies => ?_⟩
  · simp [Entry.failed, Entry.viewFromDurable, hd]
  · simp [Entry.failed, Entry.viewFromDurable, hd, Nat.ne_of_gt hcopies]
  · simp [Entry.failed, hd, hcopies]

/-- A state whose Write Queue, Directory, Request Table, replies and hold timer are those of a failed queue. -/
theorem State.queueFails_of {s u : State} {status : Byte} {l : List (Byte × List Byte)}
    (hl : l = failureReplies status s.wq.entries s.wq.fences)
    (hwq : u.wq = { s.withQueueFailed.wq with mediaFault := u.wq.mediaFault }) (hreplied : s.repliedAll l u)
    (hsup : u.sup = { s.sup with holdTimer := false }) (hdir : u.dir = s.withQueueFailed.dir) : s.queueFails status u := by
  have hentry : ∀ k, u.entry k = findEntry k (failedIn s.wq.entries s.dir.entries) := fun k =>
    congrArg (fun d : Directory => findEntry k d.entries) hdir
  refine ⟨hwq, hl ▸ hreplied, hsup, (congrArg Directory.limit hdir).trans rfl,
    (congrArg Directory.reserved hdir).trans rfl, (congrArg Directory.admitted hdir).trans rfl, fun k hk => ?_, fun q hq e he => ?_⟩
  · rw [hentry]
    exact findEntry_failedIn_other s.wq.entries hk _
  · rw [hentry, findEntry_failedIn s.wq.entries he ⟨q, hq, rfl⟩]
    exact e.failed_cases _

end Sys2Proof.Machine
end

section
/-! PROOFS. The hold timer expires: the host lane is abandoned (R28, R53 to R55, R106, R114, R158). -/

namespace Sys2Proof.Machine

variable {s : State}

/-! ## The host lane is abandoned (R106) -/

/-- The array operation whose outcome, if it is a word's, will be discarded. -/
def discarded : Option ArrayOp → Option ArrayOp
  | some (.word w) => some (.word { w with discard := true })
  | x => x

/-- A sector closed with its fault flag as it was, `b` more bytes of it dead (R93, R106, R114). -/
def SectorEntry.closed (b : Nat) (e : SectorEntry) : SectorEntry :=
  { e with state := .full, appendOffset := none, dead := e.dead + b }

/-- The Log Writer after the host lane has been abandoned (R106; log 15). -/
def LogWriter.abandoned (w : LogWriter) (op : Option ArrayOp) (hasWords : Bool) : LogWriter :=
  { w with
    openAt := if hasWords then none else w.openAt
    point := (match w.point with
      | .host => match op with
        | some (.word _) => .host
        | some (.read _) | none => .free
      | .opening (some .host) done => if done then .free else .opening none false
      | p => p)
    cur := if w.point = .host then none else w.cur
    hostLane := none
    hostFailures := 0
    placement := [] }

/-- The open sector is closed, with the bytes begun counted dead, if it holds words of the host record or run. -/
def State.closedForHost (s : State) : State :=
  match s.lw.openAt with
  | some o =>
    if s.hostHasWords then (s.closeSector o.sector false s.begunBytes).modWriter (fun w => { w with openAt := none }) else s
  | none => s

/-- The Sector Table after `closedForHost`. -/
def State.tableForHost (s : State) : List SectorEntry :=
  match s.lw.openAt with
  | some o => if s.hostHasWords then s.sm.table.modify o.sector (SectorEntry.closed s.begunBytes) else s.sm.table
  | none => s.sm.table

theorem State.closedForHost_eq (s : State) : s.closedForHost = { s with
    sm := { s.sm with table := s.tableForHost }
    lw := { s.lw with openAt := if s.hostHasWords then none else s.lw.openAt } } := by
  rw [State.closedForHost, State.tableForHost]
  cases hopen : s.lw.openAt with
  | none =>
    have hsame : { s.lw with openAt := none } = s.lw := by rw [← hopen]
    rw [ite_self, hsame]
  | some o =>
    by_cases hwords : s.hostHasWords = true
    · simp only [hwords, if_true, State.closeSector, State.modSector, State.modWriter, Bool.or_false]
      rfl
    · have hsame : { s.lw with openAt := some o } = s.lw := by rw [← hopen]
      simp only [hwords, Bool.false_eq_true, if_false, hsame]

/-- Only a record or run in progress has words of the host lane in the open sector. -/
theorem State.hostHasWords_host (h : s.lw.point ≠ .host) : s.hostHasWords = false := by
  rw [State.hostHasWords]
  cases hpoint : s.lw.point with
  | host => exact absurd hpoint h
  | free | opening _ _ | relocation => rfl

theorem State.closedForHost_none (h : s.lw.point ≠ .host) : s.closedForHost = s := by
  rw [State.closedForHost]
  cases s.lw.openAt with
  | none => rfl
  | some o => exact if_neg (by rw [State.hostHasWords_host h]; exact Bool.false_ne_true)

theorem State.abandonHost_unfold (s : State) : s.abandonHost = State.emptyHost (match s.lw.point with
    | .host => (s.closedForHost.dropWord).modWriter (fun w => { w with cur := none })
    | .opening _ _ => s.freeOpening
    | .free | .relocation => s) := rfl

theorem State.tableForHost_none (h : s.lw.point ≠ .host) : s.tableForHost = s.sm.table := by
  rw [State.tableForHost]
  cases s.lw.openAt with
  | none => rfl
  | some o => exact if_neg (by rw [State.hostHasWords_host h]; exact Bool.false_ne_true)

/-- A record's word is withdrawn, or its outcome will be discarded (R91; log 15). -/
theorem State.dropWord_eq (s : State) : s.dropWord = { s with
    arr := { s.arr with word := none, op := discarded s.arr.op }
    lw := { s.lw with
      point := match s.arr.op with
        | some (.word _) => s.lw.point
        | some (.read _) | none => .free } } := by
  rw [State.dropWord]
  rcases hop : s.arr.op with _ | ⟨r | w⟩
  · have hsame : { s.arr with word := none, op := none } = { s.arr with word := none } := by rw [← hop]
    exact congrArg (fun a => { s with arr := a, lw := { s.lw with point := .free } }) hsame.symm
  · have hsame : { s.arr with word := none, op := some (.read r) } = { s.arr with word := none } := by rw [← hop]
    exact congrArg (fun a => { s with arr := a, lw := { s.lw with point := .free } }) hsame.symm
  · rfl

/-- What the abandonment of the host lane leaves (R106, R114). -/
theorem State.abandonHost_eq (s : State) : s.abandonHost = { s with
    lw := s.lw.abandoned s.arr.op s.hostHasWords
    arr := if s.lw.point = .host then { s.arr with word := none, op := discarded s.arr.op } else s.arr
    sm := { s.sm with hostStall := false, table := s.tableForHost } } := by
  rw [State.abandonHost_unfold]
  unfold LogWriter.abandoned
  cases hpoint : s.lw.point with
  | host =>
    simp only [State.closedForHost_eq, State.dropWord_eq, hpoint, if_true]
    rfl
  | free | relocation =>
    have hother : s.lw.point ≠ .host := by rw [hpoint]; exact AppendPoint.noConfusion
    simp only [State.hostHasWords_host hother, State.tableForHost_none hother]
    simp only [State.emptyHost, State.modWriter, State.clearStall, State.modManager, Bool.false_eq_true, if_false, reduceCtorEq,
      hpoint]
  | opening l done =>
    have hother : s.lw.point ≠ .host := by rw [hpoint]; exact AppendPoint.noConfusion
    simp only [State.hostHasWords_host hother, State.tableForHost_none hother]
    rcases l with _ | ⟨_ | _⟩
    all_goals
      simp only [State.freeOpening, hpoint, State.emptyHost, State.modWriter, State.clearStall, State.modManager,
        Bool.false_eq_true, if_false, reduceCtorEq]

/-! ## The expiry -/

/-- Replies leave everything but the link and the Request Table. -/
theorem State.onlyReplies.eq {s t : State} {l : List (Byte × List Byte)} (h : s.onlyReplies l t) :
    ∃ link req, t = { s with link := link, req := req } :=
  ⟨t.link, t.req, (congrArg (fun v : State => { v with link := t.link, req := t.req }) h.2.2).trans rfl⟩

theorem exec_holdTimerExpiry (hheld : s.held = false) (htimer : s.sup.holdTimer = true) :
    exec .holdTimerExpiry s = .next s.holdExpires.settle :=
  congrArg Host.Outcome.next ((State.unlessHeld_runs hheld _).trans (if_pos htimer))

/-- Settles O55: the queue fails first, then the host lane is abandoned. -/
theorem holdTimerExpires : Obligations.HoldTimerExpires := by
  intro s hheld htimer hasWords begun
  have hwords : hasWords = s.hostHasWords := by
    cases hpoint : s.lw.point <;> cases hcur : s.lw.cur <;> simp only [hasWords, State.hostHasWords, hpoint, hcur]
  have hbegun : begun = s.begunBytes := by
    cases hcur : s.lw.cur <;> simp only [begun, State.begunBytes, hcur]
  clear_value hasWords begun
  subst hwords hbegun
  let base : State := { s with sup := { s.sup with holdTimer := false } }
  have hfails := State.failQueue_replies (st := .supplyLow) (status := 15) rfl base
  obtain ⟨link, req, hfailed⟩ := hfails.eq
  have hexec := exec_holdTimerExpiry hheld htimer
  have hexpires : s.holdExpires = (base.failQueue .supplyLow).abandonHost := rfl
  rw [hexpires, State.abandonHost_eq, hfailed] at hexec
  rw [hfailed] at hfails
  refine ⟨_, hexec, State.queueFails_of rfl rfl (hfails.repliedAll rfl rfl rfl rfl) rfl rfl, rfl, hfails.notices, ?_, ?_, ?_, rfl⟩
  · rfl
  · rfl
  · rfl

end Sys2Proof.Machine
end

section
/-! PROOFS. A relocation dropped, a media fault of the host lane, the stalls, and their relief (R25, R56, R92, R93, R96, R97,
R99, R103, R104, R126). -/

namespace Sys2Proof.Machine

variable {s : State}

/-! ## The device state after a fault (R137) -/

/-- The device state that a fault leaves, and the notices: those of a change to READ_ONLY, or no change. -/
def State.faulted (s : State) (falls : Prop) [Decidable falls] : State :=
  { s with
    link := { s.link with notices := if falls then joinNotice .state s.link.notices else s.link.notices }
    dev := { s.dev with state := if falls then .readOnly else s.dev.state } }

theorem State.toReadOnly_faulted (s : State) :
    s.toReadOnly = s.faulted (s.dev.state = .online ∨ s.dev.state = .draining) := by
  rw [State.toReadOnly_eq, State.faulted]
  by_cases h : s.dev.state = .online ∨ s.dev.state = .draining
  · simp only [h, if_true]
  · simp only [h, if_false]

theorem State.hostFaultState_faulted (s : State) : s.hostFaultState = s.faulted (s.dev.state = .online) := by
  have hother : s.dev.state ≠ .online → s = s.faulted (s.dev.state = .online) := fun hne => by
    rw [State.faulted, if_neg hne, if_neg hne]
  rw [State.hostFaultState]
  cases hstate : s.dev.state with
  | online =>
    simp only [State.setDevice_ne (by rw [hstate]; decide : s.dev.state ≠ .readOnly)]
    rfl
  | mounting | unformatted | formatting | readOnly | draining =>
    rw [hstate] at hother
    exact hother (by decide)

/-! ## The relocation record is dropped (R104, R126, R135) -/

/-- The state after the drop, the TIDY not answered and the device state as it was. -/
def State.withDropped (s : State) : State :=
  { s with
    lw := { s.lw with relocLane := none, relocFailures := 0 }
    sm := { s.sm with engine := .abandoned, walk := none, relocStall := false, tidy := none } }

/-- The reply that a dropped relocation brings to an active TIDY (R135). -/
def dropReplies (tidy : Option Tidy) : List (Byte × List Byte) :=
  match tidy with
  | some t => [(t.tag, [16, BitVec.ofNat 8 t.drained])]
  | none => []

theorem State.dropRelocation_replies (s : State) : ∃ link req,
    s.withDropped.onlyReplies (dropReplies s.sm.tidy) { s.withDropped with link := link, req := req }
    ∧ s.dropRelocation
      = State.faulted { s.withDropped with link := link, req := req } (s.dev.state = .online ∨ s.dev.state = .draining) := by
  have hanswer : s.withDropped.onlyReplies (dropReplies s.sm.tidy) (match s.sm.tidy with
      | some t => s.withDropped.answer t.tag .mediaFault (le 1 t.drained)
      | none => s.withDropped) := by
    cases s.sm.tidy with
    | none => exact s.withDropped.onlyReplies_nil
    | some t => exact s.withDropped.answer_onlyReplies t.tag .mediaFault (le 1 t.drained)
  obtain ⟨link, req, heq⟩ := hanswer.eq
  have hdrop : s.dropRelocation = State.toReadOnly (match s.sm.tidy with
      | some t => s.withDropped.answer t.tag .mediaFault (le 1 t.drained)
      | none => s.withDropped) := rfl
  rw [heq] at hanswer hdrop
  exact ⟨link, req, hanswer, hdrop.trans (State.toReadOnly_faulted _)⟩

/-- A dropped relocation is what `dropsRelocation` says (R104, R126). -/
theorem State.dropRelocation_drops (s : State) : s.dropsRelocation s.dropRelocation := by
  obtain ⟨link, req, hreplies, hdrop⟩ := s.dropRelocation_replies
  rw [hdrop]
  have hnotices : link.notices = s.link.notices := hreplies.notices
  refine ⟨rfl, rfl, hreplies.repliedAll rfl rfl rfl rfl, ?_, rfl, rfl⟩
  rw [← hnotices]
  rfl

/-! ## The media fault of the host lane (R56, R103, R126) -/

/-- The state whose host lane has been emptied (R97, R103). -/
def State.hostEmptied (s : State) : State :=
  { s with
    lw := { s.lw with hostLane := none, hostFailures := 0, placement := [] }
    sm := { s.sm with hostStall := false } }

theorem State.emptyHost_eq (s : State) : s.emptyHost = s.hostEmptied := rfl

/-- A media fault of the host lane is what `hostFails` says (R56, R103). -/
theorem State.hostMediaFault_fails (s : State) : s.hostFails s.hostMediaFault := by
  have hreplies := State.failQueue_replies (st := .mediaFault) (status := 16) rfl s.hostEmptied
  obtain ⟨link, req, hfailed⟩ := hreplies.eq
  rw [hfailed] at hreplies
  have hnotices : link.notices = s.link.notices := hreplies.notices
  rw [State.hostMediaFault, State.emptyHost_eq, hfailed, State.hostFaultState_faulted]
  refine ⟨rfl, rfl, State.queueFails_of rfl rfl (hreplies.repliedAll rfl rfl rfl rfl) rfl rfl, rfl, ?_, rfl, rfl⟩
  rw [← hnotices]
  rfl

/-! ## Relief (R126) -/

theorem State.relieve_rests (hplace : s.unplaceable = false) (hrelief : s.beyondRelief = false) : s.relieve = s := by
  simp only [State.relieve, hplace, hrelief, Bool.false_eq_true, if_false]

theorem State.relieve_faults (hplace : s.unplaceable = false) (hrelief : s.beyondRelief = true) :
    s.relieve = s.hostMediaFault := by
  simp only [State.relieve, hplace, hrelief, Bool.false_eq_true, if_false, if_true]

/-- After a drop the engine is abandoned, so that a host stall is beyond relief (R126). -/
theorem State.beyondRelief_dropRelocation (hactive : s.storeActive = true) : s.dropRelocation.beyondRelief = s.sm.hostStall := by
  obtain ⟨link, req, -, hdrop⟩ := s.dropRelocation_replies
  have hstill : s.dropRelocation.storeActive = true := by
    rw [hdrop, State.storeActive_iff]
    rw [State.storeActive_iff] at hactive
    by_cases hfalls : s.dev.state = .online ∨ s.dev.state = .draining
    · exact .inr (.inl (if_pos hfalls))
    · exact .inr (.inl ((if_neg hfalls).trans (hactive.elim (fun h => absurd (.inl h) hfalls)
        fun h => h.elim id fun h => absurd (.inr h) hfalls)))
  rw [State.beyondRelief, hstill, hdrop]
  exact (Bool.and_true _).trans (Bool.true_and _)

theorem State.relieve_drops (hplace : s.unplaceable = true) (hstall : s.sm.hostStall = false) :
    s.relieve = s.dropRelocation := by
  have hactive : s.storeActive = true := by
    simp only [State.unplaceable, Bool.and_eq_true] at hplace
    exact hplace.1.1.1
  simp only [State.relieve, hplace, if_true, State.beyondRelief_dropRelocation hactive, hstall, Bool.false_eq_true, if_false]

theorem State.relieve_dropsFaults (hplace : s.unplaceable = true) (hstall : s.sm.hostStall = true) :
    s.relieve = s.dropRelocation.hostMediaFault := by
  have hactive : s.storeActive = true := by
    simp only [State.unplaceable, Bool.and_eq_true] at hplace
    exact hplace.1.1.1
  simp only [State.relieve, hplace, if_true, State.beyondRelief_dropRelocation hactive, hstall]

end Sys2Proof.Machine
end

section
/-! PROOFS. Stalls are found, and a grant begins a record or opens a sector (R4, R25, R92, R93, R96, R97, R99, R126). -/

namespace Sys2Proof.Machine

variable {s : State}

/-! ## Stalls (R97) -/

theorem AppendPoint.lane_host {p : AppendPoint} : p.lane = some .host ↔ p = .host ∨ ∃ done, p = .opening (some .host) done := by
  cases p <;> simp [AppendPoint.lane]

theorem AppendPoint.lane_relocation {p : AppendPoint} :
    p.lane = some .relocation ↔ p = .relocation ∨ ∃ done, p = .opening (some .relocation) done := by
  cases p <;> simp [AppendPoint.lane]

/-- A lane that holds a record is stalled when it is not granted, its record does not fit, and it may open no sector. -/
theorem State.stalled_iff {l : Lane} : s.stalled l = true
    ↔ s.lw.point.lane ≠ some l ∧ ∃ b, s.laneNeeds l = some b ∧ ¬ s.fits b = true ∧ ¬ s.mayOpen l = true := by
  rw [State.stalled]
  cases s.laneNeeds l with
  | none => simp
  | some b => simp [and_assoc]

theorem exists_and_map_eq {α β : Type} {p : α → Prop} {f : α → β} {q : β → Prop} :
    (∃ b, (∃ a, p a ∧ f a = b) ∧ q b) ↔ ∃ a, p a ∧ q (f a) := by
  constructor
  · rintro ⟨_, ⟨a, ha, rfl⟩, hq⟩
    exact ⟨a, ha, hq⟩
  · rintro ⟨a, ha, hq⟩
    exact ⟨_, ⟨a, ha, rfl⟩, hq⟩

theorem State.stalled_host : s.stalled .host = true
    ↔ ¬ (s.lw.point = .host ∨ ∃ done, s.lw.point = .opening (some .host) done)
      ∧ ∃ h, s.lw.hostLane = some h ∧ ¬ (∃ o, s.lw.openAt = some o ∧ o.offset + h.total ≤ 32768) ∧ s.count .erased ≤ 2 := by
  simp only [State.stalled_iff, ne_eq, AppendPoint.lane_host, State.laneNeeds, State.fits_iff, State.mayOpen, decide_eq_true_eq,
    Nat.not_lt, Option.map_eq_some_iff, exists_and_map_eq]

theorem State.stalled_relocation : s.stalled .relocation = true
    ↔ ¬ (s.lw.point = .relocation ∨ ∃ done, s.lw.point = .opening (some .relocation) done)
      ∧ ∃ r, s.lw.relocLane = some r ∧ ¬ (∃ o, s.lw.openAt = some o ∧ o.offset + r.record.bytes ≤ 32768)
        ∧ s.count .erased = 0 := by
  simp only [State.stalled_iff, ne_eq, AppendPoint.lane_relocation, State.laneNeeds, State.fits_iff, State.mayOpen,
    decide_eq_true_eq, Nat.not_le, Nat.lt_one_iff, Option.map_eq_some_iff, exists_and_map_eq]

theorem State.noErase_iff : s.noErase = true ↔ s.count .stale = 0 ∧ s.count .erasing = 0 := by
  rw [State.noErase, Bool.and_eq_true, beq_iff_eq, beq_iff_eq]

theorem State.unplaceable_iff : s.unplaceable = true
    ↔ s.storeActive = true ∧ s.sm.relocStall = true ∧ s.stalled .relocation = true ∧ s.noErase = true := by
  simp only [State.unplaceable, Bool.and_eq_true, and_assoc]

theorem State.beyondRelief_iff : s.beyondRelief = true ↔ s.storeActive = true ∧ s.sm.hostStall = true
    ∧ (s.sm.engine = .abandoned ∨ (s.sm.engine = .idle ∧ s.victim? = none ∧ s.noErase = true)) := by
  simp only [State.beyondRelief, Bool.and_eq_true, Bool.or_eq_true, beq_iff_eq, Option.isNone_iff_eq_none, and_assoc]

/-! ## The grant (R93, R96) -/

theorem State.arbitrate_rests (h : s.lw.point ≠ .free ∨ s.sup.condition = .hold ∨ s.granted = none) :
    s.arbitrate = s.findStalls := by
  by_cases hfree : s.lw.point = .free ∧ s.sup.condition = .normal
  · have hnone : s.findStalls.granted = none := by
      obtain ⟨hpoint, hnormal⟩ := hfree
      refine (h.resolve_left (fun hne => hne hpoint)).resolve_left fun hhold => ?_
      rw [hnormal] at hhold
      cases hhold
    refine (if_pos hfree).trans ?_
    rw [hnone]
  · exact if_neg hfree

theorem State.arbitrate_grants {l : Lane} (hpoint : s.lw.point = .free) (hnormal : s.sup.condition = .normal)
    (hgranted : s.granted = some l) : s.arbitrate = s.findStalls.grant l := by
  have hsame : s.findStalls.granted = some l := hgranted
  refine (if_pos ⟨hpoint, hnormal⟩).trans ?_
  rw [hsame]

/-- The stalls once a lane has been granted (R97). -/
def State.stallsFor (s : State) (l : Lane) : SectorManager :=
  { s.findStalls.sm with
    hostStall := s.findStalls.sm.hostStall && decide (l ≠ .host)
    relocStall := s.findStalls.sm.relocStall && decide (l ≠ .relocation) }

theorem State.clearStall_eq (l : Lane) : s.findStalls.clearStall l = { s with sm := s.stallsFor l } := by
  cases l with
  | host => simp [State.clearStall, State.stallsFor, State.modManager, State.findStalls]
  | relocation => simp [State.clearStall, State.stallsFor, State.modManager, State.findStalls]

/-- The Directory once a record of the key has begun (R25). -/
def State.countedCopy (s : State) (k : Key) : Directory :=
  match s.entry k with
  | some e => { s.dir with entries := Machine.putEntry { e with flashCopies := e.flashCopies + 1 } s.dir.entries }
  | none => s.dir

theorem State.copyBegun_eq (s : State) (k : Key) : s.copyBegun k = { s with dir := s.countedCopy k } := by
  rw [State.copyBegun, State.countedCopy]
  cases s.entry k <;> rfl

section Grants
variable {l : Lane} {b : Nat} (hneeds : s.laneNeeds l = some b)
include hneeds

theorem State.grant_begins (hfits : s.fits b = true) :
    s.findStalls.grant l = State.beginLane l { s with sm := s.stallsFor l } := by
  simp only [State.grant, State.clearStall_eq]
  have hsame : State.laneNeeds { s with sm := s.stallsFor l } l = some b := by rw [← hneeds]; cases l <;> rfl
  simp only [hsame]
  exact if_pos hfits

theorem State.grant_opens (hfits : ¬ s.fits b = true) :
    s.findStalls.grant l = State.openFor l (State.closeForGrant { s with sm := s.stallsFor l }) := by
  simp only [State.grant, State.clearStall_eq]
  have hsame : State.laneNeeds { s with sm := s.stallsFor l } l = some b := by rw [← hneeds]; cases l <;> rfl
  simp only [hsame]
  exact if_neg hfits

end Grants

theorem State.beginHost_front {e : QueueEntry} {rest : List QueueEntry} (h : s.wq.entries = e :: rest) : s.beginHost 0 = { s with
    dir := s.countedCopy e.key
    wq := { s.wq with entries := { e with state := if e.state = .waiting then .programming else e.state } :: rest }
    lw := { s.lw with
      point := .host
      placement := if e.group.isSome then s.lw.placement ++ [s.appendOffset] else s.lw.placement
      cur := some { image := e.record.words, done := 0, begun := 0, member := 0 } } } := by
  simp only [State.beginHost, h, List.getElem?_cons_zero, State.copyBegun_eq]
  simp only [State.modEntryAt, State.modQueue, State.modWriter, h, List.modify_zero_cons]

theorem State.beginRelocation_eq {r : RelocRecord} (h : s.lw.relocLane = some r) : s.beginRelocation = { s with
    dir := s.countedCopy r.record.key
    lw := { s.lw with point := .relocation, cur := some { image := r.record.words, done := 0, begun := 0, member := 0 } } } := by
  have hbegins : s.beginRelocation = (s.copyBegun r.record.key).modWriter (fun l =>
      { l with point := .relocation, cur := some { image := r.record.words, done := 0, begun := 0, member := 0 } }) := by
    simp only [State.beginRelocation, h]
  rw [hbegins, State.copyBegun_eq]
  rfl

/-- The Sector Table with the open sector, if any, closed for a grant (R93). -/
def State.closedTable (s : State) : List SectorEntry :=
  match s.lw.openAt with
  | some o => s.sm.table.modify o.sector (fun e => { e with state := .full, appendOffset := none })
  | none => s.sm.table

theorem State.closeForGrant_eq (s : State) : s.closeForGrant
    = { s with sm := { s.sm with table := s.closedTable }, lw := { s.lw with openAt := none } } := by
  rw [State.closeForGrant, State.closedTable]
  cases hopen : s.lw.openAt with
  | none =>
    have hsame : { s.lw with openAt := none } = s.lw := by rw [← hopen]
    rw [hsame]
  | some o =>
    simp only [State.closeSector, State.modSector, State.modWriter, Bool.or_false, Nat.add_zero]

theorem State.openFor_eq {n gen : Nat} (l : Lane) (htable : lowestErased s.sm.table = some n)
    (hgen : s.lw.genCounter = some gen) : s.openFor l = { s with
    sm := { s.sm with
      table := s.sm.table.modify n (fun e => { e with state := .opened, openGen := some gen, appendOffset := some 16 }) }
    lw := { s.lw with
      openAt := some { sector := n, offset := 16 }, point := .opening (some l) false, genCounter := some (gen + 1) }
    arr := { s.arr with
      word := some { sector := n, index := 1, data := openWord gen, role := .openWord, discard := false } } } := by
  simp only [State.openFor, htable, hgen]
  rfl

/-- The record bytes that the granted lane needs, as the statement gives them. -/
theorem State.laneNeeds_of {l : Lane} {b : Nat} (h : (l = .host ∧ ∃ h, s.lw.hostLane = some h ∧ h.total = b)
    ∨ (l = .relocation ∧ ∃ r, s.lw.relocLane = some r ∧ r.record.bytes = b)) : s.laneNeeds l = some b := by
  rcases h with ⟨rfl, h, hlane, rfl⟩ | ⟨rfl, r, hlane, rfl⟩
  · rw [State.laneNeeds, hlane]
    rfl
  · rw [State.laneNeeds, hlane]
    rfl

/-- Settles O59: stalls are found first, the grant is `grant_begins` or `grant_opens`, relief is the two faults. -/
theorem stallsRelieved : Obligations.StallsRelieved := by
  refine ⟨fun s => ⟨s.findStalls, rfl, ?_, ?_, State.arbitrate_rests, fun l b hpoint hnormal hgranted hlane =>
    ⟨fun hfits hhost e rest hqueue => ?_, fun hfits hreloc r hr => ?_, fun n gen hfits => ?_⟩⟩, fun s => ?_⟩
  · rw [← State.stalled_host]
    exact Bool.or_eq_true _ _ ▸ Iff.rfl
  · rw [← State.stalled_relocation]
    exact Bool.or_eq_true _ _ ▸ Iff.rfl
  · rw [State.arbitrate_grants hpoint hnormal hgranted,
      State.grant_begins (State.laneNeeds_of hlane) (State.fits_iff.2 hfits), hhost]
    exact State.beginHost_front (s := { s with sm := s.stallsFor .host }) hqueue
  · rw [State.arbitrate_grants hpoint hnormal hgranted,
      State.grant_begins (State.laneNeeds_of hlane) (State.fits_iff.2 hfits), hreloc]
    exact State.beginRelocation_eq (s := { s with sm := s.stallsFor .relocation }) hr
  · intro closed htable hgen
    have hclosed : closed = s.closedTable := by
      cases hopen : s.lw.openAt <;> simp only [closed, State.closedTable, hopen]
    clear_value closed
    subst hclosed
    rw [State.arbitrate_grants hpoint hnormal hgranted,
      State.grant_opens (State.laneNeeds_of hlane) (mt State.fits_iff.1 hfits), State.closeForGrant_eq]
    exact State.openFor_eq l htable hgen
  · intro active noErase relocGranted unplaceable beyond
    have hbeyond : beyond ↔ s.beyondRelief = true := by
      rw [State.beyondRelief_iff, State.storeActive_iff, State.noErase_iff]
    have hunplaceable : unplaceable ↔ s.unplaceable = true := by
      rw [State.unplaceable_iff, State.storeActive_iff, State.noErase_iff, State.stalled_relocation]
      simp only [unplaceable, active, noErase, relocGranted, not_exists, not_and, Nat.not_le]
      constructor
      · rintro ⟨hactive, hstall, hgranted, herased, hnone, r, hr, hfits⟩
        exact ⟨hactive, hstall, ⟨hgranted, r, hr, hfits, herased⟩, hnone⟩
      · rintro ⟨hactive, hstall, ⟨hgranted, r, hr, hfits, herased⟩, hnone⟩
        exact ⟨hactive, hstall, hgranted, herased, hnone, r, hr, hfits⟩
    rw [hbeyond, hunplaceable, Bool.not_eq_true, Bool.not_eq_true]
    refine ⟨State.relieve_rests, fun hplace hrelief => ?_, fun hplace hstall => ?_, fun hplace hstall => ?_⟩
    · rw [State.relieve_faults hplace hrelief]
      exact s.hostMediaFault_fails
    · rw [State.relieve_drops hplace hstall]
      exact s.dropRelocation_drops
    · rw [State.relieve_dropsFaults hplace hstall]
      exact ⟨_, s.dropRelocation_drops, State.hostMediaFault_fails _⟩

end Sys2Proof.Machine
end

section
/-! PROOFS. The end of a word program, and its failure (R56, R91, R99 to R104, R106, R114, R146). -/

namespace Sys2Proof.Machine

variable {s : State} {w : WordReq}

/-! ## The word and the array -/

/-- The state whose word program has just ended, its outcome not yet taken by the Log Writer (R100). -/
def State.wordDone (s : State) (w : WordReq) (verified : Bool) : State :=
  { s.withArray (programIn w.sector w.index w.data w.role verified (s.flash, s.seeds)) with arr := { s.arr with op := none } }

theorem State.endWord_eq (s : State) (w : WordReq) (verified : Bool) : s.endWord w verified
    = (s.wordDone w verified).wordEnded w (verified && (s.flash.word w.sector w.index).isBlank) := by
  rw [State.endWord, State.programWord_eq]
  rfl

/-- The commands that end a word program, verified or not (R99, R100). -/
theorem exec_wordEnds {c : Instr} {verified : Bool} (hheld : s.held = false) (hop : s.arr.op = some (.word w))
    (hsector : w.sector < 128) (hindex : w.index < 4096)
    (h : c = .wordProgramComplete verified ∨ (c = .wordProgramTimeout ∧ verified = false)) :
    exec c s = .next (s.endWord w verified).settle := by
  have hnot : ¬ s.held = true := by rw [hheld]; exact Bool.false_ne_true
  have hexists : wordExists w.sector w.index = true := decide_eq_true ⟨hsector, hindex⟩
  rcases h with rfl | ⟨rfl, rfl⟩
  · refine (if_neg hnot).trans ?_
    simp only [hop]
    exact if_pos hexists
  · refine (if_neg hnot).trans ?_
    simp only [hop]
    exact if_pos hexists

theorem State.wordEnded_discard (hdiscard : w.discard = true) (success : Bool) :
    s.wordEnded w success = { s with lw := { s.lw with point := .free } } := by
  simp only [State.wordEnded, hdiscard, if_true]
  rfl

/-! ## The open sector is closed (R101) -/

/-- The state after a failed program has closed the open sector `o` (R101, R114). -/
def State.withClosed (s : State) (o : OpenSector) : State :=
  { s with
    lw := { s.lw with
      openAt := none, point := .free, cur := none, placement := if s.lw.point = .host then [] else s.lw.placement }
    sm := { s.sm with table := s.sm.table.modify o.sector (fun e =>
      { e with state := .full, appendOffset := none, fault := true, dead := e.dead + s.begunBytes }) } }

theorem State.closeFailed_eq {o : OpenSector} (hopen : s.lw.openAt = some o) : s.closeFailed = s.withClosed o := by
  simp only [State.closeFailed, hopen, State.closeSector, State.modSector, State.modWriter, Bool.or_true]
  rfl

/-- What the failure of a word is to its lane, when a sector is open (R101, R103, R104). -/
theorem State.wordEnded_failed {o : OpenSector} (hdiscard : w.discard = false) (hopen : s.lw.openAt = some o) :
    s.wordEnded w false = (match s.lw.point.lane with
      | some l => (s.withClosed o).laneFailed l
      | none => s.withClosed o) := by
  cases hlane : s.lw.point.lane <;>
    simp only [State.wordEnded, hdiscard, Bool.false_eq_true, if_false, State.programFailed, State.closeFailed_eq hopen, hlane]

theorem State.laneFailed_host (h : s.lw.hostFailures < 2) :
    s.laneFailed .host = { s with lw := { s.lw with hostFailures := s.lw.hostFailures + 1 } } :=
  if_neg (show ¬ 3 ≤ s.lw.hostFailures + 1 by omega)

theorem State.laneFailed_hostLast (h : 2 ≤ s.lw.hostFailures) : s.laneFailed .host = s.hostMediaFault :=
  if_pos (show 3 ≤ s.lw.hostFailures + 1 by omega)

theorem State.laneFailed_relocation (h : s.lw.relocFailures < 2) :
    s.laneFailed .relocation = { s with lw := { s.lw with relocFailures := s.lw.relocFailures + 1 } } :=
  if_neg (show ¬ 3 ≤ s.lw.relocFailures + 1 by omega)

theorem State.laneFailed_relocationLast (h : 2 ≤ s.lw.relocFailures) : s.laneFailed .relocation = s.dropRelocation :=
  if_pos (show 3 ≤ s.lw.relocFailures + 1 by omega)

/-- Settles O49: a failed word closes the sector, and then its lane counts the failure or is at its third. -/
theorem wordProgramFails : Obligations.WordProgramFails := by
  intro s c w hheld hop hsector hindex hc
  obtain ⟨verified, hends, hfails⟩ : ∃ verified,
      (c = .wordProgramComplete verified ∨ (c = .wordProgramTimeout ∧ verified = false))
      ∧ (verified && (s.flash.word w.sector w.index).isBlank) = false := by
    rcases hc with rfl | rfl | ⟨rfl, hblank⟩
    · exact ⟨false, .inl rfl, rfl⟩
    · exact ⟨false, .inr ⟨rfl, rfl⟩, rfl⟩
    · exact ⟨true, .inl rfl, hblank⟩
  have hexec := exec_wordEnds hheld hop hsector hindex hends
  rw [State.endWord_eq, hfails] at hexec
  let p := programIn w.sector w.index w.data w.role verified (s.flash, s.seeds)
  have hflash : ((s.wordDone w verified).wordEnded w false).flash = p.1 := by simp [State.wordDone, State.withArray, p]
  have hseeds : ((s.wordDone w verified).wordEnded w false).seeds = p.2 := by simp [State.wordDone, State.withArray, p]
  refine ⟨_, hexec, fun sector i _ hi hne => ?_, fun hwritten => ?_, fun hdiscard => ?_,
    fun o hdiscard hopen => ?_⟩
  · rw [hflash]
    exact programIn_other hi hne
  · rw [hflash, hseeds]
    have hsame : p = (s.flash, s.seeds) := programIn_written hwritten
    rw [hsame]
    exact ⟨rfl, rfl⟩
  · rw [State.wordEnded_discard hdiscard]
    rfl
  · intro begun lw' base host reloc
    have hbegun : begun = s.begunBytes := by
      cases hcur : s.lw.cur <;> simp only [begun, State.begunBytes, hcur]
    have hbase : base = (s.wordDone w verified).withClosed o := by
      simp only [base, hflash, hseeds, hbegun]
      rfl
    have hended := State.wordEnded_failed (s := s.wordDone w verified) hdiscard hopen
    have hhost : host ↔ s.lw.point.lane = some .host := AppendPoint.lane_host.symm
    have hreloc : reloc ↔ s.lw.point.lane = some .relocation := AppendPoint.lane_relocation.symm
    have hlane : (s.wordDone w verified).lw.point.lane = s.lw.point.lane := rfl
    rw [hlane] at hended
    rw [hhost, hreloc, hbase]
    refine ⟨fun hl hfew => ?_, fun hl hmany => ?_, fun hl hfew => ?_, fun hl hmany => ?_, fun hnot hnot' => ?_⟩
    · rw [hended, hl]
      exact State.laneFailed_host (s := (s.wordDone w verified).withClosed o) hfew
    · rw [hended, hl]
      simp only [State.laneFailed_hostLast (s := (s.wordDone w verified).withClosed o) hmany]
      exact State.hostMediaFault_fails _
    · rw [hended, hl]
      exact State.laneFailed_relocation (s := (s.wordDone w verified).withClosed o) hfew
    · rw [hended, hl]
      simp only [State.laneFailed_relocationLast (s := (s.wordDone w verified).withClosed o) hmany]
      exact State.dropRelocation_drops _
    · rw [hended]
      cases hl : s.lw.point.lane with
      | none => rfl
      | some l =>
        cases l with
        | host => exact absurd hl hnot
        | relocation => exact absurd hl hnot'

end Sys2Proof.Machine
end

section
/-! PROOFS. A word program that succeeds, and what the Log Writer begins, gives and is offered next (R25, R47, R59, R91, R92,
R94, R98 to R100, R105, R156). -/

namespace Sys2Proof.Machine

variable {s : State}

/-! ## A word that verifies on a blank word (R100) -/

section Verified
variable {w : WordReq} (hblank : (s.flash.word w.sector w.index).isBlank = true)
include hblank

theorem State.wordDone_verified :
    s.wordDone w true = { s with flash := s.programmed w, arr := { s.arr with op := none } } := by
  rw [State.wordDone, programIn, if_pos hblank]
  rfl

/-- The command that ends a word program in success (R99, R100). -/
theorem exec_wordVerified (hheld : s.held = false) (hop : s.arr.op = some (.word w)) (hsector : w.sector < 128)
    (hindex : w.index < 4096) : exec (.wordProgramComplete true) s
      = .next (State.settle (State.wordEnded w true { s with flash := s.programmed w, arr := { s.arr with op := none } })) := by
  rw [exec_wordEnds hheld hop hsector hindex (.inl rfl), State.endWord_eq, hblank, State.wordDone_verified hblank]
  rfl

end Verified

section Ended
variable {w : WordReq} (hdiscard : w.discard = false)
include hdiscard

theorem State.wordEnded_openWord {l : Option Lane} {done : Bool} (hrole : w.role = .openWord)
    (hpoint : s.lw.point = .opening l done) : s.wordEnded w true
      = { s with lw := { s.lw with point := match l with
          | some l => .opening (some l) true
          | none => .free } } := by
  cases l <;> simp only [State.wordEnded, hdiscard, hrole, hpoint, Bool.false_eq_true, if_false, if_true] <;> rfl

/-- A record's word that is not its last (R99). -/
theorem State.wordEnded_recordWord {c : CurRecord} (hrole : w.role = .firstWord ∨ w.role = .innerWord ∨ w.role = .lastWord)
    (hcur : s.lw.cur = some c) : s.wordEnded w true
      = if c.image.length ≤ c.done + 1 then
          State.recordComplete { s with lw := { s.lw with cur := some { c with done := c.done + 1 } } }
        else { s with lw := { s.lw with cur := some { c with done := c.done + 1 } } } := by
  rcases hrole with hrole | hrole | hrole <;>
    simp only [State.wordEnded, hdiscard, hrole, hcur, Bool.false_eq_true, if_false, if_true] <;> rfl

end Ended

/-! ## What begins next (R25, R92, R98, R105) -/

/-- An entry whose record begins (R47). -/
def QueueEntry.programming (e : QueueEntry) : QueueEntry :=
  { e with state := if e.state = .waiting then .programming else e.state }

/-- The record of the entry at a place of the queue begins (R25, R47, R98, R99). -/
theorem State.beginHost_at {i : Nat} {e : QueueEntry} (h : s.wq.entries[i]? = some e) : s.beginHost i = { s with
    dir := s.countedCopy e.key
    wq := { s.wq with entries := s.wq.entries.modify i QueueEntry.programming }
    lw := { s.lw with
      point := .host
      placement := if e.group.isSome then s.lw.placement ++ [s.appendOffset] else s.lw.placement
      cur := some { image := e.record.words, done := 0, begun := 0, member := i } } } := by
  simp only [State.beginHost, h, State.copyBegun_eq]
  rfl

theorem State.beginNext_hostOpened (hpoint : s.lw.point = .opening (some .host) true) : s.beginNext
    = if s.hostHeldBack then { s with lw := { s.lw with point := .free } } else s.beginHost 0 := by
  simp only [State.beginNext, hpoint]
  rfl

theorem State.beginNext_relocationOpened (hpoint : s.lw.point = .opening (some .relocation) true) :
    s.beginNext = s.beginRelocation := by
  simp only [State.beginNext, hpoint]
  rfl

/-- The next member of a run that keeps the append point (R98). -/
theorem State.beginNext_member {e : QueueEntry} (hpoint : s.lw.point = .host) (hcur : s.lw.cur = none)
    (hnext : s.wq.entries[s.lw.placement.length]? = some e) : s.beginNext
      = if s.lw.placement = [] ∨ (s.wq.frozen = true ∧ e.state = .waiting) then s else s.beginHost s.lw.placement.length := by
  have hmember : s.nextMember = some e := hnext
  simp only [State.beginNext, hpoint, hcur, hmember]

/-- While a record is in progress nothing begins, unless an open word has just completed. -/
theorem State.beginNext_inProgress (hcur : s.lw.cur.isSome = true) (hpoint : ∀ l, s.lw.point ≠ .opening (some l) true) :
    s.beginNext = s := by
  obtain ⟨c, hc⟩ := Option.isSome_iff_exists.1 hcur
  rw [State.beginNext]
  cases h : s.lw.point with
  | free | relocation => rfl
  | host => simp only [hc]
  | opening l done =>
    rcases l with _ | ⟨_ | _⟩ <;> cases done
    case none.false | none.true | some.host.false | some.relocation.false => rfl
    case some.host.true | some.relocation.true => exact absurd h (hpoint _)

theorem State.beginNext_rests
    (h : s.lw.point = .free ∨ s.lw.point = .relocation ∨ ∃ l, s.lw.point = .opening l false) : s.beginNext = s := by
  rcases h with h | h | ⟨l, h⟩
  · simp only [State.beginNext, h]
  · simp only [State.beginNext, h]
  · rcases l with _ | ⟨_ | _⟩ <;> simp only [State.beginNext, h]

/-! ## The next word (R99) -/

theorem ArrayCtl.noWord_iff {a : ArrayCtl} : a.noWord = true ↔ ¬ (a.word.isSome = true ∨ ∃ w, a.op = some (.word w)) := by
  rw [ArrayCtl.noWord, not_or, Bool.and_eq_true, Option.isNone_iff_eq_none, Option.not_isSome_iff_eq_none]
  rcases a.op with _ | ⟨_ | _⟩ <;> simp

theorem CurRecord.role_eq {c : CurRecord} {d : Word} (h : c.image[c.done]? = some d) : c.role c.done
    = if c.done = 0 then .firstWord else if c.done + 1 = c.image.length then .lastWord else .innerWord := by
  obtain ⟨hlt, -⟩ := List.getElem?_eq_some_iff.1 h
  have hlast : c.image.length ≤ c.done + 1 ↔ c.done + 1 = c.image.length := by omega
  simp only [CurRecord.role, hlast]

theorem State.giveWord_gives {c : CurRecord} {o : OpenSector} {d : Word} (hcur : s.lw.cur = some c)
    (hopen : s.lw.openAt = some o) (himage : c.image[c.done]? = some d) (hfree : s.arr.noWord = true) : s.giveWord
      = { s with arr := { s.arr with word := some (WordReq.mk o.sector (o.offset / 8 + c.done) d (c.role c.done) false) } } := by
  simp only [State.giveWord, hcur, hopen, himage, hfree, if_true]
  rfl

theorem State.giveWord_rests (h : s.arr.noWord = false ∨ s.lw.cur = none ∨ s.lw.openAt = none) : s.giveWord = s := by
  rw [State.giveWord]
  cases hcur : s.lw.cur with
  | none => rfl
  | some c =>
    cases hopen : s.lw.openAt with
    | none => rfl
    | some o =>
      have hbusy : s.arr.noWord = false :=
        h.resolve_right (by rw [hcur, hopen]; exact fun h => h.elim (Option.some_ne_none c) (Option.some_ne_none o))
      simp only [hbusy, Bool.false_eq_true, if_false]
      cases c.image[c.done]? <;> rfl

/-! ## The offer (R47, R59, R94) -/

/-- The run at the front of the queue ends with its first group end. -/
theorem runOf_run {body rest : List QueueEntry} {last : QueueEntry} (hbody : ∀ x ∈ body, ∃ g, x.group = some (g, false))
    (hlast : ∃ g, last.group = some (g, true)) : runOf (body ++ last :: rest) = body ++ [last] := by
  induction body with
  | nil =>
    obtain ⟨g, hg⟩ := hlast
    rw [List.nil_append, runOf, hg]
    rfl
  | cons x body ih =>
    obtain ⟨g, hg⟩ := hbody x List.mem_cons_self
    rw [List.cons_append, runOf, hg, ih fun y hy => hbody y (List.mem_cons_of_mem _ hy)]
    rfl

theorem State.offerHost_rests (h : s.lw.hostLane.isSome = true ∨ s.wq.frozen = true
    ∨ ∀ e, s.wq.entries.head? = some e → e.state ≠ .waiting) : s.offerHost = s := by
  rw [State.offerHost]
  cases hlane : s.lw.hostLane with
  | some o => rfl
  | none =>
    cases hqueue : s.wq.entries with
    | nil => rfl
    | cons e rest =>
      rw [hlane, hqueue] at h
      refine if_pos ((h.resolve_left Bool.false_ne_true).imp_right fun hstate => hstate e rfl)

theorem State.offerHost_offers {e : QueueEntry} {rest : List QueueEntry} (hlane : s.lw.hostLane = none)
    (hfrozen : s.wq.frozen = false) (hqueue : s.wq.entries = e :: rest) (hstate : e.state = .waiting) : s.offerHost
      = { s with lw := { s.lw with hostLane := some (HostOffer.mk (if e.group.isSome then runOf (e :: rest) else [e]).length
          ((if e.group.isSome then runOf (e :: rest) else [e]).map (fun q => q.recLen)).sum) } } := by
  have hnot : ¬ (s.wq.frozen = true ∨ e.state ≠ .waiting) := by
    rw [hfrozen]
    exact fun h => h.elim Bool.false_ne_true fun hne => hne hstate
  simp only [State.offerHost, hlane, hqueue]
  exact if_neg hnot

/-- Settles O45: the word and the array first, then each of the Log Writer's decisions. -/
theorem wordProgrammed : Obligations.WordProgrammed := by
  refine ⟨fun s w hheld hop hsector hindex hblank => ⟨_, exec_wordVerified hblank hheld hop hsector hindex, ?_, ?_, ?_, ?_, ?_, ?_⟩,
    fun s => ⟨fun hhold => if_pos hhold, fun hnormal => if_neg (by rw [hnormal]; decide), fun o e rest hpoint hopen hqueue => ?_,
      fun r hpoint hr => ?_, fun o e hpoint hcur hne hopen hnext hgroup => ?_, State.beginNext_inProgress, State.beginNext_rests⟩,
    fun s => ⟨fun c o d hcur hopen himage hfree => ?_, fun hrests => ?_⟩,
    fun s => ⟨State.offerHost_rests, fun hlane hfrozen hfront => ⟨fun e rest hqueue hgroup => ?_,
      fun body last rest hqueue hbody hlast => ?_⟩⟩⟩
  · have hword : wordExists w.sector w.index = true := decide_eq_true ⟨hsector, hindex⟩
    simp only [State.wordEnded_frame]
    exact Flash.word_put hword _
  · intro sector i _ hi hne
    simp only [State.wordEnded_frame]
    exact Flash.word_put_other hi hne _
  · simp only [State.wordEnded_frame]
  · intro hfrees
    cases hdiscard : w.discard with
    | true =>
      rw [State.wordEnded_discard hdiscard]
      exact ⟨rfl, rfl⟩
    | false =>
      obtain ⟨hrole, hpoint⟩ := hfrees.resolve_left (by rw [hdiscard]; exact Bool.false_ne_true)
      rw [State.wordEnded_openWord hdiscard hrole (by exact hpoint)]
      exact ⟨rfl, rfl⟩
  · intro l hdiscard hrole hpoint
    rw [State.wordEnded_openWord hdiscard hrole (by exact hpoint)]
    exact ⟨rfl, rfl⟩
  · intro c hdiscard hrole hcur hmore
    rw [State.wordEnded_recordWord hdiscard hrole (by exact hcur), if_neg (Nat.not_le.2 hmore)]
    exact ⟨rfl, rfl⟩
  · have hback : s.hostHeldBack = true ↔ s.wq.frozen = true ∧ e.state = .waiting := by
      rw [State.hostHeldBack, hqueue, Bool.and_eq_true]
      simp
    have hoffset : s.appendOffset = o.offset := by rw [State.appendOffset, hopen]
    rw [State.beginNext_hostOpened hpoint]
    refine ⟨fun hheld => if_pos (hback.2 hheld), fun hnot => ?_⟩
    rw [if_neg (mt hback.1 hnot), State.beginHost_front hqueue, hoffset]
    rfl
  · rw [State.beginNext_relocationOpened hpoint, State.beginRelocation_eq hr]
    rfl
  · have hoffset : s.appendOffset = o.offset := by rw [State.appendOffset, hopen]
    rw [State.beginNext_member hpoint hcur hnext]
    refine ⟨fun hheld => if_pos (.inr hheld), fun hnot => ?_⟩
    rw [if_neg (not_or.2 ⟨hne, hnot⟩), State.beginHost_at hnext, if_pos hgroup, hoffset, ← hpoint]
    rfl
  · have hnoWord : s.arr.noWord = true := ArrayCtl.noWord_iff.2 hfree
    rw [State.giveWord_gives hcur hopen himage hnoWord, CurRecord.role_eq himage]
  · refine State.giveWord_rests (hrests.imp_left fun hbusy => ?_)
    exact eq_false_of_ne_true fun h => ArrayCtl.noWord_iff.1 h hbusy
  · have hstate : e.state = .waiting := hfront e (by rw [hqueue]; rfl)
    rw [State.offerHost_offers hlane hfrozen hqueue hstate, hgroup]
    rfl
  · obtain ⟨e, tail, hfirst, hgroup⟩ : ∃ e tail, body ++ last :: rest = e :: tail ∧ e.group.isSome = true := by
      cases body with
      | nil => exact ⟨last, rest, rfl, hlast.elim fun g hg => by rw [hg]; rfl⟩
      | cons x body => exact ⟨x, body ++ last :: rest, rfl, (hbody x List.mem_cons_self).elim fun g hg => by rw [hg]; rfl⟩
    have hentries : s.wq.entries = e :: tail := hqueue.trans hfirst
    have hstate : e.state = .waiting := hfront e (by rw [hentries]; rfl)
    rw [State.offerHost_offers hlane hfrozen hentries hstate, if_pos hgroup, ← hfirst, runOf_run hbody hlast, List.length_append]
    rfl

end Sys2Proof.Machine
end

section
/-! PROOFS. A record completes: a lone write, and the members of a run (R26, R27, R48, R49, R53, R71, R99, R114, R157). -/

namespace Sys2Proof.Machine

variable {s : State}

/-! ## A write becomes durable (R26, R27, R48, R49) -/

/-- The state after the queue's front has left it durable: entries, admitted bytes and Sector Table as `x` says. -/
def State.withDurable (s : State) (recLen : Nat) (rest : List QueueEntry) (x : List Entry × Nat × List SectorEntry) : State :=
  { s with
    wq := { s.wq with entries := rest, charged := s.wq.charged - recLen }
    dir := { s.dir with entries := x.1, admitted := x.2.1 }
    sm := { s.sm with table := x.2.2 } }

/-- Entries, admitted bytes and Sector Table of a state. -/
def State.accounts (s : State) : List Entry × Nat × List SectorEntry := (s.dir.entries, s.dir.admitted, s.sm.table)

theorem State.retireDurable_eq (s : State) (d : Option DurablePart) :
    s.retireDurable d = { s with sm := { s.sm with table := retired s.sm.table d } } := by
  cases d <;> rfl

/-- Admitted bytes that fall mark nothing (R38). -/
theorem State.setAdmitted_sub (s : State) (b : Nat) :
    s.setAdmitted (s.dir.admitted - b) = { s with dir := { s.dir with admitted := s.dir.admitted - b } } := by
  rw [State.setAdmitted_eq, State.noticesAfter_le (Nat.sub_le _ _)]

/-- The front of the queue leaves it durable at a place (R26, R48). -/
theorem State.frontDurable_eq {q : QueueEntry} {rest : List QueueEntry} (h : s.wq.entries = q :: rest) (sector offset : Nat) :
    s.frontDurable sector offset = s.withDurable q.recLen rest (durableStep sector s.accounts (q, offset)) := by
  simp only [State.frontDurable, h]
  rw [State.makeDurable, durableStep]
  have hentry : (s.modQueue (fun x => { x with entries := rest })).entry q.key = findEntry q.key s.accounts.1 := rfl
  rw [hentry]
  cases hfind : findEntry q.key s.accounts.1 with
  | none => rfl
  | some e =>
    simp only [State.retireDurable_eq]
    refine (congrArg (State.release q.recLen) (State.setAdmitted_sub _ _)).trans ?_
    cases e.durable <;> rfl

/-- The members of a run leave the queue durable, one behind the other (R27, R49). -/
theorem State.runDurable_eq (sector : Nat) (run : List QueueEntry) : ∀ {s : State} {places : List Nat} {rest : List QueueEntry},
    s.wq.entries = run ++ rest → run.length = places.length →
    s.runDurable sector places = s.withDurable (run.map (fun x => x.recLen)).sum rest
      ((run.zip places).foldl (durableStep sector) s.accounts) := by
  induction run with
  | nil =>
    intro s places rest hqueue hlen
    have hwq : { s.wq with entries := rest } = s.wq := by rw [show rest = s.wq.entries from hqueue.symm]
    rw [List.length_eq_zero_iff.1 hlen.symm]
    exact (congrArg (fun q => { s with wq := q }) hwq).symm
  | cons q run ih =>
    intro s places rest hqueue hlen
    cases places with
    | nil => exact absurd hlen (Nat.succ_ne_zero _)
    | cons o places =>
      rw [State.runDurable, State.frontDurable_eq hqueue sector o, ih (rest := rest) rfl (Nat.succ.inj hlen)]
      simp only [State.withDurable, State.accounts, List.zip_cons_cons, List.foldl_cons, List.map_cons, List.sum_cons, Nat.sub_sub]

/-! ## The replies (R51, R53, R71) -/

/-- The reply of an entry whose record, or whose run, has become durable. -/
def durableReplies (e : QueueEntry) (first count : Nat) : List (Byte × List Byte) :=
  (e.waiter.map (fun tag => (tag, [0] ++ match e.group with
    | none => le 6 e.seq
    | some _ => commitFields count (some first)))).toList

theorem State.durableReply_replies (s : State) (e : QueueEntry) (first count : Nat) :
    s.onlyReplies (durableReplies e first count) (s.durableReply e first count) := by
  rw [State.durableReply, durableReplies]
  cases e.waiter with
  | none => exact s.onlyReplies_nil
  | some tag =>
    cases e.group with
    | none => exact s.answer_onlyReplies tag .ok (le 6 e.seq)
    | some g => exact s.answer_onlyReplies tag .ok (commitFields count (some first))

/-- The fence waiters whose mark has left the queue have left the list, and the hold timer stops with an empty queue. -/
def State.withFencesLeft (s : State) : State :=
  { s with
    wq := { s.wq with fences := fencesLeft s.wq.entries s.wq.fences }
    sup := { s.sup with holdTimer := s.sup.holdTimer && !s.wq.entries.isEmpty } }

theorem State.onlyReplies.withFencesLeft {t : State} {l : List (Byte × List Byte)} (h : s.onlyReplies l t) :
    s.withFencesLeft.onlyReplies l t.withFencesLeft := by
  obtain ⟨hreq, hlink, hframe⟩ := h
  exact ⟨hreq, hlink, congrArg State.withFencesLeft hframe⟩

theorem State.completeFences_replies (s : State) :
    s.withFencesLeft.onlyReplies (fenceReplies s.wq.entries s.wq.fences) s.completeFences.stopHoldTimer := by
  have hreplies := State.answerFences_onlyReplies (fun f => fenceStatus f.failed)
    (s.wq.fences.filter (fun f => !s.wq.entries.any (fun e => e.seq == f.mark)))
    (s.modQueue (fun q => { q with fences := q.fences.filter (fun f => s.wq.entries.any (fun e => e.seq == f.mark)) }))
  have hlist : (s.wq.fences.filter (fun f => !s.wq.entries.any (fun e => e.seq == f.mark))).map
      (fun x => (x.tag, le 1 (fenceStatus x.failed).code)) = fenceReplies s.wq.entries s.wq.fences := by
    refine List.map_congr_left fun x _ => ?_
    cases x.failed <;> rfl
  rw [hlist] at hreplies
  obtain ⟨hreq, hlink, hframe⟩ := hreplies
  rw [State.stopHoldTimer_eq]
  refine ⟨hreq, hlink, ?_⟩
  have hstop := congrArg State.stopHoldTimer hframe
  rw [State.stopHoldTimer_eq, State.stopHoldTimer_eq] at hstop
  exact hstop

/-- What a completion that has left the queue durable brings: its reply, then those of the fences (R48, R49, R53). -/
theorem State.durable_replies (s : State) (e : QueueEntry) (first count : Nat) :
    s.withFencesLeft.onlyReplies (durableReplies e first count ++ fenceReplies s.wq.entries s.wq.fences)
      ((s.durableReply e first count).completeFences).stopHoldTimer := by
  have hreply := s.durableReply_replies e first count
  have hwq : (s.durableReply e first count).wq = s.wq := (congrArg State.wq hreply.2.2).trans rfl
  have hfences := State.completeFences_replies (s.durableReply e first count)
  rw [hwq] at hfences
  exact hreply.withFencesLeft.trans hfences

/-! ## The record's place (R99, R114) -/

theorem State.recordPlaced_eq (s : State) (sector offset b : Nat) : s.recordPlaced sector offset b = { s with
    lw := { s.lw with openAt := some { sector := sector, offset := offset + b }, cur := none }
    sm := { s.sm with table := placed s.sm.table sector offset b } } := by
  simp only [State.recordPlaced, State.modWriter, State.modSector, State.addDead, List.modify_modify_eq]
  rfl

/-- The state whose host record has been placed: the append point is free, the host lane empty (R48, R49, R99). -/
def State.hostPlaced (s : State) (sector offset b : Nat) (placement : List Nat) : State :=
  { s with
    lw := { s.lw with
      openAt := some { sector := sector, offset := offset + b }, point := .free, hostLane := none, hostFailures := 0
      placement := placement, cur := none }
    sm := { s.sm with table := placed s.sm.table sector offset b } }

theorem State.loneComplete_replies {q : QueueEntry} {rest : List QueueEntry} (h : s.wq.entries = q :: rest)
    (sector offset : Nat) :
    let base := State.withDurable (s.hostPlaced sector offset q.recLen s.lw.placement) q.recLen rest
      (durableStep sector (s.dir.entries, s.dir.admitted, placed s.sm.table sector offset q.recLen) (q, offset))
    base.withFencesLeft.onlyReplies (durableReplies q q.seq 1 ++ fenceReplies rest s.wq.fences)
      (s.loneComplete q sector offset) := by
  intro base
  have hplaced : (s.recordPlaced sector offset q.recLen).modWriter
      (fun w => { w with point := .free, hostLane := none, hostFailures := 0 })
      = s.hostPlaced sector offset q.recLen s.lw.placement := by
    rw [State.recordPlaced_eq]
    rfl
  rw [State.loneComplete, hplaced, State.frontDurable_eq (s := s.hostPlaced sector offset q.recLen s.lw.placement) h]
  exact base.durable_replies q q.seq 1

theorem State.runComplete_replies {q first : QueueEntry} {run rest : List QueueEntry}
    (h : s.wq.entries = (first :: run) ++ rest) (hlen : (first :: run).length = s.lw.placement.length) (sector offset : Nat) :
    let base := State.withDurable (s.hostPlaced sector offset q.recLen []) ((first :: run).map (fun x => x.recLen)).sum rest
      (((first :: run).zip s.lw.placement).foldl (durableStep sector)
        (s.dir.entries, s.dir.admitted, placed s.sm.table sector offset q.recLen))
    base.withFencesLeft.onlyReplies (durableReplies q first.seq s.lw.placement.length ++ fenceReplies rest s.wq.fences)
      (s.runComplete q sector offset) := by
  intro base
  have hplaced : (s.recordPlaced sector offset q.recLen).modWriter
      (fun w => { w with point := .free, hostLane := none, hostFailures := 0, placement := [] })
      = s.hostPlaced sector offset q.recLen [] := by
    rw [State.recordPlaced_eq]
    rfl
  have hfirst : s.wq.entries.head? = some first := by rw [h]; rfl
  simp only [State.runComplete, hfirst, hplaced]
  rw [State.runDurable_eq sector (first :: run) (s := s.hostPlaced sector offset q.recLen []) h hlen]
  exact base.durable_replies q first.seq s.lw.placement.length

/-! ## The last word of a record -/

section Completes
variable {w : WordReq} {c : CurRecord} {o : OpenSector}

/-- The state in which a record's last word has verified (R99). -/
def State.lastWordDone (s : State) (w : WordReq) (c : CurRecord) : State :=
  { s with
    flash := s.programmed w
    arr := { s.arr with op := none }
    lw := { s.lw with cur := some { c with done := c.done + 1 } } }

/-- The command that verifies a record's last word (R99). -/
theorem exec_endsRecord (h : s.endsRecord w c o) :
    exec (.wordProgramComplete true) s = .next (s.lastWordDone w c).recordComplete.settle := by
  obtain ⟨hheld, hop, hsector, hindex, hdiscard, hrole, hblank, hcur, hdone, -⟩ := h
  rw [exec_wordVerified hblank hheld hop hsector hindex,
    State.wordEnded_recordWord hdiscard (.inr (.inr hrole)) (by exact hcur), if_pos (Nat.le_of_eq hdone.symm)]
  rfl

/-- The last word of a host record, by what its entry is in its group (R48, R49). -/
theorem exec_endsHostRecord {q : QueueEntry} (h : s.endsRecord w c o) (hpoint : s.lw.point = .host)
    (hentry : s.wq.entries[c.member]? = some q) :
    exec (.wordProgramComplete true) s = .next (State.settle (match q.group with
      | none => (s.lastWordDone w c).loneComplete q o.sector o.offset
      | some (_, true) => (s.lastWordDone w c).runComplete q o.sector o.offset
      | some (_, false) => (s.lastWordDone w c).memberComplete c.member q o.sector o.offset)) := by
  have hexec := exec_endsRecord h
  obtain ⟨-, -, -, -, -, -, -, -, -, hopen⟩ := h
  have hcur' : (s.lastWordDone w c).lw.cur = some { c with done := c.done + 1 } := rfl
  have hopen' : (s.lastWordDone w c).lw.openAt = some o := hopen
  have hpoint' : (s.lastWordDone w c).lw.point = .host := hpoint
  have hentry' : (s.lastWordDone w c).wq.entries[c.member]? = some q := hentry
  rw [hexec]
  rcases hgroup : q.group with _ | ⟨g, _ | _⟩ <;>
    simp only [State.recordComplete, hcur', hopen', hpoint', hentry', hgroup]

end Completes

/-- Settles O46: the write's accounts change once, then the replies follow. -/
theorem loneRecordDurable : Obligations.LoneRecordDurable := by
  intro s w c o q rest e hends hmember hpoint hqueue hgroup hentry written
  have hexec := exec_endsHostRecord hends hpoint (q := q) (by rw [hmember, hqueue]; rfl)
  have hreplies := State.loneComplete_replies (s := s.lastWordDone w c) hqueue o.sector o.offset
  have hstep : durableStep o.sector (s.dir.entries, s.dir.admitted, placed s.sm.table o.sector o.offset q.recLen) (q, o.offset)
      = (Machine.putEntry written s.dir.entries, s.dir.admitted - (match e.durable with
          | some d => d.recLen
          | none => 0), enlivened (retired (placed s.sm.table o.sector o.offset q.recLen) e.durable) o.sector q.recLen) := by
    have hfind : findEntry q.key s.dir.entries = some e := hentry
    cases hd : e.durable <;> simp only [durableStep, hfind, hd, written]
  have hkey : written.key = q.key := (findEntry_key (e := e) hentry : e.key = q.key)
  let base : State := State.withDurable ((s.lastWordDone w c).hostPlaced o.sector o.offset q.recLen s.lw.placement) q.recLen rest
    (Machine.putEntry written s.dir.entries, s.dir.admitted - (match e.durable with
      | some d => d.recLen
      | none => 0), enlivened (retired (placed s.sm.table o.sector o.offset q.recLen) e.durable) o.sector q.recLen)
  have hdone : base.withFencesLeft.onlyReplies (durableReplies q q.seq 1 ++ fenceReplies rest s.wq.fences)
      ((s.lastWordDone w c).loneComplete q o.sector o.offset) := by
    simp only [base, ← hstep]
    exact State.loneComplete_replies (s := s.lastWordDone w c) hqueue o.sector o.offset
  have hlist : durableReplies q q.seq 1 = (match q.waiter with
      | some tag => [(tag, [0] ++ le 6 q.seq)]
      | none => []) := by
    cases hwaiter : q.waiter <;> simp only [durableReplies, hwaiter, hgroup] <;> rfl
  obtain ⟨link, req, heq⟩ := hdone.eq
  simp only [hgroup, heq] at hexec
  rw [heq, hlist] at hdone
  refine ⟨_, hexec, rfl, rfl, ?_, fun k hk => ?_, rfl, rfl, hdone.repliedAll rfl rfl rfl rfl, hdone.notices, rfl, rfl⟩
  · rw [← hkey]
    exact findEntry_put written s.dir.entries
  · exact findEntry_put_other (by rw [hkey]; exact hk) s.dir.entries

/-- Settles O47: a middle member is marked, and the end member's run leaves the queue member by member. -/
theorem runMemberDurable : Obligations.RunMemberDurable := by
  intro s w c o q hends hpoint hentry table lw'
  have hexec := exec_endsHostRecord hends hpoint hentry
  refine ⟨fun g hgroup => ?_, fun g first run rest hgroup hqueue hlen => ?_⟩
  · simp only [hgroup, State.memberComplete, State.recordPlaced_eq] at hexec
    exact hexec
  · intro after
    let base : State := State.withDurable ((s.lastWordDone w c).hostPlaced o.sector o.offset q.recLen [])
      ((first :: run).map (fun x => x.recLen)).sum rest after
    have hdone : base.withFencesLeft.onlyReplies
        (durableReplies q first.seq s.lw.placement.length ++ fenceReplies rest s.wq.fences)
        ((s.lastWordDone w c).runComplete q o.sector o.offset) :=
      State.runComplete_replies (s := s.lastWordDone w c) hqueue hlen o.sector o.offset
    have hlist : durableReplies q first.seq s.lw.placement.length = (match q.waiter with
        | some tag => [(tag, [0, 1, BitVec.ofNat 8 (run.length + 1)] ++ le 6 first.seq)]
        | none => []) := by
      rw [← hlen]
      cases hwaiter : q.waiter <;> simp only [durableReplies, hwaiter, hgroup] <;> rfl
    obtain ⟨link, req, heq⟩ := hdone.eq
    simp only [hgroup, heq] at hexec
    rw [heq, hlist] at hdone
    exact ⟨_, hexec, rfl, rfl, rfl, rfl, hdone.repliedAll rfl rfl rfl rfl, hdone.notices, rfl, rfl⟩

end Sys2Proof.Machine
end

section
/-! PROOFS. The victim walk's steps, and a relocated copy that completes (R31, R32, R38, R95, R99, R114, R121, R123 to R125). -/

namespace Sys2Proof.Machine

variable {s : State}

/-! ## The walk goes on (R120, R124, R125) -/

theorem State.drain_drains (s : State) (w : Walk) : s.drains w (s.drain w) := by
  rw [State.drains, State.drain]
  cases w.forTidy <;> rfl

/-- The durable part is in a sector above a bound (R124). -/
def DurablePart.behind (d : DurablePart) (sector bound : Nat) : Prop := d.sector = sector ∧ bound < d.offset

/-- One entry's turn in the search for the lowest named place. -/
def lowerNamed (sector bound : Nat) (best : Option (Nat × Nat)) (e : Entry) : Option (Nat × Nat) :=
  match e.durable with
  | some d =>
    if d.sector = sector ∧ bound < d.offset then
      match best with
      | some (o, n) => if d.offset < o then some (d.offset, d.recLen) else some (o, n)
      | none => some (d.offset, d.recLen)
    else best
  | none => best

theorem nextNamed_eq (sector bound : Nat) (es : List Entry) :
    nextNamed sector bound es = es.foldl (lowerNamed sector bound) none := rfl

section Named
variable {sector bound : Nat}

theorem lowerNamed_other {e : Entry} (h : ∀ d, e.durable = some d → ¬ d.behind sector bound) (best : Option (Nat × Nat)) :
    lowerNamed sector bound best e = best := by
  rw [lowerNamed]
  cases hd : e.durable with
  | none => rfl
  | some d => exact if_neg (h d hd)

theorem lowerNamed_first {e : Entry} {d : DurablePart} (hd : e.durable = some d) (h : d.behind sector bound) :
    lowerNamed sector bound none e = some (d.offset, d.recLen) := by
  simp only [lowerNamed, hd]
  exact if_pos h

theorem lowerNamed_next {e : Entry} {d : DurablePart} (hd : e.durable = some d) (h : d.behind sector bound) (o n : Nat) :
    lowerNamed sector bound (some (o, n)) e = if d.offset < o then some (d.offset, d.recLen) else some (o, n) := by
  simp only [lowerNamed, hd]
  exact if_pos h

/-- Once a place has been found, the search ends with the lowest of it and those that follow. -/
theorem foldl_lowerNamed_some (es : List Entry) : ∀ o n, ∃ o' n',
    es.foldl (lowerNamed sector bound) (some (o, n)) = some (o', n') ∧ o' ≤ o
    ∧ (∀ e ∈ es, ∀ d, e.durable = some d → d.behind sector bound → o' ≤ d.offset)
    ∧ ((o', n') = (o, n) ∨ ∃ e ∈ es, ∃ d, e.durable = some d ∧ d.behind sector bound ∧ (o', n') = (d.offset, d.recLen)) := by
  induction es with
  | nil => exact fun o n => ⟨o, n, rfl, Nat.le_refl o, by simp, .inl rfl⟩
  | cons e es ih =>
    intro o n
    rw [List.foldl_cons]
    by_cases hnamed : ∃ d, e.durable = some d ∧ d.behind sector bound
    · obtain ⟨d, hd, hbehind⟩ := hnamed
      rw [lowerNamed_next hd hbehind]
      have hfirst : ∀ x, e.durable = some x → x = d := fun x hx => Option.some.inj (hx.symm.trans hd)
      by_cases hlower : d.offset < o
      · rw [if_pos hlower]
        obtain ⟨o', n', hfold, hle, hleast, hfrom⟩ := ih d.offset d.recLen
        refine ⟨o', n', hfold, by omega, fun x hx y hy hb => ?_, .inr ?_⟩
        · rcases List.mem_cons.1 hx with rfl | hx
          · rw [hfirst y hy]; exact hle
          · exact hleast x hx y hy hb
        · rcases hfrom with hfrom | ⟨x, hx, hfrom⟩
          · exact ⟨e, List.mem_cons_self, d, hd, hbehind, hfrom⟩
          · exact ⟨x, List.mem_cons_of_mem _ hx, hfrom⟩
      · rw [if_neg hlower]
        obtain ⟨o', n', hfold, hle, hleast, hfrom⟩ := ih o n
        refine ⟨o', n', hfold, hle, fun x hx y hy hb => ?_, hfrom.imp_right fun ⟨x, hx, h⟩ => ⟨x, List.mem_cons_of_mem _ hx, h⟩⟩
        rcases List.mem_cons.1 hx with rfl | hx
        · rw [hfirst y hy]; omega
        · exact hleast x hx y hy hb
    · have hnot : ∀ d, e.durable = some d → ¬ d.behind sector bound := fun d hd hb => hnamed ⟨d, hd, hb⟩
      rw [lowerNamed_other hnot]
      obtain ⟨o', n', hfold, hle, hleast, hfrom⟩ := ih o n
      refine ⟨o', n', hfold, hle, fun x hx y hy hb => ?_, hfrom.imp_right fun ⟨x, hx, h⟩ => ⟨x, List.mem_cons_of_mem _ hx, h⟩⟩
      rcases List.mem_cons.1 hx with rfl | hx
      · exact absurd hb (hnot y hy)
      · exact hleast x hx y hy hb

/-- The search finds nothing, or the lowest place that a durable part names (R124). -/
theorem nextNamed_cases (es : List Entry) :
    (nextNamed sector bound es = none ∧ ∀ e ∈ es, ∀ d, e.durable = some d → ¬ d.behind sector bound)
    ∨ ∃ e ∈ es, ∃ d, e.durable = some d ∧ d.behind sector bound ∧ nextNamed sector bound es = some (d.offset, d.recLen)
        ∧ ∀ x ∈ es, ∀ y, x.durable = some y → y.behind sector bound → d.offset ≤ y.offset := by
  rw [nextNamed_eq]
  induction es with
  | nil => exact .inl ⟨rfl, by simp⟩
  | cons e es ih =>
    rw [List.foldl_cons]
    by_cases hnamed : ∃ d, e.durable = some d ∧ d.behind sector bound
    · obtain ⟨d, hd, hbehind⟩ := hnamed
      rw [lowerNamed_first hd hbehind]
      obtain ⟨o', n', hfold, hle, hleast, hfrom⟩ := foldl_lowerNamed_some (sector := sector) (bound := bound) es d.offset d.recLen
      have hfirst : ∀ x, e.durable = some x → x = d := fun x hx => Option.some.inj (hx.symm.trans hd)
      have hall : ∀ x ∈ e :: es, ∀ y, x.durable = some y → y.behind sector bound → o' ≤ y.offset := fun x hx y hy hb => by
        rcases List.mem_cons.1 hx with rfl | hx
        · rw [hfirst y hy]; exact hle
        · exact hleast x hx y hy hb
      rcases hfrom with hfrom | ⟨x, hx, y, hy, hb, hfrom⟩
      · obtain ⟨rfl, rfl⟩ := Prod.mk.inj hfrom
        exact .inr ⟨e, List.mem_cons_self, d, hd, hbehind, hfold, hall⟩
      · obtain ⟨rfl, rfl⟩ := Prod.mk.inj hfrom
        exact .inr ⟨x, List.mem_cons_of_mem _ hx, y, hy, hb, hfold, hall⟩
    · have hnot : ∀ d, e.durable = some d → ¬ d.behind sector bound := fun d hd hb => hnamed ⟨d, hd, hb⟩
      rw [lowerNamed_other hnot]
      rcases ih with ⟨hnone, hrest⟩ | ⟨x, hx, d, hd, hb, hfold, hleast⟩
      · refine .inl ⟨hnone, fun x hx y hy hb => ?_⟩
        rcases List.mem_cons.1 hx with rfl | hx
        · exact hnot y hy hb
        · exact hrest x hx y hy hb
      · refine .inr ⟨x, List.mem_cons_of_mem _ hx, d, hd, hb, hfold, fun z hz y hy hb' => ?_⟩
        rcases List.mem_cons.1 hz with rfl | hz
        · exact absurd hb' (hnot y hy)
        · exact hleast z hz y hy hb'

end Named

/-- The tail sweep's question is what `sweeps` says (R124, R125). -/
theorem State.sweepFrom_sweeps (s : State) (w : Walk) : s.sweeps w (s.sweepFrom w w.offset) := by
  rcases nextNamed_cases (sector := w.victim) (bound := w.offset) s.dir.entries with
    ⟨hnone, hall⟩ | ⟨e, he, d, hd, ⟨hsector, hbehind⟩, hfound, hleast⟩
  · have hdrain : s.sweepFrom w w.offset = s.drain w := by simp only [State.sweepFrom, hnone]
    rw [hdrain]
    exact ⟨fun ⟨d, ⟨e, he, hd⟩, hsector, hbehind⟩ => absurd ⟨hsector, hbehind⟩ (hall e he d hd), fun _ => s.drain_drains w⟩
  · refine ⟨fun _ => ⟨d, ⟨⟨e, he, hd⟩, hsector, hbehind⟩, fun x ⟨⟨y, hy, hx⟩, hb⟩ => hleast y hy x hx hb, ?_⟩,
      fun hnot => absurd ⟨⟨e, he, hd⟩, hsector, hbehind⟩ (hnot d)⟩
    simp only [State.sweepFrom, hfound]
    rfl

/-- The walk's move past a decided record is what `walkGoesOn` says (R120, R121, R124). -/
theorem State.walkOn_goesOn (s : State) (w : Walk) (next : Nat) : s.walkGoesOn w next (s.walkOn w next) := by
  refine ⟨fun hsweep => ?_, fun hsweep hend => ?_, fun hsweep hmore => ?_⟩
  · rw [State.walkOn, if_pos hsweep]
    exact s.sweepFrom_sweeps w
  · rw [State.walkOn, if_neg (by rw [hsweep]; exact Bool.false_ne_true), if_pos hend]
    exact s.drain_drains w
  · rw [State.walkOn, if_neg (by rw [hsweep]; exact Bool.false_ne_true), if_neg (Nat.not_le.2 hmore)]
    rfl

theorem State.copyDone_goesOn {w : Walk} {next : Nat} (hwalk : s.sm.walk = some w) (hphase : w.phase = .copying next) :
    s.walkGoesOn w next s.copyDone := by
  have hon : s.copyDone = s.walkOn w next := by simp only [State.copyDone, hwalk, hphase]
  rw [hon]
  exact s.walkOn_goesOn w next

theorem State.copyDone_rests (h : ∀ w next, s.sm.walk = some w → w.phase ≠ .copying next) : s.copyDone = s := by
  rw [State.copyDone]
  cases hwalk : s.sm.walk with
  | none => rfl
  | some w =>
    cases hphase : w.phase with
    | copying next => exact absurd hphase (h w next hwalk)
    | header | body _ | sweepRead => simp only [hphase]

/-! ## A copy completes (R31, R32, R95) -/

/-- The state whose relocation record has been placed: the append point is free, the relocation lane empty (R95, R99). -/
def State.relocPlaced (s : State) (sector offset b : Nat) : State :=
  { s with
    lw := { s.lw with
      openAt := some { sector := sector, offset := offset + b }, point := .free, relocLane := none, relocFailures := 0
      cur := none }
    sm := { s.sm with table := placed s.sm.table sector offset b } }

theorem State.relocationComplete_eq (s : State) (r : RelocRecord) (sector offset : Nat) :
    s.relocationComplete r sector offset
      = ((s.relocPlaced sector offset r.record.bytes).copyComplete r sector offset).copyDone := by
  rw [State.relocationComplete, State.recordPlaced_eq]
  rfl

section Copy
variable {r : RelocRecord} {e : Entry} {d : DurablePart}

/-- The copy takes over the durable part that still names its source (R31). -/
theorem State.copyComplete_moves (hentry : s.entry r.record.key = some e) (hd : e.durable = some d)
    (hplace : d.sector = r.sector ∧ d.offset = r.offset) (sector offset : Nat) : s.copyComplete r sector offset = { s with
      sm := { s.sm with table := enlivened (retired s.sm.table e.durable) sector r.record.bytes }
      link := { s.link with notices := s.noticesAfter (s.dir.admitted - d.recLen + r.record.bytes) }
      dir := { s.dir with
        entries := Machine.putEntry
          { e with durable := some { d with sector := sector, offset := offset, recLen := r.record.bytes } } s.dir.entries
        admitted := s.dir.admitted - d.recLen + r.record.bytes } } := by
  simp only [State.copyComplete, hentry, hd]
  rw [if_pos hplace, State.setAdmitted_eq]
  rfl

/-- A copy whose source is no longer named is dead where it lies (R31, R32). -/
theorem State.copyComplete_dead
    (h : ∀ e d, ¬ (s.entry r.record.key = some e ∧ e.durable = some d ∧ d.sector = r.sector ∧ d.offset = r.offset))
    (sector offset : Nat) : s.copyComplete r sector offset = s := by
  rw [State.copyComplete]
  cases hentry : s.entry r.record.key with
  | none => rfl
  | some e =>
    cases hd : e.durable with
    | none => simp only [hd]
    | some d =>
      simp only [hd]
      exact if_neg fun hplace => h e d ⟨hentry, hd, hplace⟩

/-- The walk that waits for the copy is still there. -/
theorem State.copyComplete_walk (s : State) (r : RelocRecord) (sector offset : Nat) :
    (s.copyComplete r sector offset).sm.walk = s.sm.walk := by
  by_cases hnames : ∃ e d, s.entry r.record.key = some e ∧ e.durable = some d ∧ d.sector = r.sector ∧ d.offset = r.offset
  · obtain ⟨e, d, hentry, hd, hplace⟩ := hnames
    rw [State.copyComplete_moves hentry hd hplace]
  · rw [State.copyComplete_dead fun e d h => hnames ⟨e, d, h⟩]

end Copy

/-- Settles O48: the copy takes over or is dead, and then the walk that waited for it goes on. -/
theorem relocationDurable : Obligations.RelocationDurable := by
  intro s w c o r hends hpoint hlane b names
  have hexec := exec_endsRecord hends
  obtain ⟨-, -, -, -, -, -, -, -, -, hopen⟩ := hends
  have hcur' : (s.lastWordDone w c).lw.cur = some { c with done := c.done + 1 } := rfl
  have hopen' : (s.lastWordDone w c).lw.openAt = some o := hopen
  have hpoint' : (s.lastWordDone w c).lw.point = .relocation := hpoint
  have hlane' : (s.lastWordDone w c).lw.relocLane = some r := hlane
  simp only [State.recordComplete, hcur', hopen', hpoint', hlane', State.relocationComplete_eq] at hexec
  let start := (s.lastWordDone w c).relocPlaced o.sector o.offset b
  have hwalk : (start.copyComplete r o.sector o.offset).sm.walk = s.sm.walk := start.copyComplete_walk r o.sector o.offset
  refine ⟨start.copyComplete r o.sector o.offset, _, hexec, fun wk next hwk hphase => ?_, fun hnone => ?_, ?_⟩
  · exact State.copyDone_goesOn (hwalk.trans hwk) hphase
  · exact State.copyDone_rests fun wk next hwk => hnone wk next (hwalk.symm.trans hwk)
  by_cases hnames : ∃ e d, names e d
  · obtain ⟨e, d, hnamed⟩ := hnames
    obtain ⟨hentry, hd, hplace⟩ := id hnamed
    rw [State.copyComplete_moves (s := start) hentry hd hplace o.sector o.offset]
    refine ⟨rfl, fun e' d' ⟨hentry', hd', _⟩ => ?_, fun hnot => absurd hnamed (hnot e d), rfl⟩
    obtain rfl := Option.some.inj (hentry'.symm.trans hentry)
    obtain rfl := Option.some.inj (hd'.symm.trans hd)
    exact ⟨rfl, rfl, rfl⟩
  · have hnot : ∀ x y, ¬ names x y := fun x y h => hnames ⟨x, y, h⟩
    rw [State.copyComplete_dead (s := start) hnot o.sector o.offset]
    exact ⟨rfl, fun x y h => absurd h (hnot x y), fun _ => ⟨rfl, rfl, rfl⟩, rfl⟩

end Sys2Proof.Machine
end

section
/-! PROOFS. A reclaim read completes (R29 to R33, R109, R114, R115, R120 to R125, R146). -/

namespace Sys2Proof.Machine

variable {s : State}

/-! ## The read ends (R109, R115) -/

/-- The state after a reclaim read, its corrected words counted and its words not yet taken (R109, R115). -/
def State.reclaimBase (s : State) (r : ReadReq) (decayed : List (Nat × RawWord)) : State :=
  { s with
    arr := { s.arr with op := none }
    flash := s.flash.decay r decayed
    sm := { s.sm with table := s.sm.table.modify r.sector (fun e => { e with
      corrected := min 65535 (e.corrected + ((s.flash.decay r decayed).read r).countP (fun x : RawWord => x.ecc == Ecc.corrected)) }) } }

section Read
variable {r : ReadReq} (hheld : s.held = false) (hop : s.arr.op = some (.read r)) (hwho : r.who = .reclaim)
  (hinside : r.inside = true) (decayed : List (Nat × RawWord))
include hheld hop hwho hinside

theorem exec_reclaimRead : exec (.reclaimReadComplete decayed) s = .next (State.settle (if r.discard then s.reclaimBase r decayed
    else (s.reclaimBase r decayed).walkRead ((s.flash.decay r decayed).read r))) := by
  refine (if_neg (by rw [hheld]; exact Bool.false_ne_true)).trans ?_
  simp only [hop, hwho]
  exact if_pos hinside

theorem exec_reclaimRead_discard (hdiscard : r.discard = true) :
    exec (.reclaimReadComplete decayed) s = .next (s.reclaimBase r decayed).settle := by
  rw [exec_reclaimRead hheld hop hwho hinside decayed, if_pos hdiscard]

theorem exec_reclaimRead_taken (hdiscard : r.discard = false) : exec (.reclaimReadComplete decayed) s
    = .next ((s.reclaimBase r decayed).walkRead ((s.flash.decay r decayed).read r)).settle := by
  rw [exec_reclaimRead hheld hop hwho hinside decayed, if_neg (by rw [hdiscard]; exact Bool.false_ne_true)]

end Read

/-! ## A record is passed (R30, R33) -/

/-- The entry of a key that has just been put is dropped with the entries of that key. -/
theorem dropEntry_put (e : Entry) (es : List Entry) : dropEntry e.key (putEntry e es) = dropEntry e.key es := by
  induction es with
  | nil => simp [putEntry, dropEntry]
  | cons x es ih =>
    rw [putEntry]
    split
    · rename_i hkey
      simp [dropEntry, hkey]
    · split
      · simp [dropEntry]
      · simp only [dropEntry, List.filter_cons] at ih ⊢
        rw [ih]

section Pass
variable {k : Key} {e : Entry} (hentry : s.entry k = some e) (victim : Nat)
include hentry

theorem State.passRecord_stays (h : ¬ (e.flashCopies = 1 ∧ e.state = .tombstone ∧ e.queued = 0)) :
    s.passRecord k victim = { s with dir := { s.dir with
      entries := Machine.putEntry { e with flashCopies := e.flashCopies - 1 } s.dir.entries } } := by
  simp only [State.passRecord, hentry]
  exact if_neg h

/-- The last counted copy of a TOMBSTONE with nothing queued: the entry leaves, and its place stays reserved (R33). -/
theorem State.passRecord_removes (h : e.flashCopies = 1 ∧ e.state = .tombstone ∧ e.queued = 0) :
    s.passRecord k victim = { s with
      dir := { s.dir with
        entries := s.dir.entries.filter (fun x => x.key != k)
        reserved := s.dir.reserved ++ [{ key := k, victim := victim }]
        admitted := s.dir.admitted - durableLen e.durable }
      sm := { s.sm with table := retired s.sm.table e.durable } } := by
  have hkey : e.key = k := findEntry_key hentry
  have hdrop : dropEntry e.key (Machine.putEntry { e with flashCopies := e.flashCopies - 1 } s.dir.entries)
      = s.dir.entries.filter (fun x => x.key != k) := by
    rw [← hkey]
    exact dropEntry_put { e with flashCopies := e.flashCopies - 1 } s.dir.entries
  let put := s.putEntry { e with flashCopies := e.flashCopies - 1 }
  have hremoves : s.passRecord k victim = (put.removeEntry e).reservePlace k victim := by
    simp only [State.passRecord, hentry]
    exact if_pos h
  have hentries : dropEntry e.key put.dir.entries = s.dir.entries.filter (fun x => x.key != k) := hdrop
  rw [hremoves, State.removeEntry, State.retireDurable_eq, hentries]
  exact congrArg (State.reservePlace k victim) (State.setAdmitted_sub _ _)

end Pass

theorem State.passRecord_none {k : Key} (hentry : s.entry k = none) (victim : Nat) : s.passRecord k victim = s := by
  simp only [State.passRecord, hentry]

/-! ## A valid record is decided (R120 to R122) -/

section Valid
variable {w : Walk} {r : Record} {e : Entry}

theorem State.decideValid_none (h : s.entry r.key = none) : s.decideValid w r = s.walkOn w (w.offset + r.bytes) := by
  simp only [State.decideValid, h]

theorem State.decideValid_copies (h : s.entry r.key = some e) (hplace : e.namesPlace w.victim w.offset = true)
    (hcopy : ¬ (r.kind = .tombstone ∧ e.queued = 0 ∧ e.flashCopies = 1)) :
    s.decideValid w r = (s.passRecord r.key w.victim).handCopy w r.copy (w.offset + r.bytes) := by
  simp only [State.decideValid, h]
  exact if_pos ⟨hplace, hcopy⟩

theorem State.decideValid_passes (h : s.entry r.key = some e)
    (hdead : e.namesPlace w.victim w.offset = false ∨ (r.kind = .tombstone ∧ e.queued = 0 ∧ e.flashCopies = 1)) :
    s.decideValid w r = (s.passRecord r.key w.victim).walkOn w (w.offset + r.bytes) := by
  simp only [State.decideValid, h]
  refine if_neg fun hcopies => ?_
  rcases hdead with hplace | hdrop
  · exact Bool.false_ne_true (hplace.symm.trans hcopies.1)
  · exact hcopies.2 hdrop

end Valid

/-! ## An invalid record is decided (R32, R123, R124) -/

section Invalid
variable {w : Walk} {e : Entry} {d : DurablePart}

/-- The entry whose version has been found unreadable (R32). -/
def Entry.lost (e : Entry) (d : DurablePart) : Entry :=
  { e with
    state := if e.queued = 0 then .lost else e.state
    newestSeq := if e.queued = 0 then d.seq else e.newestSeq
    newestLen := if e.queued = 0 then 0 else e.newestLen
    durable := some { d with kind := .loss, valLen := 0 }
    flashCopies := e.flashCopies - 1 }

theorem State.markLost_eq (e : Entry) (d : DurablePart) (s : State) : s.markLost e d
    = { s with dir := { s.dir with entries := Machine.putEntry (e.lost d) s.dir.entries } } := by
  rw [State.markLost, Entry.lost]
  by_cases hqueued : e.queued = 0
  · simp only [hqueued, if_true, Entry.viewFromDurable]
    rfl
  · simp only [hqueued, if_false]
    rfl

theorem State.decideInvalid_lost (hat : entryAt w.victim w.offset s.dir.entries = some e) (hd : e.durable = some d) :
    s.decideInvalid w = (s.markLost e d).handCopy w (lossRecord e d) (w.offset + d.recLen) := by
  simp only [State.decideInvalid, hat, hd]

theorem State.decideInvalid_sweeps (hat : entryAt w.victim w.offset s.dir.entries = none) :
    s.decideInvalid w = s.sweepFrom w w.offset := by
  simp only [State.decideInvalid, hat]

end Invalid

/-! ## The words of a read are taken (R120, R124) -/

section Taken
variable {w : Walk} {words : List RawWord} (hwalk : s.sm.walk = some w)
include hwalk

theorem State.walkRead_blank (hphase : w.phase = .header) (hones : (words.head?.any RawWord.allOnes) = true)
    (hat : entryAt w.victim w.offset s.dir.entries = none) : s.walkRead words = s.drain w := by
  simp only [State.walkRead, hwalk, hphase]
  exact if_pos ⟨hones, by rw [hat]; rfl⟩

theorem State.walkRead_header (hphase : w.phase = .header)
    (hrecord : (words.head?.any RawWord.allOnes) = false ∨ (entryAt w.victim w.offset s.dir.entries).isSome = true) :
    s.walkRead words = (match headerWithin words w.offset with
      | some h => (s.modManager (fun m => { m with walk := some { w with phase := .body words } })).walkAsks w.victim
          (w.offset + 16) (h.bytes / 8 - 2)
      | none => s.decideInvalid w) := by
  have hnot : ¬ ((words.head?.any RawWord.allOnes) = true ∧ (entryAt w.victim w.offset s.dir.entries).isNone = true) := by
    rintro ⟨hones, hnone⟩
    rcases hrecord with hsome | hsome
    · exact Bool.false_ne_true (hsome.symm.trans hones)
    · rw [Option.isNone_iff_eq_none] at hnone
      rw [hnone] at hsome
      cases hsome
  cases hheader : headerWithin words w.offset <;>
    simp only [State.walkRead, hwalk, hphase, if_neg hnot, hheader]

theorem State.walkRead_body {hdr : List RawWord} (hphase : w.phase = .body hdr) :
    s.walkRead words = (match validRecord (hdr ++ words) w.offset with
      | some r => s.decideValid w r
      | none => s.decideInvalid w) := by
  cases hvalid : validRecord (hdr ++ words) w.offset <;> simp only [State.walkRead, hwalk, hphase, hvalid]

theorem State.walkRead_swept (hphase : w.phase = .sweepRead) : s.walkRead words = s.decideSwept w words := by
  simp only [State.walkRead, hwalk, hphase]

/-- A record that its entry names, or that the walk met behind its header: it is decided as valid (R120, R124). -/
theorem State.walkRead_reads {rec : Record} (hreads : (∃ hdr, w.phase = .body hdr ∧ validRecord (hdr ++ words) w.offset = some rec)
      ∨ (w.phase = .sweepRead ∧ validRecord words w.offset = some rec
          ∧ ∃ e d, entryAt w.victim w.offset s.dir.entries = some e ∧ e.key = rec.key ∧ e.durable = some d ∧ d.seq = rec.seq)) :
    s.walkRead words = s.decideValid w rec := by
  rcases hreads with ⟨hdr, hphase, hvalid⟩ | ⟨hphase, hvalid, e, d, hat, hkey, hd, hseq⟩
  · rw [State.walkRead_body hwalk hphase, hvalid]
  · have hmatch : rec.key = e.key ∧ e.durable.any (fun d => d.seq == rec.seq) = true := by
      refine ⟨hkey.symm, ?_⟩
      rw [hd]
      exact beq_iff_eq.2 hseq
    rw [State.walkRead_swept hwalk hphase]
    simp only [State.decideSwept, hat, hvalid]
    exact if_pos hmatch

/-- A record that the sweep asked for and that no entry names any more (R124; log 13). -/
theorem State.walkRead_unnamed {rec : Record} (hphase : w.phase = .sweepRead) (hvalid : validRecord words w.offset = some rec)
    (hat : entryAt w.victim w.offset s.dir.entries = none) :
    s.walkRead words = (s.passRecord rec.key w.victim).walkOn w (w.offset + rec.bytes) := by
  rw [State.walkRead_swept hwalk hphase]
  simp only [State.decideSwept, hat, hvalid]

/-- Words in which the entry's record cannot be read are decided as invalid (R123, R124). -/
theorem State.walkRead_unreadable {e : Entry} {d : DurablePart} (hat : entryAt w.victim w.offset s.dir.entries = some e)
    (hd : e.durable = some d) (h : (w.phase = .header ∧ headerWithin words w.offset = none)
      ∨ (∃ hdr, w.phase = .body hdr ∧ validRecord (hdr ++ words) w.offset = none)
      ∨ (w.phase = .sweepRead ∧ ∀ rec, validRecord words w.offset = some rec →
          ∀ e d, entryAt w.victim w.offset s.dir.entries = some e → e.durable = some d → e.key ≠ rec.key ∨ d.seq ≠ rec.seq)) :
    s.walkRead words = s.decideInvalid w := by
  rcases h with ⟨hphase, hheader⟩ | ⟨hdr, hphase, hvalid⟩ | ⟨hphase, hother⟩
  · rw [State.walkRead_header hwalk hphase (.inr (by rw [hat]; rfl)), hheader]
  · rw [State.walkRead_body hwalk hphase, hvalid]
  · rw [State.walkRead_swept hwalk hphase]
    cases hvalid : validRecord words w.offset with
    | none => simp only [State.decideSwept, hat, hvalid]
    | some rec =>
      simp only [State.decideSwept, hat, hvalid]
      refine if_neg fun hmatch => ?_
      obtain ⟨hkey, hseq⟩ := hmatch
      rw [hd] at hseq
      exact (hother rec hvalid e d hat hd).elim (fun hne => hne hkey.symm) fun hne => hne (beq_iff_eq.1 hseq)

end Taken

/-- Settles O39: what the words are to the walk, then what the record is to its entry. -/
theorem reclaimReadTaken : Obligations.ReclaimReadTaken := by
  intro s decayed r hheld hop hwho hinside flash words sm1 reads unreadable
  refine ⟨fun hdiscard => exec_reclaimRead_discard hheld hop hwho hinside decayed hdiscard, fun w hdiscard hwalk => ?_⟩
  have hexec := exec_reclaimRead_taken hheld hop hwho hinside decayed hdiscard
  have hwalk' : (s.reclaimBase r decayed).sm.walk = some w := hwalk
  refine ⟨fun h hphase hheader hones => ?_, fun rec e hreads hentry hplace hcopy => ?_, fun e d hlost hat hd => ?_⟩
  · rw [State.walkRead_header hwalk' hphase (.inl hones), hheader] at hexec
    exact hexec
  · rw [State.walkRead_reads hwalk' hreads, State.decideValid_copies (by exact hentry) hplace fun hdrop =>
        (hcopy hdrop.2.1 hdrop.2.2).1 hdrop.1,
      State.passRecord_stays (by exact hentry) _ fun hlast => (hcopy hlast.2.2 hlast.1).2 hlast.2.1] at hexec
    exact hexec
  · rw [State.walkRead_unreadable hwalk' hat hd hlost, State.decideInvalid_lost (by exact hat) hd, State.markLost_eq] at hexec
    exact hexec

/-- Settles O40: each of the walk's decisions that needs no copy, and where the walk goes on behind it. -/
theorem reclaimWalkGoesOn : Obligations.ReclaimWalkGoesOn := by
  intro s decayed r hheld hop hwho hinside flash words sm1 reads base next w hdiscard hwalk
  have hexec : next = _ := exec_reclaimRead_taken hheld hop hwho hinside decayed hdiscard
  have hwalk' : (s.reclaimBase r decayed).sm.walk = some w := hwalk
  refine ⟨fun hphase hones hat => ?_, fun hinvalid hat => ?_, fun rec hmet hentry => ?_, fun rec e hmet => ?_,
    fun hphase hvalid hat => ?_⟩
  · rw [State.walkRead_blank hwalk' hphase hones hat] at hexec
    exact ⟨_, hexec, State.drain_drains _ w⟩
  · have hdecided : (s.reclaimBase r decayed).walkRead words = (s.reclaimBase r decayed).decideInvalid w := by
      rcases hinvalid with ⟨hphase, hheader, hones⟩ | ⟨hdr, hphase, hvalid⟩
      · rw [State.walkRead_header hwalk' hphase (.inl hones), hheader]
      · rw [State.walkRead_body hwalk' hphase, hvalid]
    have hsweeps : (s.reclaimBase r decayed).decideInvalid w = _ := State.decideInvalid_sweeps hat
    exact ⟨_, hexec.trans (congrArg (fun u : State => Host.Outcome.next u.settle) (hdecided.trans hsweeps)),
      State.sweepFrom_sweeps _ w⟩
  · have htaken : (s.reclaimBase r decayed).walkRead words = (s.reclaimBase r decayed).walkOn w (w.offset + rec.bytes) := by
      rcases hmet with ⟨hdr, hphase, hvalid⟩ | ⟨hphase, hvalid, hat⟩
      · rw [State.walkRead_reads hwalk' (.inl ⟨hdr, hphase, hvalid⟩), State.decideValid_none (by exact hentry)]
      · rw [State.walkRead_unnamed hwalk' hphase hvalid hat, State.passRecord_none (by exact hentry)]
    exact ⟨_, hexec.trans (congrArg (fun u : State => Host.Outcome.next u.settle) htaken), State.walkOn_goesOn _ w _⟩
  · have htaken : (s.reclaimBase r decayed).entry rec.key = some e ∧ (s.reclaimBase r decayed).walkRead words
        = ((s.reclaimBase r decayed).passRecord rec.key w.victim).walkOn w (w.offset + rec.bytes) := by
      rcases hmet with ⟨hreads, hentry, hdead⟩ | ⟨hphase, hvalid, hentry, hat⟩
      · exact ⟨hentry, (State.walkRead_reads hwalk' hreads).trans (State.decideValid_passes (by exact hentry) hdead)⟩
      · exact ⟨hentry, State.walkRead_unnamed hwalk' hphase hvalid hat⟩
    obtain ⟨hentry, hpasses⟩ := htaken
    refine ⟨fun hstays => ?_, fun hlast htomb hqueued => ?_⟩
    · rw [State.passRecord_stays hentry w.victim hstays] at hpasses
      exact ⟨_, hexec.trans (congrArg (fun u : State => Host.Outcome.next u.settle) hpasses), State.walkOn_goesOn _ w _⟩
    · rw [State.passRecord_removes hentry w.victim ⟨hlast, htomb, hqueued⟩] at hpasses
      exact ⟨_, hexec.trans (congrArg (fun u : State => Host.Outcome.next u.settle) hpasses), State.walkOn_goesOn _ w _⟩
  · have htaken : (s.reclaimBase r decayed).walkRead words = (s.reclaimBase r decayed).walkOn w w.offset := by
      have hat' : entryAt w.victim w.offset (s.reclaimBase r decayed).dir.entries = none := hat
      rw [State.walkRead_swept hwalk' hphase]
      simp only [State.decideSwept, hat', hvalid]
    exact ⟨_, hexec.trans (congrArg (fun u : State => Host.Outcome.next u.settle) htaken), State.walkOn_goesOn _ w _⟩

end Sys2Proof.Machine
end

section
/-! PROOFS. Mount: its walks, the Directory it builds, and its completion (R10 to R17, R35 to R38, R139 to R142). -/

namespace Sys2Proof.Machine

variable {s : State}

/-! ## A mount read ends (R109, R139) -/

/-- The state after a mount read, its words not yet taken. -/
def State.mountBase (s : State) (r : ReadReq) (decayed : List (Nat × RawWord)) : State :=
  { s with arr := { s.arr with op := none }, flash := s.flash.decay r decayed }

section Read
variable {r : ReadReq} (hheld : s.held = false) (hop : s.arr.op = some (.read r)) (hwho : r.who = .mount)
  (hinside : r.inside = true) (decayed : List (Nat × RawWord))
include hheld hop hwho hinside

theorem exec_mountRead : exec (.mountReadComplete decayed) s
    = .next ((s.mountBase r decayed).mountRead ((s.flash.decay r decayed).read r)).settle := by
  refine (if_neg (by rw [hheld]; exact Bool.false_ne_true)).trans ?_
  simp only [hop, hwho]
  exact if_pos hinside

end Read

/-! ## Mount completes (R36 to R38, R118, R140 to R142) -/

/-- The dead bytes of a walked sector with these live bytes (R140). -/
def MountEnd.dead (w : MountEnd) (live : Nat) : Nat := if w.how = .damaged then 32752 - live else w.offset - 16 - live

theorem SectorEntry.walked_dead (live : Nat) (w : MountEnd) (openAt : Option OpenSector) (e : SectorEntry) :
    SectorEntry.walked live w openAt e = if openAt.any (fun o => o.sector == w.sector) = true then
        { e with state := .opened, live := live, dead := w.dead live, appendOffset := openAt.map (fun o => o.offset) }
      else { e with state := .full, live := live, dead := w.dead live } := by
  rw [SectorEntry.walked, MountEnd.dead]
  cases w.how with
  | allOnes => rfl
  | areaEnd => rfl
  | damaged => rfl

theorem walkedEntry_some (m : Mount) (o : OpenSector) (w : MountEnd) (e : SectorEntry) : walkedEntry m (some o) w e
    = { e with
        live := liveIn w.sector m.entries
        dead := w.dead (liveIn w.sector m.entries)
        state := if ∃ o', some o = some o' ∧ o'.sector = w.sector then .opened else .full
        appendOffset := if o.sector = w.sector then some o.offset else e.appendOffset } := rfl

theorem walkedEntry_none (m : Mount) (w : MountEnd) (e : SectorEntry) : walkedEntry m none w e
    = { e with
        live := liveIn w.sector m.entries
        dead := w.dead (liveIn w.sector m.entries)
        state := if ∃ o' : OpenSector, none = some o' ∧ o'.sector = w.sector then .opened else .full } := rfl

theorem SectorEntry.walked_eq (m : Mount) (openAt : Option OpenSector) (w : MountEnd) (e : SectorEntry) :
    SectorEntry.walked (liveIn w.sector m.entries) w openAt e = walkedEntry m openAt w e := by
  rw [SectorEntry.walked_dead]
  cases openAt with
  | none => simp [walkedEntry_none]
  | some o => by_cases h : o.sector = w.sector <;> simp [walkedEntry_some, h]

/-- The state that a completed mount leaves (R140 to R142). -/
def State.mounted (s : State) (m : Mount) (openAt : Option OpenSector) (table : List SectorEntry) (d : Directory)
    (stale : List Nat) (latch : Bool) (numbers : Nat × Nat × Nat) (st : DeviceState) (notices : List NoticeKind) : State :=
  { s with
    dir := d
    wq := { s.wq with seqCounter := some (m.maxSeq + 1) }
    lw := { s.lw with openAt := openAt, genCounter := some (m.maxGen + 1) }
    sm := { s.sm with table := table, epoch := m.epoch, staleOrder := stale, lowSpace := latch, latchFor := numbers }
    dev := { s.dev with state := st }
    link := { s.link with notices := notices }
    mount := none }

section Mounted
variable (m : Mount) (openAt : Option OpenSector) (table : List SectorEntry) (d : Directory) (stale : List Nat)
  (latch : Bool) (numbers : Nat × Nat × Nat) (st : DeviceState) (notices : List NoticeKind)

theorem State.crossMark_mounted (above : Prop) [Decidable above] :
    (s.mounted m openAt table d stale latch numbers st notices).crossMark false (decide above)
      = s.mounted m openAt table d stale latch numbers st (if above then joinNotice .spaceLow notices else notices) := by
  by_cases h : above
  · rw [State.crossMark, decide_eq_true h, if_pos h]
    rfl
  · rw [State.crossMark, decide_eq_false h, if_neg h]
    rfl

theorem State.setDevice_mounted (st' : DeviceState) :
    (s.mounted m openAt table d stale latch numbers st notices).setDevice st'
      = s.mounted m openAt table d stale latch numbers st' (if st = st' then notices else joinNotice .state notices) := by
  by_cases h : st = st'
  · subst h
    rw [State.setDevice, if_pos rfl]
    exact if_pos rfl
  · rw [State.setDevice_ne (by exact h), if_neg h]
    rfl

/-- The latch as it is evaluated from these numbers (R118). -/
def latchFrom (numbers : Nat × Nat × Nat) (latch : Bool) : Bool :=
  if 6 ≤ numbers.1 + numbers.2.1 + numbers.2.2 then false else if numbers.1 ≤ 4 then true else latch

/-- The latch is evaluated by a mount that finds a store, and by no other (R118). -/
theorem State.judgeLatch_mounted (hst : st = .unformatted ∨ st = .online ∨ st = .readOnly) :
    (s.mounted m openAt table d stale latch numbers st notices).judgeLatch
      = s.mounted m openAt table d stale
          (if st = .unformatted then latch else latchFrom (table.countP (fun e => e.state == .erased),
            table.countP (fun e => e.state == .stale), table.countP (fun e => e.state == .erasing)) latch)
          (if st = .unformatted then numbers else (table.countP (fun e => e.state == .erased),
            table.countP (fun e => e.state == .stale), table.countP (fun e => e.state == .erasing))) st notices := by
  rcases hst with rfl | rfl | rfl
  · rw [State.judgeLatch, if_neg (fun h => h.elim Bool.false_ne_true
      fun h : DeviceState.unformatted = .formatting => absurd h (by decide))]
    rfl
  · rw [State.judgeLatch, if_pos (.inl rfl)]
    rfl
  · rw [State.judgeLatch, if_pos (.inl rfl)]
    rfl

end Mounted

theorem Mount.outcome_cases (m : Mount) (admitted limit : Nat) :
    m.outcome admitted limit = .unformatted ∨ m.outcome admitted limit = .online ∨ m.outcome admitted limit = .readOnly := by
  rw [Mount.outcome]
  split
  · exact .inl rfl
  · split
    · exact .inr (.inr rfl)
    · split
      · exact .inr (.inr rfl)
      · exact .inr (.inl rfl)

theorem State.mounted_frame (m : Mount) (openAt : Option OpenSector) (table : List SectorEntry) (d : Directory) (stale : List Nat)
    (latch : Bool) (numbers : Nat × Nat × Nat) (st : DeviceState) (notices : List NoticeKind) :
    { s.mounted m openAt table d stale latch numbers st notices with
      sm := s.sm, dir := s.dir, wq := s.wq, lw := s.lw, dev := s.dev, link := s.link, mount := s.mount } = s := by
  cases s
  rfl

theorem State.mountComplete_eq (m : Mount) (openAt : Option OpenSector) {table : List SectorEntry} {admitted limit : Nat}
    (htable : m.ends.foldl (fun t w => t.modify w.sector (SectorEntry.walked (liveIn w.sector m.entries) w openAt)) m.table = table)
    (hadmitted : durableShare m.entries = admitted)
    (hlimit : admissionLimit (Config.sectors - table.countP (fun e => e.state == .retired)) = limit) :
    s.mountComplete openAt m = s.mounted m openAt table
      { entries := m.entries, reserved := [], admitted := admitted, limit := limit }
      (sectorsWhere (fun e => e.state == .stale) table)
      (if m.outcome admitted limit = .unformatted then s.sm.lowSpace else latchFrom (table.countP (fun e => e.state == .erased),
        table.countP (fun e => e.state == .stale), table.countP (fun e => e.state == .erasing)) s.sm.lowSpace)
      (if m.outcome admitted limit = .unformatted then s.sm.latchFor else (table.countP (fun e => e.state == .erased),
        table.countP (fun e => e.state == .stale), table.countP (fun e => e.state == .erasing)))
      (m.outcome admitted limit)
      (if s.dev.state = m.outcome admitted limit then
          if limit * 9 < admitted * 10 then joinNotice .spaceLow s.link.notices else s.link.notices
        else joinNotice .state (if limit * 9 < admitted * 10 then joinNotice .spaceLow s.link.notices else s.link.notices)) := by
  rw [← State.judgeLatch_mounted _ _ _ _ _ _ _ _ _ (m.outcome_cases admitted limit), ← State.setDevice_mounted,
    ← State.crossMark_mounted, ← hadmitted, ← hlimit, ← htable]
  rfl

/-- What a completed mount leaves of each block (R36 to R38, R118, R140 to R142). -/
theorem State.mountComplete_mountedAs (s : State) (m : Mount) (openAt : Option OpenSector) :
    s.mountedAs m openAt (s.mountComplete openAt m) := by
  have htable : m.ends.foldl (fun t w => t.modify w.sector (SectorEntry.walked (liveIn w.sector m.entries) w openAt)) m.table
      = m.ends.foldl (fun x w => x.modify w.sector (walkedEntry m openAt w)) m.table := by
    simp only [funext (SectorEntry.walked_eq m openAt _)]
  rw [State.mountComplete_eq m openAt htable rfl rfl]
  exact ⟨rfl, rfl, rfl, rfl, rfl, rfl, rfl, State.mounted_frame _ _ _ _ _ _ _ _ _⟩

/-! ## Mount goes on (R139 to R142) -/

theorem MountEnd.keepable_iff {w : MountEnd} : w.keepable = true
    ↔ w.how = .allOnes ∧ w.blank = true ∧ w.torn = false ∧ 2056 ≤ 32768 - w.offset := by
  simp [MountEnd.keepable, Config.maxRecord, Config.sectorBytes, and_assoc]

/-- Mount goes on with what it has gathered: the cases of what is left to read (R139 to R142; log 22). -/
theorem State.mountNext_goesOn (s : State) (m : Mount) : s.mountGoesOn m (s.mountNext m) := by
  rw [State.mountGoesOn]
  refine ⟨fun n rest hcheck => ?_, fun n rest hcheck hwalk => ?_, fun w hcheck hwalk hlast hkeep => ?_, fun hcheck hwalk hnone => ?_⟩
  · simp only [State.mountNext, hcheck]
    rfl
  · simp only [State.mountNext, hcheck, hwalk]
    rfl
  · simp only [State.mountNext, hcheck, hwalk, hlast]
    exact if_pos (MountEnd.keepable_iff.2 hkeep)
  · have hcompletes : s.mountNext m = s.mountComplete none m := by
      cases hlast : m.ends.getLast? with
      | none => simp only [State.mountNext, hcheck, hwalk, hlast]
      | some w =>
        simp only [State.mountNext, hcheck, hwalk, hlast]
        exact if_neg fun hkeep => hnone w hlast (MountEnd.keepable_iff.1 hkeep)
    rw [hcompletes]
    exact s.mountComplete_mountedAs m none

/-! ## The phases of a mount read (R139 to R141) -/

section Phases
variable {words : List RawWord} {m : Mount} (hmount : s.mount = some m)
include hmount

theorem State.mountRead_headers {a b : RawWord} (hphase : m.phase = .headers) (hwords : words = [a, b]) :
    s.mountRead words = if m.heads.length + 1 < 128 then
        s.mountAsks .headers { m.count m.heads.length words with heads := m.heads ++ [(a, b)] } (m.heads.length + 1) 0 2
      else s.mountNext (Mount.headersRead { m.count m.heads.length words with heads := m.heads ++ [(a, b)] }) := by
  simp only [State.mountRead, hmount, hphase, hwords, State.mountHeader, List.length_append, List.length_singleton]

theorem State.mountRead_blankCheck {n : Nat} {rest : List Nat} (hphase : m.phase = .blankCheck) (hcheck : m.toCheck = n :: rest) :
    s.mountRead words = s.mountNext { m with
      toCheck := rest
      table := if ∀ x ∈ words, x.isBlank = true then m.table else m.table.modify n (fun e => { e with state := .stale }) } := by
  simp only [State.mountRead, hmount, hphase, State.mountChecked, hcheck, List.all_eq_true]

theorem State.mountRead_walkFirst {sector offset : Nat} {a : RawWord} (hphase : m.phase = .walkFirst sector offset)
    (hwords : words = [a]) : s.mountRead words
      = if a.allOnes then s.mountNext ((m.count sector words).endWalk sector offset .allOnes a.isBlank)
        else match extentOf a offset with
          | some b => s.mountAsks (.walkRest sector offset a) (m.count sector words) sector (offset + 8) (b / 8 - 1)
          | none => s.mountNext ((m.count sector words).endWalk sector offset .damaged false) := by
  cases hextent : extentOf a offset <;>
    simp only [State.mountRead, hmount, hphase, hwords, State.mountWalkFirst, hextent, State.mountWalkEnds]

theorem State.mountRead_walkRest {sector offset : Nat} {first : RawWord} (hphase : m.phase = .walkRest sector offset first) :
    s.mountRead words = match validRecord (first :: words) offset with
      | some r =>
        if 32768 ≤ offset + r.bytes then
          s.mountNext (((m.count sector words).yield (mountRec r sector offset)).endWalk sector (offset + r.bytes) .areaEnd false)
        else s.mountWalkAt ((m.count sector words).yield (mountRec r sector offset)) sector (offset + r.bytes)
      | none => s.mountNext ((m.count sector words).endWalk sector offset .damaged false) := by
  cases hvalid : validRecord (first :: words) offset <;>
    simp only [State.mountRead, hmount, hphase, State.mountWalkRest, hvalid, State.mountWalkEnds, Config.sectorBytes]

theorem State.mountRead_remainder {sector offset : Nat} (hphase : m.phase = .remainder sector offset) :
    s.mountRead words = s.mountComplete
      (if ∀ x ∈ words, x.isBlank = true then some { sector := sector, offset := offset } else none) m := by
  simp only [State.mountRead, hmount, hphase, State.mountRemainder, List.all_eq_true]

end Phases

/-- Settles O41: the next header is asked for, or mount completes. -/
theorem mountReadTaken : Obligations.MountReadTaken := by
  intro s decayed r m hheld hop hwho hinside hmount flash words base counted
  have hexec := exec_mountRead hheld hop hwho hinside decayed
  have hmount' : (s.mountBase r decayed).mount = some m := hmount
  refine ⟨fun a b hphase hwords hmore => ?_, fun sector offset hphase => ?_⟩
  · rw [State.mountRead_headers hmount' hphase hwords, if_pos hmore] at hexec
    exact ⟨_, hexec, rfl⟩
  · rw [State.mountRead_remainder hmount' hphase] at hexec
    exact ⟨_, hexec, State.mountComplete_mountedAs _ _ _⟩

theorem RawWord.allOnes_iff {a : RawWord} : a.allOnes = true ↔ a.value? = some (BitVec.allOnes 64) := beq_iff_eq

/-- Settles O43: each way a walk goes on or ends. -/
theorem mountWalks : Obligations.MountWalks := by
  intro s decayed r m hheld hop hwho hinside hmount flash words base counted counts goesOn
  have hexec := exec_mountRead hheld hop hwho hinside decayed
  have hmount' : (s.mountBase r decayed).mount = some m := hmount
  refine ⟨fun sector offset a hphase hwords => ?_, fun sector offset first hphase => ⟨fun rec hvalid => ?_, fun hvalid => ?_⟩⟩
  · rw [State.mountRead_walkFirst hmount' hphase hwords] at hexec
    refine ⟨fun hones => ?_, fun b hones hextent => ?_, fun hones hextent => ?_⟩
    · rw [if_pos (RawWord.allOnes_iff.2 hones)] at hexec
      exact ⟨_, hexec, State.mountNext_goesOn _ _⟩
    · rw [if_neg (mt RawWord.allOnes_iff.1 hones), hextent] at hexec
      exact ⟨_, hexec, rfl⟩
    · rw [if_neg (mt RawWord.allOnes_iff.1 hones), hextent] at hexec
      exact ⟨_, hexec, State.mountNext_goesOn _ _⟩
  · rw [State.mountRead_walkRest hmount' hphase, hvalid] at hexec
    refine ⟨fun hmore => ?_, fun hend => ?_⟩
    · exact ⟨_, hexec.trans (congrArg (fun u : State => Host.Outcome.next u.settle) (if_neg (Nat.not_le.2 hmore))), rfl⟩
    · exact ⟨_, hexec.trans (congrArg (fun u : State => Host.Outcome.next u.settle) (if_pos hend)), State.mountNext_goesOn _ _⟩
  · rw [State.mountRead_walkRest hmount' hphase, hvalid] at hexec
    exact ⟨_, hexec, State.mountNext_goesOn _ _⟩

end Sys2Proof.Machine
end

section
/-! PROOFS. The records of a walk presented to the Directory (R11 to R13, R15, R20, R35). -/

namespace Sys2Proof.Machine

/-! ## One record is presented (R35) -/

/-- The durable part that a yielded record becomes (R35). -/
def MountRec.part (r : MountRec) : DurablePart :=
  { sector := r.sector, offset := r.offset, seq := r.seq, kind := r.kind, recLen := r.recLen, valLen := r.valLen }

/-- An entry after a record of its key has been presented (R15, R35). -/
def Entry.presented (accepted : Bool) (r : MountRec) (e : Entry) : Entry :=
  if accepted && e.durable.all (fun d => decide (d.seq ≤ r.seq)) then
    { e with
      flashCopies := e.flashCopies + 1, durable := some r.part
      state := r.kind.entryState, newestSeq := r.seq, newestLen := r.valLen }
  else { e with flashCopies := e.flashCopies + 1 }

/-- The entry a key finds when its first record is presented (R20). -/
def MountRec.fresh (r : MountRec) : Entry :=
  { key := r.key, state := .tombstone, newestSeq := 0, newestLen := 0, queued := 0, durable := none, flashCopies := 0 }

theorem Mount.present_some {m : Mount} {r : MountRec} {e : Entry} (h : findEntry r.key m.entries = some e) (accepted : Bool) :
    m.present accepted r = { m with entries := putEntry (e.presented accepted r) m.entries } := by
  simp only [Mount.present, h]
  rfl

theorem Mount.present_none {m : Mount} {r : MountRec} (h : findEntry r.key m.entries = none) (accepted : Bool) :
    m.present accepted r = if 3072 ≤ m.entries.length then { m with overflow := true }
      else { m with entries := putEntry (r.fresh.presented accepted r) m.entries } := by
  simp only [Mount.present, h]
  rfl

theorem Entry.presented_takes {r : MountRec} {e : Entry} (h : ∀ x, e.durable = some x → x.seq ≤ r.seq) :
    e.presented true r = { e with
      flashCopies := e.flashCopies + 1, durable := some r.part
      state := r.kind.entryState, newestSeq := r.seq, newestLen := r.valLen } := by
  refine if_pos ((Bool.true_and _).trans ?_)
  cases hd : e.durable with
  | none => rfl
  | some d => exact decide_eq_true (h d hd)

theorem Entry.presented_passes {accepted : Bool} {r : MountRec} {e : Entry}
    (h : accepted = false ∨ ∃ x, e.durable = some x ∧ r.seq < x.seq) :
    e.presented accepted r = { e with flashCopies := e.flashCopies + 1 } := by
  refine if_neg fun htakes => ?_
  obtain ⟨haccepted, hall⟩ := Bool.and_eq_true_iff.1 htakes
  rcases h with h | ⟨x, hd, hseq⟩
  · exact Bool.false_ne_true (h.symm.trans haccepted)
  · rw [hd] at hall
    exact absurd (of_decide_eq_true hall) (Nat.not_le.2 hseq)

/-! ## Records presented in order -/

/-- Records presented in order, each with its decision. -/
def Mount.shown (m : Mount) (ps : List (Bool × MountRec)) : Mount := ps.foldl (fun x p => x.present p.1 p.2) m

/-- The mount with this run in progress and this highest sequence seen (R12, R15). -/
def Mount.atRun (m : Mount) (run : List MountRec) (maxSeq : Nat) : Mount := { m with run := run, maxSeq := maxSeq }

theorem Mount.shown_append (m : Mount) (ps qs : List (Bool × MountRec)) : m.shown (ps ++ qs) = (m.shown ps).shown qs :=
  List.foldl_append

theorem Mount.presentAll_eq (accepted : Bool) (rs : List MountRec) (m : Mount) :
    m.presentAll accepted rs = m.shown (rs.map (fun r => (accepted, r))) := by
  induction rs generalizing m with
  | nil => rfl
  | cons r rs ih => exact ih (m.present accepted r)

/-- A record presented changes the entries and the overflow alone. -/
theorem Mount.present_frame (accepted : Bool) (r : MountRec) (m : Mount) :
    { m.present accepted r with entries := m.entries, overflow := m.overflow } = m := by
  cases h : findEntry r.key m.entries with
  | some e => rw [Mount.present_some h]
  | none =>
    rw [Mount.present_none h]
    split <;> rfl

theorem Mount.present_atRun (accepted : Bool) (r : MountRec) (m : Mount) (run : List MountRec) (k : Nat) :
    (m.atRun run k).present accepted r = (m.present accepted r).atRun run k := by
  cases h : findEntry r.key m.entries with
  | some e =>
    rw [Mount.present_some h, Mount.present_some (m := m.atRun run k) h]
    rfl
  | none =>
    rw [Mount.present_none h, Mount.present_none (m := m.atRun run k) h]
    by_cases hfull : 3072 ≤ m.entries.length
    · rw [if_pos hfull, if_pos (by exact hfull)]
      rfl
    · rw [if_neg hfull, if_neg (by exact hfull)]
      rfl

theorem Mount.shown_atRun (ps : List (Bool × MountRec)) (m : Mount) (run : List MountRec) (k : Nat) :
    (m.atRun run k).shown ps = (m.shown ps).atRun run k := by
  induction ps generalizing m with
  | nil => rfl
  | cons p ps ih => exact (congrArg (fun x : Mount => x.shown ps) (m.present_atRun p.1 p.2 run k)).trans (ih (m.present p.1 p.2))

theorem Mount.shown_frame (m : Mount) (ps : List (Bool × MountRec)) :
    { m.shown ps with entries := m.entries, overflow := m.overflow } = m := by
  induction ps generalizing m with
  | nil => rfl
  | cons p ps ih =>
    refine (congrArg (fun x : Mount => { x with entries := m.entries, overflow := m.overflow }) (ih (m.present p.1 p.2))).trans ?_
    exact m.present_frame p.1 p.2

theorem Mount.shown_run (m : Mount) (ps : List (Bool × MountRec)) : (m.shown ps).run = m.run := by
  have hframe := congrArg Mount.run (m.shown_frame ps)
  exact hframe

theorem Mount.shown_maxSeq (m : Mount) (ps : List (Bool × MountRec)) : (m.shown ps).maxSeq = m.maxSeq := by
  have hframe := congrArg Mount.maxSeq (m.shown_frame ps)
  exact hframe

theorem Mount.shown_ends (m : Mount) (ps : List (Bool × MountRec)) : (m.shown ps).ends = m.ends := by
  have hframe := congrArg Mount.ends (m.shown_frame ps)
  exact hframe

theorem Mount.shown_toWalk (m : Mount) (ps : List (Bool × MountRec)) : (m.shown ps).toWalk = m.toWalk := by
  have hframe := congrArg Mount.toWalk (m.shown_frame ps)
  exact hframe

/-! ## A record is yielded (R12, R13, R15) -/

theorem Mount.tearRun_eq (m : Mount) : m.tearRun = (m.atRun [] m.maxSeq).shown (m.run.map (fun r => (false, r))) := by
  rw [Mount.shown_atRun, ← Mount.presentAll_eq]
  have hseq : (m.presentAll false m.run).maxSeq = m.maxSeq := by
    rw [Mount.presentAll_eq, Mount.shown_maxSeq]
  rw [Mount.tearRun, Mount.atRun, hseq.symm]

/-- The run in progress is of one group (R12). -/
def Mount.runOf (m : Mount) (g : Nat) : Prop := ∀ x ∈ m.run, x.group = some (g, false)

section Yield
variable {m : Mount} {r : MountRec} {g : Nat}

theorem Mount.yield_lone (h : r.group = none) :
    m.yield r = (m.atRun [] (max m.maxSeq r.seq)).shown (m.run.map (fun x => (false, x)) ++ [(true, r)]) := by
  rw [Mount.shown_append]
  simp only [Mount.yield, h, Mount.tearRun_eq]
  rfl

/-- A run of the record's own group goes on (R12). -/
theorem Mount.run_same (hrun : m.runOf g) : m.run.any (fun x => x.group.any (fun y => y.1 != g)) = false := by
  rw [List.any_eq_false]
  intro x hx
  rw [hrun x hx]
  simp

theorem Mount.yield_joins (h : r.group = some (g, false)) (hrun : m.runOf g) :
    m.yield r = m.atRun (m.run ++ [r]) (max m.maxSeq r.seq) := by
  have hsame := Mount.run_same hrun
  simp only [Mount.yield, h, hsame, Bool.false_eq_true, if_false]
  rfl

theorem Mount.yield_ends (h : r.group = some (g, true)) (hrun : m.runOf g) :
    m.yield r = (m.atRun [] (max m.maxSeq r.seq)).shown ((m.run ++ [r]).map (fun x => (true, x))) := by
  have hsame := Mount.run_same hrun
  simp only [Mount.yield, h, hsame, Bool.false_eq_true, if_false, if_true, Mount.presentAll_eq]
  rw [Mount.shown_atRun]
  exact congrArg (fun x : Mount => { x with run := [] }) (Mount.shown_atRun _ m m.run (max m.maxSeq r.seq))

/-- A member of another group tears the run in progress (R12, R13). -/
theorem Mount.yield_tears {g' : Nat} {last : Bool} (h : r.group = some (g', last)) (hrun : m.runOf g) (hne : g ≠ g')
    (hsome : m.run ≠ []) : m.yield r = m.tearRun.yield r := by
  have hother : m.run.any (fun x => x.group.any (fun y => y.1 != g')) = true := by
    obtain ⟨x, rest, hx⟩ := List.exists_cons_of_ne_nil hsome
    have hmem : x ∈ m.run := by
      rw [hx]
      exact List.mem_cons_self
    refine List.any_eq_true.2 ⟨x, hmem, ?_⟩
    rw [hrun x hmem]
    exact bne_iff_ne.2 hne
  have htear : m.tearRun = (m.shown (m.run.map (fun x => (false, x)))).atRun [] m.maxSeq := by
    rw [Mount.tearRun_eq, Mount.shown_atRun]
  have htearSeen : Mount.tearRun { m with maxSeq := max m.maxSeq r.seq }
      = (m.shown (m.run.map (fun x => (false, x)))).atRun [] (max m.maxSeq r.seq) :=
    (Mount.tearRun_eq _).trans (Mount.shown_atRun _ m [] (max m.maxSeq r.seq))
  rw [htear]
  simp only [Mount.yield, h, hother, if_true, htearSeen]
  rfl

end Yield

/-! ## The decisions of R12 -/

section Decided
variable {g : Nat} {run rs : List MountRec} {r : MountRec}

theorem decided_lone (h : r.group = none) : decided (r :: rs) = (true, r) :: decided rs := by
  simp only [decided, h]

theorem decided_member {last : Bool} (h : r.group = some (g, last)) :
    decided (r :: rs) = (last || runEnds g rs, r) :: decided rs := by
  simp only [decided, h]

/-- The run's end is looked for behind its members (R12). -/
theorem runEnds_append (hrun : ∀ x ∈ run, x.group = some (g, false)) : runEnds g (run ++ rs) = runEnds g rs := by
  induction run with
  | nil => rfl
  | cons x run ih =>
    rw [List.cons_append, runEnds]
    simp only [hrun x List.mem_cons_self, beq_self_eq_true, Bool.true_and, Bool.false_or]
    exact ih fun y hy => hrun y (List.mem_cons_of_mem x hy)

/-- The members of a run in progress are accepted exactly when the records behind them carry it to its end (R12). -/
theorem decided_append (hrun : ∀ x ∈ run, x.group = some (g, false)) :
    decided (run ++ rs) = run.map (fun x => (runEnds g rs, x)) ++ decided rs := by
  induction run with
  | nil => rfl
  | cons x run ih =>
    have hrest : ∀ y ∈ run, y.group = some (g, false) := fun y hy => hrun y (List.mem_cons_of_mem x hy)
    rw [List.cons_append, decided_member (hrun x List.mem_cons_self), runEnds_append hrest, ih hrest]
    rfl

theorem runEnds_lone (h : r.group = none) : runEnds g (r :: rs) = false := by
  simp only [runEnds, h]

theorem runEnds_last (h : r.group = some (g, true)) : runEnds g (r :: rs) = true := by
  simp only [runEnds, h, beq_self_eq_true, Bool.true_or, Bool.and_self]

theorem runEnds_other {g' : Nat} {last : Bool} (h : r.group = some (g', last)) (hne : g ≠ g') : runEnds g (r :: rs) = false := by
  simp only [runEnds, h, beq_eq_false_iff_ne.2 hne.symm, Bool.false_and]

end Decided

/-! ## The records of a walk (R11 to R13, R15) -/

/-- The records of a walk yielded in order. -/
def Mount.yields (m : Mount) (rs : List MountRec) : Mount := rs.foldl (fun x r => x.yield r) m

/-- What the records of a walk leave, its unfinished run torn: each is presented with its decision (R12, R13, R15). -/
def Mount.decides (m : Mount) (rs : List MountRec) : Prop :=
  (m.yields rs).tearRun = (m.atRun [] (rs.foldl (fun k r => max k r.seq) m.maxSeq)).shown (decided (m.run ++ rs))

section Decides
variable {m : Mount} {r : MountRec} {rest : List MountRec} (ih : ∀ n : Mount, ∀ g, n.runOf g → n.decides rest)
include ih

/-- A record with which the run in progress is over. -/
theorem Mount.decides_over {ps : List (Bool × MountRec)} (hyield : m.yield r = (m.atRun [] (max m.maxSeq r.seq)).shown ps)
    (hdecided : decided (m.run ++ r :: rest) = ps ++ decided rest) : m.decides (r :: rest) := by
  have hrun : (m.yield r).run = [] := by
    rw [hyield, Mount.shown_run]
    rfl
  have hseq : (m.yield r).maxSeq = max m.maxSeq r.seq := by
    rw [hyield, Mount.shown_maxSeq]
    rfl
  have hrest := ih (m.yield r) 0 (by rw [Mount.runOf, hrun]; exact fun x hx => absurd hx List.not_mem_nil)
  rw [Mount.decides, hrun, hseq, hyield, ← Mount.shown_atRun, List.nil_append, ← Mount.shown_append, ← hdecided] at hrest
  rw [Mount.decides, Mount.yields, List.foldl_cons, hyield]
  exact hrest

/-- A record that is of the run's group, or that no run precedes. -/
theorem Mount.decides_same {g : Nat} {last : Bool} (h : r.group = some (g, last)) (hrun : m.runOf g) : m.decides (r :: rest) := by
  cases last with
  | true =>
    refine Mount.decides_over ih (Mount.yield_ends h hrun) ?_
    rw [decided_append hrun, runEnds_last h, decided_member h]
    simp
  | false =>
    have hyield := Mount.yield_joins h hrun
    have hrest := ih (m.yield r) g (by
      rw [hyield]
      intro x hx
      exact (List.mem_append.1 hx).elim (hrun x) fun hlast => by rw [List.mem_singleton.1 hlast, h])
    rw [Mount.decides, hyield] at hrest
    rw [Mount.decides, Mount.yields, List.foldl_cons, hyield]
    refine hrest.trans ?_
    have happend : (m.atRun (m.run ++ [r]) (max m.maxSeq r.seq)).run ++ rest = m.run ++ r :: rest :=
      List.append_cons m.run r rest |>.symm
    rw [happend]
    rfl

theorem Mount.decides_cons {g : Nat} (hrun : m.runOf g) : m.decides (r :: rest) := by
  cases hgroup : r.group with
  | none =>
    refine Mount.decides_over ih (Mount.yield_lone hgroup) ?_
    rw [decided_append hrun, runEnds_lone hgroup, decided_lone hgroup, List.append_assoc]
    rfl
  | some p =>
    obtain ⟨g', last⟩ := p
    by_cases hsame : m.run = [] ∨ g = g'
    · refine Mount.decides_same ih hgroup ?_
      rcases hsame with hnil | rfl
      · rw [Mount.runOf, hnil]
        exact fun x hx => absurd hx List.not_mem_nil
      · exact hrun
    · obtain ⟨hsome, hne⟩ := not_or.1 hsame
      have htear : m.tearRun = (m.shown (m.run.map (fun x => (false, x)))).atRun [] m.maxSeq := by
        rw [Mount.tearRun_eq, Mount.shown_atRun]
      have htorn : m.tearRun.decides (r :: rest) := Mount.decides_same ih hgroup (by
        rw [htear]
        exact fun x hx => absurd hx List.not_mem_nil)
      rw [Mount.decides, Mount.yields, List.foldl_cons, ← Mount.yield_tears hgroup hrun hne hsome] at htorn
      rw [Mount.decides, Mount.yields, List.foldl_cons, htorn, decided_append hrun, runEnds_other hgroup hne, Mount.shown_append,
        Mount.shown_atRun (m.run.map (fun x => (false, x))) m, htear]
      rfl

end Decides

theorem Mount.decides_all (rs : List MountRec) : ∀ (m : Mount) (g : Nat), m.runOf g → m.decides rs := by
  induction rs with
  | nil =>
    intro m g hrun
    have hdecided : decided (m.run ++ []) = m.run.map (fun x => (false, x)) := by
      rw [decided_append hrun]
      exact List.append_nil _
    rw [Mount.decides, hdecided]
    exact m.tearRun_eq
  | cons r rest ih => exact fun m g hrun => Mount.decides_cons ih hrun

/-- A run is in progress behind a record exactly when that is a member and not the end (R12). -/
theorem Mount.yield_run (r : MountRec) (m : Mount) : (!(m.yield r).run.isEmpty) = r.group.any (fun g => !g.2) := by
  cases hgroup : r.group with
  | none =>
    rw [Mount.yield_lone hgroup, Mount.shown_run]
    rfl
  | some p =>
    obtain ⟨g, last⟩ := p
    cases last with
    | true => simp only [Mount.yield, hgroup, if_true]; rfl
    | false => simp [Mount.yield, hgroup]

theorem Mount.tearRun_ends (m : Mount) : m.tearRun.ends = m.ends := by
  rw [Mount.tearRun_eq, Mount.shown_ends]
  rfl

theorem Mount.tearRun_toWalk (m : Mount) : m.tearRun.toWalk = m.toWalk := by
  rw [Mount.tearRun_eq, Mount.shown_toWalk]
  rfl

/-- The walk's end is torn when its last record is an unfinished member (R11). -/
theorem Mount.yields_torn {m : Mount} (hrun : m.run = []) (rs : List MountRec) :
    (!(m.yields rs).run.isEmpty) = match rs.getLast? with
      | some r => r.group.any (fun g => !g.2)
      | none => false := by
  rcases List.eq_nil_or_concat rs with rfl | ⟨init, r, rfl⟩
  · rw [Mount.yields, List.foldl_nil, hrun]
    rfl
  · rw [List.concat_eq_append, Mount.yields, List.foldl_append, List.foldl_cons, List.foldl_nil, List.getLast?_concat]
    exact Mount.yield_run r _

/-- What a walk's records and its end leave of the mount (R11 to R13, R15, R35). -/
theorem Mount.endWalk_yields {m : Mount} (hrun : m.run = []) (rs : List MountRec) (sector offset : Nat) (how : WalkEnd)
    (blank : Bool) : (m.yields rs).endWalk sector offset how blank = { m.shown (decided rs) with
      maxSeq := rs.foldl (fun x r => max x r.seq) m.maxSeq
      ends := m.ends ++ [{ sector := sector, offset := offset, how := how, blank := blank, torn := !(m.yields rs).run.isEmpty }]
      toWalk := m.toWalk.drop 1 } := by
  have hdecides := Mount.decides_all rs m 0 (by rw [Mount.runOf, hrun]; exact fun x hx => absurd hx List.not_mem_nil)
  rw [Mount.decides, hrun, List.nil_append, Mount.shown_atRun] at hdecides
  have hshownRun : (m.shown (decided rs)).run = [] := (m.shown_run _).trans hrun
  have hends : (m.yields rs).ends = m.ends := by
    rw [← Mount.tearRun_ends, hdecides]
    exact m.shown_ends _
  have hwalk : (m.yields rs).toWalk = m.toWalk := by
    rw [← Mount.tearRun_toWalk, hdecides]
    exact m.shown_toWalk _
  rw [Mount.endWalk, hdecides, hends, hwalk, Mount.atRun, ← hshownRun]

/-- Settles O44: the walk's records by `decides_all`, one record by `presented`. -/
theorem mountPresents : Obligations.MountPresents := by
  refine ⟨fun m rs sector offset how blank hrun => ?_, fun m accepted r => ?_⟩
  · have hafter := Mount.endWalk_yields hrun rs sector offset how blank
    rw [Mount.yields_torn hrun rs] at hafter
    exact hafter
  · refine ⟨fun e hfound => ⟨fun haccepted hseq => ?_, fun hpasses => ?_⟩, fun hnone => ⟨fun hfull => ?_, fun hroom => ?_⟩⟩
    · rw [Mount.present_some hfound, haccepted, Entry.presented_takes hseq]
      rfl
    · rw [Mount.present_some hfound, Entry.presented_passes hpasses]
    · rw [Mount.present_none hnone, if_pos hfull]
    · rw [Mount.present_none hnone, if_neg (Nat.not_le.2 hroom)]
      cases accepted with
      | true =>
        rw [Entry.presented_takes (fun x hx => by cases hx), if_pos rfl]
        rfl
      | false => rw [Entry.presented_passes (.inl rfl), if_neg Bool.false_ne_true]; rfl

end Sys2Proof.Machine
end

section
/-! PROOFS. The end of mount's header pass: the epoch, the sectors' entries, and the order of the walks
(R4, R5, R16, R17, R139, R140). -/

namespace Sys2Proof.Machine

/-! ## The forms of a header (R5, R139) -/

section Headers
variable {epoch : BitVec 16} {h : RawWord × RawWord} {est g : Nat} {e : SectorEntry}

theorem toBlankCheck_iff : toBlankCheck epoch h = true ↔ (∃ count, h.1.erase? = some (epoch, count)) ∧ h.2.isBlank = true := by
  cases herase : h.1.erase? with
  | none => simp [toBlankCheck, herase]
  | some p => simp [toBlankCheck, herase, Prod.ext_iff]

theorem walkedGen_iff : walkedGen epoch h = some g
    ↔ (∃ count, h.1.erase? = some (epoch, count)) ∧ h.2.isBlank = false ∧ h.2.open? = some g := by
  cases herase : h.1.erase? with
  | none => simp [walkedGen, herase]
  | some p =>
    by_cases hepoch : p.1 = epoch <;> cases hblank : h.2.isBlank <;> simp [walkedGen, herase, hepoch, hblank, Prod.ext_iff]

theorem SectorEntry.mounted_noHeader (herase : h.1.erase? = none) :
    e.mounted epoch est h = { e with state := .stale, eraseCount := est, dirty := true } := by
  simp only [SectorEntry.mounted, herase]

section Valid
variable {x : BitVec 16} {count : Nat} (herase : h.1.erase? = some (x, count))
include herase

theorem SectorEntry.mounted_valid : e.mounted epoch est h = if toBlankCheck epoch h then { e with state := .erased, eraseCount := count }
    else match walkedGen epoch h with
      | some g => { e with state := .full, eraseCount := count, openGen := some g }
      | none => { e with state := .stale, eraseCount := count } := by
  cases hgen : walkedGen epoch h <;> simp only [SectorEntry.mounted, herase, hgen]

theorem SectorEntry.mounted_erased (hepoch : x = epoch) (hblank : h.2.isBlank = true) :
    e.mounted epoch est h = { e with state := .erased, eraseCount := count } := by
  rw [SectorEntry.mounted_valid herase, if_pos (toBlankCheck_iff.2 ⟨⟨count, hepoch ▸ herase⟩, hblank⟩)]

theorem SectorEntry.mounted_full (hepoch : x = epoch) (hblank : h.2.isBlank = false) (hopen : h.2.open? = some g) :
    e.mounted epoch est h = { e with state := .full, eraseCount := count, openGen := some g } := by
  have hcheck : ¬ toBlankCheck epoch h = true := fun hcheck =>
    Bool.false_ne_true (hblank.symm.trans (toBlankCheck_iff.1 hcheck).2)
  have hgen : walkedGen epoch h = some g := walkedGen_iff.2 ⟨⟨count, hepoch ▸ herase⟩, hblank, hopen⟩
  rw [SectorEntry.mounted_valid herase, if_neg hcheck, hgen]

theorem SectorEntry.mounted_stale (h' : x ≠ epoch ∨ (h.2.isBlank = false ∧ h.2.open? = none)) :
    e.mounted epoch est h = { e with state := .stale, eraseCount := count } := by
  have hother : ∀ c, h.1.erase? = some (epoch, c) → x = epoch := fun c hc =>
    (congrArg Prod.fst (Option.some.inj (herase.symm.trans hc)) :)
  have hcheck : ¬ toBlankCheck epoch h = true := fun hcheck => by
    obtain ⟨⟨c, hc⟩, hblank⟩ := toBlankCheck_iff.1 hcheck
    exact h'.elim (fun hne => hne (hother c hc)) fun hno => Bool.false_ne_true (hno.1.symm.trans hblank)
  have hgen : walkedGen epoch h = none := Option.eq_none_iff_forall_ne_some.2 fun g hg => by
    obtain ⟨⟨c, hc⟩, _, hopen⟩ := walkedGen_iff.1 hg
    exact h'.elim (fun hne => hne (hother c hc)) fun hno => by
      rw [hno.2] at hopen
      cases hopen
  rw [SectorEntry.mounted_valid herase, if_neg hcheck, hgen]

end Valid

theorem estimate_eq (counts : List Nat) :
    estimate counts = if counts = [] then 0 else (counts.sum + counts.length - 1) / counts.length := by
  cases counts with
  | nil => rfl
  | cons c counts => exact (if_neg (List.cons_ne_nil c counts)).symm

end Headers

/-! ## The order of the walks (R140) -/

/-- Generations first, numbers among equal ones (R140). -/
def walksBefore (p q : Nat × Nat) : Prop := p.1 < q.1 ∨ (p.1 = q.1 ∧ p.2 < q.2)

theorem mem_insertWalk {g n : Nat} {p : Nat × Nat} {l : List (Nat × Nat)} :
    p ∈ insertWalk g n l ↔ p = (g, n) ∨ p ∈ l := by
  induction l with
  | nil => simp [insertWalk]
  | cons q l ih =>
    rw [insertWalk]
    split
    · exact List.mem_cons
    · rw [List.mem_cons, ih, List.mem_cons]
      exact or_left_comm

/-- A sector of a higher number than those placed keeps the order (R140). -/
theorem pairwise_insertWalk {g n : Nat} {l : List (Nat × Nat)} (hl : l.Pairwise walksBefore) (hn : ∀ p ∈ l, p.2 < n) :
    (insertWalk g n l).Pairwise walksBefore := by
  induction l with
  | nil => exact List.pairwise_singleton _ _
  | cons q l ih =>
    obtain ⟨hhead, htail⟩ := List.pairwise_cons.1 hl
    rw [insertWalk]
    split
    · rename_i hbefore
      refine List.pairwise_cons.2 ⟨fun p hp => .inl ?_, hl⟩
      rcases List.mem_cons.1 hp with rfl | hmem
      · exact hbefore
      · exact (hhead p hmem).elim (Nat.lt_trans hbefore) fun heq => heq.1 ▸ hbefore
    · rename_i hnot
      refine List.pairwise_cons.2 ⟨fun p hp => ?_, ih htail fun p hp => hn p (List.mem_cons_of_mem q hp)⟩
      rcases mem_insertWalk.1 hp with rfl | hmem
      · exact (Nat.lt_or_eq_of_le (Nat.not_lt.1 hnot)).imp id fun heq => ⟨heq, hn q List.mem_cons_self⟩
      · exact hhead p hmem

theorem walkOrder_concat (epoch : BitVec 16) (heads : List (RawWord × RawWord)) (h : RawWord × RawWord) :
    walkOrder epoch (heads ++ [h]) = match walkedGen epoch h with
      | some g => insertWalk g heads.length (walkOrder epoch heads)
      | none => walkOrder epoch heads := by
  rw [walkOrder, List.mapIdx_concat, List.foldl_append, List.foldl_cons, List.foldl_nil]
  cases hgen : walkedGen epoch h <;> rfl

theorem exists_getElem?_concat {α : Type} {l : List α} {a : α} {n : Nat} {P : α → Prop} :
    (∃ x, (l ++ [a])[n]? = some x ∧ P x) ↔ (n = l.length ∧ P a) ∨ ∃ x, l[n]? = some x ∧ P x := by
  rcases Nat.lt_trichotomy n l.length with hlt | rfl | hgt
  · rw [List.getElem?_append_left hlt]
    exact (or_iff_right fun heq => absurd heq.1 (Nat.ne_of_lt hlt)).symm
  · rw [List.getElem?_concat_length, List.getElem?_eq_none (Nat.le_refl l.length)]
    simp
  · have hnone : (l ++ [a])[n]? = none := List.getElem?_eq_none (by rw [List.length_append]; exact hgt)
    rw [hnone, List.getElem?_eq_none (Nat.le_of_lt hgt)]
    simp [Nat.ne_of_gt hgt]

/-- Induction along a list that grows at its end, as the header pass gathers its headers. -/
theorem concat_induction {α : Type} {motive : List α → Prop} (nil : motive [])
    (concat : ∀ (l : List α) (a : α), motive l → motive (l ++ [a])) (l : List α) : motive l := by
  have hreverse : ∀ l : List α, motive l.reverse := fun l => by
    induction l with
    | nil => exact nil
    | cons a l ih =>
      rw [List.reverse_cons]
      exact concat l.reverse a ih
  have h := hreverse l.reverse
  rw [List.reverse_reverse] at h
  exact h

theorem mem_walkOrder {epoch : BitVec 16} {heads : List (RawWord × RawWord)} {g n : Nat} :
    (g, n) ∈ walkOrder epoch heads ↔ ∃ h, heads[n]? = some h ∧ walkedGen epoch h = some g := by
  induction heads using concat_induction with
  | nil => simp [walkOrder]
  | concat heads last ih =>
    rw [walkOrder_concat, exists_getElem?_concat, ← ih]
    cases hgen : walkedGen epoch last with
    | none => simp
    | some g' =>
      simp only [mem_insertWalk, Prod.mk.injEq, Option.some.injEq]
      exact or_congr_left ⟨fun heq => ⟨heq.2, heq.1.symm⟩, fun heq => ⟨heq.2.symm, heq.1⟩⟩

theorem pairwise_walkOrder (epoch : BitVec 16) (heads : List (RawWord × RawWord)) :
    (walkOrder epoch heads).Pairwise walksBefore := by
  induction heads using concat_induction with
  | nil => exact List.Pairwise.nil
  | concat heads last ih =>
    rw [walkOrder_concat]
    cases walkedGen epoch last with
    | none => exact ih
    | some g =>
      refine pairwise_insertWalk ih fun p hp => ?_
      obtain ⟨h, hget, _⟩ := mem_walkOrder.1 hp
      exact (List.getElem?_eq_some_iff.1 hget).1

/-- The highest of some generations, or 0 (R139). -/
theorem foldl_max_bounds (gens : List Nat) :
    (∀ g ∈ gens, g ≤ gens.foldl max 0) ∧ (gens.foldl max 0 = 0 ∨ gens.foldl max 0 ∈ gens) := by
  rw [List.foldl_max, Nat.zero_max]
  cases hmax : gens.max? with
  | none =>
    rw [List.max?_eq_none_iff.1 hmax]
    exact ⟨fun g hg => absurd hg List.not_mem_nil, .inl rfl⟩
  | some k =>
    obtain ⟨hmem, hle⟩ := List.max?_eq_some_iff.1 hmax
    exact ⟨hle, .inr hmem⟩

/-! ## The header pass ends (R16, R17, R139) -/

section Ends
variable {m : Mount} {n : Nat}

/-- A sector's entry by the form of its header (R139). -/
theorem Mount.headersRead_entry {h : RawWord × RawWord} (hget : m.heads[n]? = some h) (hlength : m.heads.length = m.table.length) :
    m.headersRead.table.getD n SectorEntry.initial = (m.table.getD n SectorEntry.initial).mounted m.headersRead.epoch
      (estimate ((eraseWords m.heads).map (fun x => x.2))) h := by
  have hlt : n < m.table.length := hlength ▸ (List.getElem?_eq_some_iff.1 hget).1
  have hentry : m.table[n]? = some m.table[n] := List.getElem?_eq_getElem hlt
  have hzip : m.headersRead.table[n]? = some (m.table[n].mounted m.headersRead.epoch
      (estimate ((eraseWords m.heads).map (fun x => x.2))) h) := by
    refine List.getElem?_zipWith.trans ?_
    rw [hget, hentry]
    rfl
  rw [List.getD_eq_getElem?_getD, List.getD_eq_getElem?_getD, hzip, hentry]
  rfl

theorem Mount.mem_toCheck : n ∈ m.headersRead.toCheck
    ↔ (∃ h count, m.heads[n]? = some h ∧ h.1.erase? = some (m.headersRead.epoch, count))
      ∧ ∃ h, m.heads[n]? = some h ∧ h.2.isBlank = true := by
  refine List.mem_filter.trans ?_
  cases hget : m.heads[n]? with
  | none => simp
  | some h =>
    have hlt : n < m.heads.length := (List.getElem?_eq_some_iff.1 hget).1
    have hform : toBlankCheck m.headersRead.epoch h = true ↔ _ := toBlankCheck_iff
    rw [List.mem_range, and_iff_right hlt, Option.any_some]
    refine hform.trans ⟨fun ⟨⟨count, hc⟩, hblank⟩ => ⟨⟨h, count, rfl, hc⟩, h, rfl, hblank⟩, ?_⟩
    rintro ⟨⟨h', count, heq, hc⟩, h'', heq', hblank⟩
    cases heq
    cases heq'
    exact ⟨⟨count, hc⟩, hblank⟩

theorem Mount.mem_toWalk : n ∈ m.headersRead.toWalk
    ↔ (∃ h count, m.heads[n]? = some h ∧ h.1.erase? = some (m.headersRead.epoch, count))
      ∧ ∃ h g, m.heads[n]? = some h ∧ h.2.isBlank = false ∧ h.2.open? = some g := by
  refine List.mem_map.trans ⟨?_, ?_⟩
  · rintro ⟨⟨g, n⟩, hp, rfl⟩
    obtain ⟨h, hget, hgen⟩ := mem_walkOrder.1 hp
    obtain ⟨⟨count, hc⟩, hblank, hopen⟩ := walkedGen_iff.1 hgen
    exact ⟨⟨h, count, hget, hc⟩, h, g, hget, hblank, hopen⟩
  · rintro ⟨⟨h, count, hget, hc⟩, h', g, hget', hblank, hopen⟩
    obtain rfl := Option.some.inj (hget.symm.trans hget')
    exact ⟨(g, n), mem_walkOrder.2 ⟨h, hget, walkedGen_iff.2 ⟨⟨count, hc⟩, hblank, hopen⟩⟩, rfl⟩

/-- The generation of a sector's open word (R4). -/
def Mount.gen (m : Mount) (n : Nat) : Nat := ((m.heads[n]?).bind (fun h => h.2.open?)).getD 0

theorem Mount.gen_of_mem {p : Nat × Nat} (hp : p ∈ walkOrder m.headersRead.epoch m.heads) : m.gen p.2 = p.1 := by
  obtain ⟨h, hget, hgen⟩ := mem_walkOrder.1 hp
  rw [Mount.gen, hget, Option.bind_some, (walkedGen_iff.1 hgen).2.2]
  rfl

theorem Mount.pairwise_toWalk (m : Mount) :
    m.headersRead.toWalk.Pairwise (fun x y => m.gen x < m.gen y ∨ (m.gen x = m.gen y ∧ x < y)) := by
  refine List.pairwise_map.2 ((pairwise_walkOrder _ _).imp_of_mem fun ha hb hab => ?_)
  rw [Mount.gen_of_mem ha, Mount.gen_of_mem hb]
  exact hab

theorem Mount.maxGen_bounds (m : Mount) : (∀ n ∈ m.headersRead.toWalk, m.gen n ≤ m.headersRead.maxGen)
    ∧ (m.headersRead.maxGen = 0 ∨ ∃ n ∈ m.headersRead.toWalk, m.headersRead.maxGen = m.gen n) := by
  obtain ⟨hle, hmem⟩ := foldl_max_bounds ((walkOrder m.headersRead.epoch m.heads).map (fun p => p.1))
  refine ⟨fun n hn => ?_, hmem.imp_right fun hmem => ?_⟩
  · obtain ⟨p, hp, rfl⟩ := List.mem_map.1 hn
    rw [Mount.gen_of_mem hp]
    exact hle _ (List.mem_map_of_mem hp)
  · obtain ⟨p, hp, hg⟩ := List.mem_map.1 hmem
    exact ⟨p.2, List.mem_map_of_mem hp, hg.symm.trans (Mount.gen_of_mem hp).symm⟩

end Ends

/-- The mount that has read the last sector's header, nothing yet decided (R139). -/
def Mount.lastHeader (m : Mount) (words : List RawWord) (h : RawWord × RawWord) : Mount :=
  { m.count 127 words with heads := m.heads ++ [h] }

/-- Settles O42: what `headersRead` makes of the headers, and a blank check. -/
theorem headerPassEnds : Obligations.HeaderPassEnds := by
  intro s decayed r m hheld hop hwho hinside hmount flash words base counted
  have hexec := exec_mountRead hheld hop hwho hinside decayed
  have hmount' : (s.mountBase r decayed).mount = some m := hmount
  refine ⟨fun a b hphase hwords hheads htable => ?_, fun n rest hphase hcheck => ?_⟩
  · intro heads valid epoch counts estimated gen current opened blank
    rw [State.mountRead_headers hmount' hphase hwords, if_neg (by rw [hheads]; decide), hheads] at hexec
    have hcounted : (m.lastHeader words (a, b)).table.length = 128 := by
      simp [Mount.lastHeader, Mount.count, htable]
    have hlength : (m.lastHeader words (a, b)).heads.length = (m.lastHeader words (a, b)).table.length := by
      rw [hcounted]
      exact List.length_append.trans (congrArg (fun k => k + 1) hheads)
    refine ⟨(m.lastHeader words (a, b)).headersRead, _, hexec, State.mountNext_goesOn _ _,
      rfl, ?_, fun n h hget => ?_, fun n => Mount.mem_toCheck, ?_,
      fun n => Mount.mem_toWalk, (m.lastHeader words (a, b)).pairwise_toWalk,
      (m.lastHeader words (a, b)).maxGen_bounds⟩
    · exact List.length_zipWith.trans (by rw [hlength, Nat.min_self, hcounted])
    · intro e entered
      have hentered : entered = e.mounted epoch estimated h :=
        (Mount.headersRead_entry (m := m.lastHeader words (a, b)) hget hlength).trans
          (congrArg (fun est => SectorEntry.mounted epoch est h e) (estimate_eq counts))
      refine ⟨fun hnone => hentered.trans (SectorEntry.mounted_noHeader hnone), fun x count herase => ⟨fun hne => ?_,
        fun heq hblank => ?_, fun _ hblank hopen => ?_, fun g heq hblank hopen => ?_⟩⟩
      · exact hentered.trans (SectorEntry.mounted_stale herase (.inl hne))
      · exact hentered.trans (SectorEntry.mounted_erased herase heq hblank)
      · exact hentered.trans (SectorEntry.mounted_stale herase (.inr ⟨hblank, hopen⟩))
      · exact hentered.trans (SectorEntry.mounted_full herase heq hblank hopen)
    · exact List.pairwise_lt_range.filter _
  · rw [State.mountRead_blankCheck hmount' hphase hcheck] at hexec
    exact ⟨_, hexec, State.mountNext_goesOn _ _⟩

end Sys2Proof.Machine
end
